-- ==== Sys2Proof/Word.lean ====
section
/-! DEFINITION. The word type of the Gwynrax 2 architecture, the wide register types, and the finite table
`Tab` in which the machine keeps everything that is addressed by a number: registers, memory, cores. -/

namespace Sys2Proof

/-- A general register, an address, a CSR: 64 bits (R24, R73). -/
abbrev Word := BitVec 64

/-- A vector register: 32 lanes of 32 bits; lane `i` holds bits `32*i+31 : 32*i` (R161). -/
abbrev VReg := BitVec 1024

/-- A row of 64 elements of 32 bits: an accumulator row, or a weight row in 4-byte containers (R194, R353). -/
abbrev Row := BitVec 2048

/-- A finite table from numbers to values, with a default for every number it does not list.
Canonical form: keys strictly rising, no listed value equal to the default (`Tab.wf`), so that two
tables that read alike are equal data. -/
structure Tab (α : Type) where
  cells : List (Nat × α)
  deriving DecidableEq, Repr

namespace Tab
variable {α : Type}

/-- The table that lists nothing. -/
def empty : Tab α := ⟨[]⟩

/-- The value at `k`, or the default `d` where `k` is not listed. -/
def lookup (d : α) : List (Nat × α) → Nat → α
  | [], _ => d
  | (j, x) :: r, k => if j = k then x else lookup d r k

def get (d : α) (t : Tab α) (k : Nat) : α := lookup d t.cells k

/-- The cells without key `k`. -/
def drop : List (Nat × α) → Nat → List (Nat × α)
  | [], _ => []
  | (j, x) :: r, k => if j = k then drop r k else (j, x) :: drop r k

/-- The cells with `(k, v)` put before the first larger key. -/
def place : List (Nat × α) → Nat → α → List (Nat × α)
  | [], k, v => [(k, v)]
  | (j, x) :: r, k, v => if k < j then (k, v) :: (j, x) :: r else (j, x) :: place r k v

/-- The table with the value `v` at `k`; writing the default removes the entry. -/
def set [DecidableEq α] (d : α) (t : Tab α) (k : Nat) (v : α) : Tab α :=
  if v = d then ⟨drop t.cells k⟩ else ⟨place (drop t.cells k) k v⟩

/-- Keys strictly above `lo`, strictly rising, and no value equal to the default. -/
def wfFrom [DecidableEq α] (d : α) : List (Nat × α) → Nat → Bool
  | [], _ => true
  | (j, x) :: r, lo => decide (lo ≤ j) && decide (x ≠ d) && wfFrom d r (j + 1)

/-- The canonical form of a table. -/
def wf [DecidableEq α] (d : α) (t : Tab α) : Bool := wfFrom d t.cells 0

/-- The keys a table lists. -/
def keys (t : Tab α) : List Nat := t.cells.map Prod.fst

end Tab

end Sys2Proof
end

