-- ==== Sys2Proof/Machine/Bits.lean ====
section
/-! DEFINITION. Bit fields, sign extension and little-endian byte order (R1, R7). -/

namespace Sys2Proof.Machine

/-- Bits `hi : lo` of a value, as a number (R1). -/
def fieldNat {n : Nat} (x : BitVec n) (hi lo : Nat) : Nat := (x.toNat >>> lo) % 2 ^ (hi + 1 - lo)

/-- `SExt(x, 64)` (R7). -/
def sext64 {n : Nat} (x : BitVec n) : Word := x.signExtend 64

/-- `ZExt(x, 64)` (R7). -/
def zext64 {n : Nat} (x : BitVec n) : Word := x.setWidth 64

/-- A truth value as a one-bit number. -/
def bit (b : Bool) : Nat := if b then 1 else 0

/-- `x` with its `w` bits from `lo` on replaced by the low bits of `v`. -/
def putField {n : Nat} (x : BitVec n) (lo w : Nat) (v : Nat) : BitVec n :=
  let mask : BitVec n := BitVec.ofNat n ((2 ^ w - 1) <<< lo)
  (x &&& ~~~mask) ||| (BitVec.ofNat n ((v % 2 ^ w) <<< lo))

/-- The number whose little-endian bytes are listed (R1). -/
def leNat : List (BitVec 8) → Nat
  | [] => 0
  | b :: r => b.toNat + 256 * leNat r

/-- The `n` little-endian bytes of a number (R1). -/
def leBytes : Nat → Nat → List (BitVec 8)
  | 0, _ => []
  | n + 1, v => BitVec.ofNat 8 v :: leBytes n (v / 256)

/-- `x` as a signed number in `w` bits. -/
def signedOf (w : Nat) (x : Nat) : Int :=
  let y := x % 2 ^ w
  if 2 * y < 2 ^ w then (y : Int) else (y : Int) - 2 ^ w

/-- The `w` low bits of an integer. -/
def wrapNat (w : Nat) (z : Int) : Nat := (z % 2 ^ w).toNat

/-- Lane `i` of a vector register (R161). -/
def lane (v : VReg) (i : Nat) : BitVec 32 := v.extractLsb' (32 * i) 32

/-- A register built lane by lane, lane 0 lowest. -/
def ofLanes (f : Nat → BitVec 32) : VReg :=
  BitVec.ofNat 1024 ((List.range 32).foldr (fun i acc => (f i).toNat + 2 ^ 32 * acc) 0)

/-- Element `i` of a 64-element row. -/
def elem (r : Row) (i : Nat) : BitVec 32 := r.extractLsb' (32 * i) 32

/-- A row built element by element, element 0 lowest. -/
def ofElems (f : Nat → BitVec 32) : Row :=
  BitVec.ofNat 2048 ((List.range 64).foldr (fun i acc => (f i).toNat + 2 ^ 32 * acc) 0)

/-- Ceiling division. -/
def cdiv (a b : Nat) : Nat := (a + b - 1) / b

end Sys2Proof.Machine
end

