-- ==== Sys2Proof/Machine/Hash.lean ====
section
/-! DEFINITION. SHA3-512 (R341, R412), on 25 lanes of 64 bits, lane x + 5y. -/

namespace Sys2Proof.Machine

/-- Rotations of the lanes, x + 5y. -/
def keccakRot : List Nat :=
  [0, 1, 62, 28, 27, 36, 44, 6, 55, 20, 3, 10, 43, 25, 39, 41, 45, 15, 21, 8, 18, 2, 61, 56, 14]

def keccakConst : List Word :=
  [0x0000000000000001, 0x0000000000008082, 0x800000000000808A, 0x8000000080008000, 0x000000000000808B, 0x0000000080000001,
   0x8000000080008081, 0x8000000000008009, 0x000000000000008A, 0x0000000000000088, 0x0000000080008009, 0x000000008000000A]
  ++ [0x000000008000808B, 0x800000000000008B, 0x8000000000008089, 0x8000000000008003, 0x8000000000008002, 0x8000000000000080,
   0x000000000000800A, 0x800000008000000A, 0x8000000080008081, 0x8000000000008080, 0x0000000080000001, 0x8000000080008008]

def laneAt (a : List Word) (x y : Nat) : Word := a.getD (x % 5 + 5 * (y % 5)) 0

def keccakRound (a : List Word) (rc : Word) : List Word :=
  let c := (List.range 5).map (fun x => laneAt a x 0 ^^^ laneAt a x 1 ^^^ laneAt a x 2 ^^^ laneAt a x 3 ^^^ laneAt a x 4)
  let d := (List.range 5).map (fun x => c.getD ((x + 4) % 5) 0 ^^^ (c.getD ((x + 1) % 5) 0).rotateLeft 1)
  let t := (List.range 25).map (fun i => a.getD i 0 ^^^ d.getD (i % 5) 0)
  -- lane (x, y) moves to (y, 2x + 3y): the lane at (x, y) comes from (x + 3y, x)
  let b := (List.range 25).map (fun i =>
    let x := i % 5
    let y := i / 5
    let j := (x + 3 * y) % 5 + 5 * x
    (t.getD j 0).rotateLeft (keccakRot.getD j 0))
  (List.range 25).map (fun i =>
    let x := i % 5
    let y := i / 5
    let v := laneAt b x y ^^^ (~~~(laneAt b (x + 1) y) &&& laneAt b (x + 2) y)
    if i = 0 then v ^^^ rc else v)

def keccak (a : List Word) : List Word := keccakConst.foldl keccakRound a

/-- A block of 72 bytes is absorbed. -/
def absorb (a : List Word) (b : List (BitVec 8)) : List Word :=
  keccak ((List.range 25).map (fun i => a.getD i 0 ^^^ (if i < 9 then BitVec.ofNat 64 (leNat ((b.drop (8 * i)).take 8)) else 0)))

def absorbAll : Nat → List Word → List (BitVec 8) → List Word
  | 0, a, _ => a
  | n + 1, a, b => absorbAll n (absorb a (b.take 72)) (b.drop 72)

/-- The message padded to whole blocks: 0x06, zeros, and the top bit of the last byte. -/
def shaPadded (m : List (BitVec 8)) : List (BitVec 8) :=
  let n := 72 - m.length % 72
  if n = 1 then m ++ [0x86] else m ++ [0x06] ++ List.replicate (n - 2) 0 ++ [0x80]

/-- The digest, 64 bytes. -/
def sha3 (m : List (BitVec 8)) : List (BitVec 8) :=
  let p := shaPadded m
  ((absorbAll (p.length / 72) (List.replicate 25 0) p).take 8).flatMap (fun x => leBytes 8 x.toNat)

end Sys2Proof.Machine
end

