-- ==== Sys2Proof/Syntax.lean ====
section
/-! DEFINITION. The steps of the machine: one constructor for every row of spec/opcode_table.json. An
instruction word carries the fields of its encoding (the table's field names and widths; a long form also the
fields of its prefix word, R50). A step that is no instruction word (an engine's step, a supervisor's write, an event) carries the
numbers of the units it concerns. -/

namespace Sys2Proof

/-- Registers of the hub, the facets and the context slots that a write reaches without a row of its own
(table row REGISTER_WRITE, R4); `f` a facet, `k` the register's own number, `q` a submission queue, `c` a context slot. -/
inductive SupReg where
  | migthr (f : Nat) | nqstat (f : Nat)                                    -- R130
  | sntBase (f k : Nat) | sntLim (f k : Nat) | sntCtl (f k : Nat) | sntRec (f k : Nat)   -- R134
  | nbwin (f k : Nat)                                                      -- R222
  | pwinA (f k : Nat) | pwinB (f k : Nat)                                  -- R259
  | ecccnt (core : Nat) | deccnt (f : Nat)                                 -- R406
  | ptroot (c k : Nat)                                                     -- R123
  | ctx (c : Nat) | stopbase (c : Nat) | stopst (c : Nat) | wdoglim (c : Nat) | spawnq (c : Nat)   -- R407
  | ciqbase (c : Nat) | ciqhead (c : Nat) | fpbase (c : Nat) | fpsz (c : Nat) | fpcnt (c : Nat)     -- R407, R352
  | locbase (c : Nat)                                                      -- R342
  | sqbase (q : Nat) | sqtick (q : Nat) | sqerr (q : Nat)                  -- R327
  | fabimg | fabdrop                                                       -- R366, R374
  | secmap | secrgnA (k : Nat) | secrgnB (k : Nat)                         -- R410
  | dbgtgt | dbgidx | dbgdata (k : Nat) | dbgcmd | dbgsig (k : Nat)        -- R403, R411
  | qsasid (h : Nat)                                                       -- R330
  deriving DecidableEq, Repr

/-- Suspension causes (R350). -/
inductive SuspCause where
  | page | pull | spill | ropf
  deriving DecidableEq, Repr

/-- The steps of the part: every row of spec/opcode_table.json. -/
inductive Instr where
  -- E = 0, integer (R64, R79 to R83)
  | nop
  | add (d : BitVec 6) (n : BitVec 1) (a b : BitVec 6)
  | addi (d : BitVec 6) (n : BitVec 1) (a : BitVec 6) (i : BitVec 10)
  | sub (d : BitVec 6) (n : BitVec 1) (a b : BitVec 6)
  | and (d : BitVec 6) (n : BitVec 1) (a b : BitVec 6)
  | andi (d : BitVec 6) (n : BitVec 1) (a : BitVec 6) (i : BitVec 10)
  | or (d : BitVec 6) (n : BitVec 1) (a b : BitVec 6)
  | ori (d : BitVec 6) (n : BitVec 1) (a : BitVec 6) (i : BitVec 10)
  | xor (d : BitVec 6) (n : BitVec 1) (a b : BitVec 6)
  | xori (d : BitVec 6) (n : BitVec 1) (a : BitVec 6) (i : BitVec 10)
  | andn (d : BitVec 6) (n : BitVec 1) (a b : BitVec 6)
  | shl (d : BitVec 6) (n : BitVec 1) (a b : BitVec 6)
  | shli (d : BitVec 6) (n : BitVec 1) (a : BitVec 6) (i : BitVec 6)
  | shr (d : BitVec 6) (n : BitVec 1) (a b : BitVec 6)
  | shri (d : BitVec 6) (n : BitVec 1) (a : BitVec 6) (i : BitVec 6)
  | sar (d : BitVec 6) (n : BitVec 1) (a b : BitVec 6)
  | sari (d : BitVec 6) (n : BitVec 1) (a : BitVec 6) (i : BitVec 6)
  | rol (d : BitVec 6) (n : BitVec 1) (a b : BitVec 6)
  | mul (d : BitVec 6) (n : BitVec 1) (a b : BitVec 6)
  | mulh (d : BitVec 6) (n : BitVec 1) (a b : BitVec 6)
  | mulhn (d : BitVec 6) (n : BitVec 1) (a b : BitVec 6)
  | div (d : BitVec 6) (n : BitVec 1) (a b : BitVec 6)
  | divn (d : BitVec 6) (n : BitVec 1) (a b : BitVec 6)
  | rem (d : BitVec 6) (n : BitVec 1) (a b : BitVec 6)
  | remn (d : BitVec 6) (n : BitVec 1) (a b : BitVec 6)
  | min (d : BitVec 6) (n : BitVec 1) (a b : BitVec 6)
  | max (d : BitVec 6) (n : BitVec 1) (a b : BitVec 6)
  | minn (d : BitVec 6) (n : BitVec 1) (a b : BitVec 6)
  | maxn (d : BitVec 6) (n : BitVec 1) (a b : BitVec 6)
  | clz (d : BitVec 6) (n : BitVec 1) (a : BitVec 6)
  | popc (d : BitVec 6) (n : BitVec 1) (a : BitVec 6)
  | ext (d : BitVec 6) (n : BitVec 1) (a : BitVec 6) (f : BitVec 4)
  | li (d : BitVec 6) (i : BitVec 17)
  | lih (d : BitVec 6) (i : BitVec 16)
  | lea (d : BitVec 6) (n : BitVec 1) (a b : BitVec 6) (f : BitVec 4)
  | hset (d : BitVec 6) (n : BitVec 1) (a b : BitVec 6) (f : BitVec 4)
  | hget (d : BitVec 6) (n : BitVec 1) (a : BitVec 6) (f : BitVec 4)
  -- compares, predicates, control, loops (R87 to R97)
  | cmp (c p : BitVec 3) (a b : BitVec 6)
  | cmpi (c p : BitVec 3) (a : BitVec 6) (i : BitVec 10)
  | plog (d : BitVec 3) (t : BitVec 4) (a b : BitVec 3)
  | sel (d : BitVec 6) (n : BitVec 1) (a b : BitVec 6) (g : BitVec 4)
  | movpGet (d : BitVec 6)
  | movpSet (a : BitVec 6)
  | br (p : BitVec 3) (s : BitVec 1) (o : BitVec 19)
  | call (p : BitVec 3) (s : BitVec 1) (o : BitVec 19)
  | jr (d a : BitVec 6)
  | loop (c : BitVec 12) (e : BitVec 10)
  | loopReg (a : BitVec 6) (e : BitVec 10)
  | loopn (k : BitVec 3) (e : BitVec 6) (f : BitVec 6) (c : BitVec 3)
  | nsetReg (k : BitVec 3) (a b : BitVec 6)
  | nsetImm (k : BitVec 3) (b : BitVec 9) (s : BitVec 10)
  | nget (d : BitVec 6) (s : BitVec 1) (k : BitVec 3)
  -- system (R389)
  | csrr (d : BitVec 6) (c : BitVec 12)
  | csrw (a : BitVec 6) (c : BitVec 12)
  | trap (c : BitVec 16)
  | tret
  | brk (c : BitVec 16)
  | dload (a : BitVec 6)
  | dfence
  | iflush (a b : BitVec 6)
  -- E = 1 (R109 to R128)
  | ldB (d a : BitVec 6) (o : BitVec 12)
  | ldBn (d a : BitVec 6) (o : BitVec 12)
  | ldH (d a : BitVec 6) (o : BitVec 12)
  | ldHn (d a : BitVec 6) (o : BitVec 12)
  | ldW (d a : BitVec 6) (o : BitVec 12)
  | ldWn (d a : BitVec 6) (o : BitVec 12)
  | ldD (d a : BitVec 6) (o : BitVec 12)
  | lda (d a : BitVec 6) (z c : BitVec 2) (g : BitVec 1) (o : BitVec 7)
  | ldx (d a b : BitVec 6) (z : BitVec 2) (s : BitVec 1)
  | stB (s a : BitVec 6) (g : BitVec 4) (o : BitVec 8)
  | stH (s a : BitVec 6) (g : BitVec 4) (o : BitVec 8)
  | stW (s a : BitVec 6) (g : BitVec 4) (o : BitVec 8)
  | stD (s a : BitVec 6) (g : BitVec 4) (o : BitVec 8)
  | stl (s a : BitVec 6) (g : BitVec 4) (z c : BitVec 2) (o : BitVec 4)
  | vld (v : BitVec 5) (a : BitVec 6) (o : BitVec 12)
  | vst (v : BitVec 5) (a : BitVec 6) (g : BitVec 4) (k : BitVec 1) (m : BitVec 3) (o : BitVec 4)
  | vgath (d : BitVec 5) (a : BitVec 6) (i : BitVec 5) (z : BitVec 2) (s : BitVec 1)
  | vscat (s : BitVec 5) (a : BitVec 6) (g : BitVec 4) (i : BitVec 5) (z : BitVec 2)
  | aadd (d a b : BitVec 6) (g : BitVec 4) (c : BitVec 2)
  | aand (d a b : BitVec 6) (g : BitVec 4) (c : BitVec 2)
  | aor (d a b : BitVec 6) (g : BitVec 4) (c : BitVec 2)
  | axor (d a b : BitVec 6) (g : BitVec 4) (c : BitVec 2)
  | amin (d a b : BitVec 6) (g : BitVec 4) (c : BitVec 2)
  | amax (d a b : BitVec 6) (g : BitVec 4) (c : BitVec 2)
  | aminn (d a b : BitVec 6) (g : BitVec 4) (c : BitVec 2)
  | amaxn (d a b : BitVec 6) (g : BitVec 4) (c : BitVec 2)
  | aswp (d a b : BitVec 6) (g : BitVec 4) (c : BitVec 2)
  | acas (d a b : BitVec 6) (g : BitVec 4) (c : BitVec 2)
  | mark (c : BitVec 2)
  | fence (c : BitVec 2)
  | lkup (d a : BitVec 6)
  | tins (a b : BitVec 6)
  | tinv (a : BitVec 6)
  | tstat (d a : BitVec 6)
  | loadReturn (core quad : Nat)
  -- E = 2 (R166, R167)
  | vadd (d a b : BitVec 5) (t : BitVec 3) (s : BitVec 1)
  | vsub (d a b : BitVec 5) (t : BitVec 3) (s : BitVec 1)
  | vmul (d a b : BitVec 5) (t : BitVec 3) (s : BitVec 1)
  | vfma (d a b : BitVec 5) (t : BitVec 3) (c : BitVec 5)
  | vmin (d a b : BitVec 5) (t : BitVec 3)
  | vmax (d a b : BitVec 5) (t : BitVec 3)
  | vabs (d a : BitVec 5) (t : BitVec 3) (s : BitVec 1)
  | vneg (d a : BitVec 5) (t : BitVec 3) (s : BitVec 1)
  | vand (d a b : BitVec 5)
  | vor (d a b : BitVec 5)
  | vxor (d a b : BitVec 5)
  | vshl (d a b : BitVec 5) (t : BitVec 3) (i : BitVec 1)
  | vshr (d a b : BitVec 5) (t : BitVec 3) (i : BitVec 1)
  | vsar (d a b : BitVec 5) (t : BitVec 3) (i : BitVec 1)
  | vcmp (m : BitVec 3) (a b : BitVec 5) (t : BitVec 3) (y : BitVec 1) (c : BitVec 3)
  | vsel (d a b : BitVec 5) (m : BitVec 3)
  | vcvt (d a b : BitVec 5) (t : BitVec 3) (h : BitVec 1) (y : BitVec 3)
  | vred (d : BitVec 6) (a : BitVec 5) (t : BitVec 3) (g : BitVec 1) (o : BitVec 3)
  | vscan (d a : BitVec 5) (t : BitVec 3) (x : BitVec 1) (o : BitVec 3)
  | vperm (d a b : BitVec 5)
  | vbcast (d : BitVec 5) (a : BitVec 6) (t : BitVec 3)
  | vextr (d : BitVec 6) (a : BitVec 5) (e : BitVec 2) (t : BitVec 3) (l : BitVec 5)
  | vins (d : BitVec 5) (a : BitVec 6) (e : BitVec 2) (t : BitVec 3) (l : BitVec 5)
  | vrcp (d a : BitVec 5) (t : BitVec 3)
  | vrsq (d a : BitVec 5) (t : BitVec 3)
  | vexp2 (d a : BitVec 5) (t : BitVec 3)
  | vlog2 (d a : BitVec 5) (t : BitVec 3)
  | vsin (d a : BitVec 5) (t : BitVec 3)
  | vcos (d a : BitVec 5) (t : BitVec 3)
  | vact (d a : BitVec 5)
  | vrng (d a b : BitVec 5) (k : BitVec 6)
  | vqnt (d a f : BitVec 5)
  | vdqnt (d a f : BitVec 5)
  | vdot4 (d a b : BitVec 5) (t : BitVec 3) (c : BitVec 5)
  | vmovmMv (d : BitVec 3) (a : BitVec 5)
  | vmovmVm (d : BitVec 5) (m : BitVec 3)
  | vmovmMg (m : BitVec 3) (a : BitVec 6)
  | mlog (d : BitVec 6) (a b : BitVec 3) (g : BitVec 1) (f : BitVec 4)
  | vidx (d : BitVec 5) (t : BitVec 3)
  | vqput (a : BitVec 5) (f : BitVec 6)
  | vqget (d : BitVec 5) (f : BitVec 6)
  | vli (d : BitVec 5) (k : BitVec 2) (i : BitVec 16)
  /-- A prefixed vector word (R168): the prefix fields, then the fields of the R60 layout. -/
  | repeatedVectorWord (k sd sa sb sc : BitVec 3) (op : BitVec 6) (d a b : BitVec 5) (t : BitVec 3) (c : BitVec 5)
  | dictionaryWord (i : BitVec 8) (p : BitVec 21)
  -- E = 3 (R202); long forms carry their prefix fields after those of the word
  | wld (w s : BitVec 4) (a b : BitVec 6) (k : BitVec 7) (f : BitVec 5) (t : BitVec 1) (p : BitVec 6)
  | wsel (w s : BitVec 4)
  | mstr (w s : BitVec 4) (base : BitVec 8) (a : BitVec 6) (c : BitVec 2) (m : BitVec 8) (f : BitVec 5) (n : BitVec 3) (p : BitVec 6)
  | mstq (w s : BitVec 4) (base : BitVec 8) (q : BitVec 1) (c : BitVec 2) (m : BitVec 8)
  | mstx (w s : BitVec 4) (base : BitVec 8) (a : BitVec 6) (c : BitVec 2) (m : BitVec 8) (f : BitVec 5) (n : BitVec 3) (p : BitVec 6)
  | mepiBias (w s : BitVec 4) (a : BitVec 6)
  | mepiScale (w s : BitVec 4) (a : BitVec 6)
  | mepiZero (w s : BitVec 4) (a : BitVec 6)
  | mepiAclr (w s : BitVec 4)
  | mout (w s : BitVec 4) (base : BitVec 8) (a : BitVec 6) (k : BitVec 2) (m : BitVec 8) (eb ea eq : BitVec 1) (f : BitVec 6) (n : BitVec 3) (c : BitVec 2) (i : BitVec 1)
  | mgrp (w s : BitVec 4) (base : BitVec 8) (a : BitVec 6) (c : BitVec 2) (nb : BitVec 4) (f : BitVec 5) (x t : BitVec 6)
  | mfade (w s : BitVec 4) (a : BitVec 6)
  | mact (w s : BitVec 4) (a : BitVec 6)
  | mzero (w s : BitVec 4) (b : BitVec 8) (c : BitVec 8)
  | maccld (w s : BitVec 4) (base : BitVec 8) (a : BitVec 6) (m : BitVec 8)
  | mnb (w s : BitVec 4) (a : BitVec 6)
  | mstat (w s : BitVec 4) (d : BitVec 6)
  | mprog (w s : BitVec 4) (n : BitVec 8)
  | msig (w s : BitVec 4)
  | mcan (w s : BitVec 4)
  | matrixCommandComplete (core : Nat)
  -- E = 4 (R238, R239, R366, R383, R387)
  | cpy (c : BitVec 3) (d s b : BitVec 6)
  | cpyLong (c : BitVec 3) (d s b : BitVec 6) (tv : BitVec 1) (tag : BitVec 6) (sl : BitVec 4) (cv : BitVec 1) (sf df : BitVec 6) (qe : BitVec 2)
  | cpyn (c : BitVec 3) (d s r : BitVec 6) (k : BitVec 3)
  | cpynLong (c : BitVec 3) (d s r : BitVec 6) (k : BitVec 3) (tv : BitVec 1) (tag : BitVec 6) (sl : BitVec 4) (cv : BitVec 1) (sf df : BitVec 6) (sd mc : BitVec 1)
  | chain (c : BitVec 3) (a : BitVec 6)
  | drain (c : BitVec 3) (l : BitVec 1) (i : BitVec 16)
  | twall (a : BitVec 6) (i : BitVec 16)
  | twany (a : BitVec 6) (i : BitVec 16)
  | tfind (d a : BitVec 6)
  | tclr (a : BitVec 6)
  | pfh (c : BitVec 3) (a b : BitVec 6)
  | pfhAdapt (c : BitVec 3) (a b : BitVec 6)
  | send (c : BitVec 3) (d a b : BitVec 6)
  | drop (c : BitVec 3) (a : BitVec 6)
  | pqry (c : BitVec 3) (d a : BitVec 6)
  | pull (h : BitVec 3) (a b n : BitVec 6)
  | pullLong (h : BitVec 3) (a b n : BitVec 6) (tv : BitVec 1) (tag : BitVec 6)
  | bopen (t : BitVec 2)
  | bclose (t : BitVec 2)
  | bwait (d : BitVec 6) (t : BitVec 2) (i : BitVec 16)
  | bsel (t : BitVec 2)
  | sqst (d a : BitVec 6)
  | slotw (d a b : BitVec 6)
  | copyBurst (core : Nat)
  | copyJobCompletion (core ch : Nat)
  | chainRecordFetch (core ch : Nat)
  -- E = 5 (R280, R315)
  | qbindReg (q : BitVec 4) (a : BitVec 6)
  | qbindLabel (q : BitVec 4) (o : BitVec 19)
  | qres (d : BitVec 6) (q : BitVec 4) (i : BitVec 12)
  | qcmt (a : BitVec 6) (q : BitVec 4)
  | qacq (d : BitVec 6) (q : BitVec 4) (i : BitVec 12)
  | qrel (a : BitVec 6) (q : BitVec 4)
  | qstat (d : BitVec 6) (q : BitVec 4)
  | hand (g : BitVec 6) (q : BitVec 4) (i : BitVec 12)
  | role (m : BitVec 8) (s : BitVec 12)
  | tbar
  | cbar
  | smwait (k : BitVec 4) (i : BitVec 12)
  | smsig (k : BitVec 4)
  | sigw (a b : BitVec 6) (i : BitVec 12)
  | sigwCond (a b : BitVec 6) (i : BitVec 12) (c : BitVec 2)
  | sigadd (a b : BitVec 6) (c : BitVec 2)
  | awaitEq (a b : BitVec 6)
  | awaitGen (a b : BitVec 6)
  | awaitTags (b : BitVec 6)
  | yield
  | tend
  | spawn (d a b : BitVec 6)
  | guard (k : BitVec 4) (a : BitVec 6)
  | stge (k : BitVec 3) (a b : BitVec 6)
  | stwt (k : BitVec 3) (i : BitVec 12)
  | teamid (d : BitVec 6)
  /-- The supervisor cores' custom-0 instruction (R329): rs2 `b`, rs1 `a`. -/
  | qsubmit (b a : BitVec 5)
  -- steps of the part that are no instruction word
  | engineTrapTaken (core quad : Nat)
  | waitLimitExpiry (core quad : Nat)
  | waitYield (core : Nat)
  | watchdogExpiry (core quad : Nat)
  | homeRequest (f : Nat)
  | tlbWalk (f : Nat)
  | migrationComplete (f : Nat)
  | pullDataArrival (f : Nat)
  | pullWaitTimeout (core quad : Nat)
  | stallTimeout (f : Nat)
  | leaseRenewal (f : Nat)
  | linkExpiry (f l : Nat)
  | packetSend (dst : Nat)
  | e2eTimeout (dst : Nat)
  | packetStart (q : Nat)
  | tickLaunch (q : Nat)
  | dispatchPlacement (f : Nat)
  | locusEntryStart (core : Nat)
  | taskDone (task : Nat)
  | budgetOverrun (core : Nat)
  | taskSuspend (core : Nat) (cause : SuspCause)
  | switchAway (core : Nat)
  | awaitConditionMet (task : Nat)
  | contextSave (core : Nat)
  | saveComplete (core : Nat)
  | freezeEnd (core : Nat)
  | illegalEncoding (sub : BitVec 8)
  | exposedResultLanding (core quad : Nat)
  | restoreComplete (core : Nat)
  | mprogRowsWritten (core : Nat)
  | locusRefine (c : Nat) (hash : Word)
  -- steps that come from outside or carry no number (last: the compiled code numbers 245 constructors that carry data)
  | linkRelease (f l : Nat)
  | pageReady (f : Nat) (asid : BitVec 16) (off : BitVec 54)
  | migrate (f : Nat) (asid : BitVec 16) (off : BitVec 54) (ffac : Nat) (frame : BitVec 48)
  | migclr (f : Nat) (v : Word)
  | nqheadWrite (f : Nat) (v : Word)
  | tlbinvPage (f : Nat) (asid : BitVec 16) (vpn : BitVec 38)
  | tlbinvAsid (f : Nat) (asid : BitVec 16)
  | tlbinvAll (f : Nat)
  | packetReceive
  | e2eAcknowledgement
  | linkReplayRequest (fibre chan : Nat) (lseq : BitVec 8)
  | linkCreditReturn (fibre chan n : Nat)
  | reservationReturn (dst n quota : Nat)
  | summaryRequest
  | summaryReply
  | slotStart
  | tableActivate
  | fabactLoad (v : Word)
  | rquotaWrite (s : Nat) (v : Word)
  | sqDoorbell (q : Nat) (v : BitVec 32)
  | taskKill (task : Nat)
  | preempt (c : Nat)
  | resumeContext (c : Nat)
  | coreoffWrite (f k : Nat) (v : Word)
  | locinv (c : Nat) (v : Word)
  | locinva (c : Nat)
  | sqctlWrite (q : Nat) (v : Word)
  | sqerrClear (q : Nat)
  | ciqctlWrite (c : Nat) (v : Word)
  | feataccWrite (v : Word)
  | dbgRead
  | dbgWrite
  | dbgFreeze
  | dbgThaw
  | dbgauthGo
  | dbgauthLock
  | eccCorrected (core : Nat)
  | eccUncorrectable (core : Nat) (owned : Bool)
  | clockStep (f : Nat) (up : Bool)
  | thermalShutdown
  | powerOn
  | registerWrite (r : SupReg) (v : Word)
  | powerOff
  | dbgauthVerifyDone
  | fabimgLoadDone
  deriving DecidableEq, Repr

end Sys2Proof
end

