-- ==== Sys2Proof/WellFormed.lean ====
section
/-! DEFINITION. Which instruction words are legal: the field rules of the class chapters, as the list of illegal-encoding
subcauses (R72) that an instruction's fields break. An instruction is well formed when it breaks none. -/

namespace Sys2Proof

/-- One subcause, unless the rule holds. -/
def rule (ok : Bool) (sub : Nat) : List Nat := if ok then [] else [sub]

/-- A 6-bit source selector names g0 to g47 or b0 to b3 (R44). -/
def srcOk (a : BitVec 6) : List Nat := rule (decide (a.toNat < 52)) 4

/-- A 6-bit destination names g0 to g47 (R45). -/
def dstOk (d : BitVec 6) : List Nat := rule (decide (d.toNat < 48)) 5

/-- A destination with its n bit: with n = 1 the d field is 0 (R45). -/
def dstN (d : BitVec 6) (n : BitVec 1) : List Nat := dstOk d ++ rule (n = 0 || d = 0) 5

/-- Elements per lane of a vector type (R162). -/
def typeCount (t : Nat) : Nat := if t = 1 ∨ t = 2 ∨ t = 5 then 2 else if t = 6 ∨ t = 7 then 4 else 1

def isFloatType (t : Nat) : Bool := decide (t < 3)

/-- The assigned CSR numbers (R391). -/
def csrAssigned (c : Nat) : Bool :=
  decide (c < 8) || decide (0x10 ≤ c ∧ c ≤ 0x12) || decide (0x20 ≤ c ∧ c ≤ 0x21) || decide (0x30 ≤ c ∧ c ≤ 0x34)
    || decide (0x40 ≤ c ∧ c ≤ 0x45) || decide (0x50 ≤ c ∧ c ≤ 0x53) || decide (0x60 ≤ c ∧ c ≤ 0x63) || decide (c = 0x70)

/-- A queue format code that conversions accept (R157). -/
def queueCode (f : Nat) : Bool := decide (f < 20) || decide (f = 32) || decide (f = 33)

/-- The ops of the vector layout table (R166): the words that a prefix may repeat. -/
def isLayoutOp (op : Nat) : Bool :=
  decide (op ≤ 0x10) || decide (op = 0x12) || decide (op = 0x13) || decide (0x17 ≤ op ∧ op ≤ 0x1D)
    || decide (op = 0x1F) || decide (op = 0x20) || decide (op = 0x21) || decide (op = 0x24)

/-- Does the word read a v register in its vb field? (R166) -/
def usesVb (op t c : Nat) : Bool :=
  decide (op ≤ 5) || decide (8 ≤ op ∧ op ≤ 0xA) || (decide (0xB ≤ op ∧ op ≤ 0xD) && decide (c % 2 = 0))
    || decide (op = 0xE) || decide (op = 0xF) || decide (op = 0x13) || decide (op = 0x21)
    || (decide (op = 0x10) && decide (typeCount (c % 8) = 2 * typeCount t))

/-- Does bits [4:0] of the word name a v register? (R166) -/
def usesVc (op : Nat) : Bool := decide (op = 3) || decide (op = 0x21)

/-- The field rules of a word of the vector layout (R166, R173, R175, R179, R190), its fields as R60 numbers them. -/
def vecRules (op d _a b t c : Nat) : List Nat :=
  let f := isFloatType t
  let s := c % 2
  let z (ok : Bool) := rule ok 3
  let ty (ok : Bool) := rule ok 9
  if op ≤ 2 then z (decide (c < 2)) ++ z (!f || decide (s = 0))
  else if op = 3 then []
  else if op = 4 ∨ op = 5 then z (decide (c = 0))
  else if op = 6 ∨ op = 7 then
    z (decide (b = 0)) ++ z (decide (c < 2)) ++ z (!f || decide (s = 0)) ++ ty (decide (t ≠ 4 ∧ t ≠ 7))
  else if op ≤ 0xA then ty (decide (t = 3)) ++ z (decide (c = 0))
  else if op ≤ 0xD then
    ty (!f) ++ z (decide (c < 2)) ++ rule (decide (s = 0) || decide (b < 32 / typeCount t)) 0x0B
  else if op = 0xE then z (decide (d < 8)) ++ z (decide (c < 16))
  else if op = 0xF then ty (decide (t = 3)) ++ z (decide (c < 8))
  else if op = 0x10 then
    let cs := typeCount t
    let cd := typeCount (c % 8)
    z (decide (c < 16)) ++ ty (decide (cd ≠ 4 * cs ∧ cs ≠ 4 * cd))
      ++ z (decide (cd = 2 * cs) || decide (b = 0)) ++ z (decide (2 * cd = cs) || decide (c < 8))
  else if op = 0x12 then
    z (decide (b = 0)) ++ z (decide (c < 16)) ++ rule (decide (c % 8 < 6)) 2 ++ ty (!f || decide (c % 8 < 3))
  else if op = 0x13 then ty (decide (t = 3)) ++ z (decide (c = 0))
  else if 0x17 ≤ op ∧ op ≤ 0x1C then ty f ++ z (decide (b = 0)) ++ z (decide (c = 0))
  else if op = 0x1D then ty (decide (t = 0)) ++ z (decide (b = 0)) ++ z (decide (c = 0))
  else if op = 0x1F ∨ op = 0x20 then ty (decide (t = 0)) ++ z (decide (b = 0)) ++ ty (decide (20 ≤ c))
  else if op = 0x21 then ty (decide (t = 1 ∨ t = 2 ∨ t = 5 ∨ t = 6 ∨ t = 7))
  else if op = 0x24 then ty (!f) ++ z (decide (_a = 0)) ++ z (decide (b = 0)) ++ z (decide (c = 0))
  else [8]

/-- The rules of the prefix of a repeated vector word (R168). -/
def repeatRules (k sd sa sb sc op t c : Nat) : List Nat :=
  rule (decide (k < 6)) 0x0B ++ rule (decide (op ≠ 0xE) || decide (sd = 0)) 3 ++ rule (decide (op ≠ 0x24) || decide (sa = 0)) 3
    ++ rule (usesVb op t c || decide (sb = 0)) 3 ++ rule (usesVc op || decide (sc = 0)) 3

/-- The copy prefix rules shared by CPY and CPYN (R239). -/
def convRules (cv : BitVec 1) (sf df : BitVec 6) : List Nat :=
  if cv = 0 then rule (sf = 0) 3 ++ rule (df = 0) 3
  else rule (queueCode sf.toNat) 9 ++ rule (queueCode df.toNat) 9

/-- The subcauses that an instruction's fields break (R44, R45, R72 and the class chapters); `[]` for a legal instruction. -/
def violations : Instr → List Nat
  | .add d n a b | .sub d n a b | .and d n a b | .or d n a b | .xor d n a b | .andn d n a b | .shl d n a b | .shr d n a b
  | .sar d n a b | .rol d n a b | .mul d n a b | .mulh d n a b | .mulhn d n a b | .div d n a b | .divn d n a b | .rem d n a b
  | .remn d n a b | .min d n a b | .max d n a b | .minn d n a b | .maxn d n a b => dstN d n ++ srcOk a ++ srcOk b
  | .addi d n a _ | .andi d n a _ | .ori d n a _ | .xori d n a _ => dstN d n ++ srcOk a
  | .shli d n a _ | .shri d n a _ | .sari d n a _ => dstN d n ++ srcOk a
  | .clz d n a | .popc d n a => dstN d n ++ srcOk a
  | .ext d n a f => dstN d n ++ srcOk a ++ rule (decide (f.toNat < 8)) 3 ++ rule (decide (8 ≤ f.toNat ∨ f.toNat % 4 ≠ 3)) 9
  | .li d _ | .lih d _ => dstOk d
  | .lea d n a b _ => dstN d n ++ srcOk a ++ srcOk b
  | .hset d n a b f => dstN d n ++ srcOk a ++ srcOk b ++ rule (decide (f.toNat < 3)) 9
  | .hget d n a f => dstN d n ++ srcOk a ++ rule (decide (f.toNat < 3)) 9
  | .cmp _ _ a b => srcOk a ++ srcOk b
  | .cmpi _ _ a _ => srcOk a
  | .sel d n a b _ => dstN d n ++ srcOk a ++ srcOk b
  | .movpGet d => dstOk d
  | .movpSet a => srcOk a
  | .jr d a => dstOk d ++ srcOk a
  | .loop _ e => rule (decide (1 ≤ e.toNat ∧ e.toNat ≤ 64)) 0x0B
  | .loopReg a e => srcOk a ++ rule (decide (1 ≤ e.toNat ∧ e.toNat ≤ 64)) 0x0B
  | .loopn k _ f c =>
    rule (decide (k.toNat < 6)) 0x0B ++ rule (decide (c.toNat < 5)) 0x0B ++ rule (c ≠ 0 || f = 0) 3
      ++ rule (c = 0 || decide (1 ≤ f.toNat ∧ f.toNat + c.toNat ≤ 48)) 0x0B
  | .nsetReg k a b => rule (decide (k.toNat < 6)) 0x0B ++ srcOk a ++ srcOk b
  | .nsetImm k _ _ => rule (decide (k.toNat < 6)) 0x0B
  | .nget d _ k => dstOk d ++ rule (decide (k.toNat < 6)) 0x0B
  | .csrr d c => dstOk d ++ rule (csrAssigned c.toNat) 0x0B
  | .csrw a c => srcOk a ++ rule (csrAssigned c.toNat) 0x0B
  | .dload a => srcOk a
  | .iflush a b => srcOk a ++ srcOk b
  | .ldB d a _ | .ldBn d a _ | .ldH d a _ | .ldHn d a _ | .ldW d a _ | .ldWn d a _ | .ldD d a _ => dstOk d ++ srcOk a
  | .lda d a z _ g _ => dstOk d ++ srcOk a ++ rule (z ≠ 3 || g = 0) 3
  | .ldx d a b z s => dstOk d ++ srcOk a ++ srcOk b ++ rule (z ≠ 3 || s = 0) 3
  | .stB s a _ _ | .stH s a _ _ | .stW s a _ _ | .stD s a _ _ => srcOk s ++ srcOk a
  | .stl s a _ _ _ _ => srcOk s ++ srcOk a
  | .vld _ a _ | .vst _ a _ _ _ _ => srcOk a
  | .vgath _ a _ z s => srcOk a ++ rule (z ≠ 3) 9 ++ rule (z ≠ 2 || s = 0) 3
  | .vscat _ a _ _ z => srcOk a ++ rule (z ≠ 3) 9
  | .aadd d a b _ _ | .aand d a b _ _ | .aor d a b _ _ | .axor d a b _ _ | .amin d a b _ _ | .amax d a b _ _
  | .aminn d a b _ _ | .amaxn d a b _ _ | .aswp d a b _ _ | .acas d a b _ _ => dstOk d ++ srcOk a ++ srcOk b
  | .lkup d a | .tstat d a => dstOk d ++ srcOk a
  | .tins a b => srcOk a ++ srcOk b
  | .tinv a => srcOk a
  | .vadd d a b t s => vecRules 0x00 d.toNat a.toNat b.toNat t.toNat s.toNat
  | .vsub d a b t s => vecRules 0x01 d.toNat a.toNat b.toNat t.toNat s.toNat
  | .vmul d a b t s => vecRules 0x02 d.toNat a.toNat b.toNat t.toNat s.toNat
  | .vfma d a b t c => vecRules 0x03 d.toNat a.toNat b.toNat t.toNat c.toNat
  | .vmin d a b t => vecRules 0x04 d.toNat a.toNat b.toNat t.toNat 0
  | .vmax d a b t => vecRules 0x05 d.toNat a.toNat b.toNat t.toNat 0
  | .vabs d a t s => vecRules 0x06 d.toNat a.toNat 0 t.toNat s.toNat
  | .vneg d a t s => vecRules 0x07 d.toNat a.toNat 0 t.toNat s.toNat
  | .vshl d a b t i => vecRules 0x0B d.toNat a.toNat b.toNat t.toNat i.toNat
  | .vshr d a b t i => vecRules 0x0C d.toNat a.toNat b.toNat t.toNat i.toNat
  | .vsar d a b t i => vecRules 0x0D d.toNat a.toNat b.toNat t.toNat i.toNat
  | .vcvt d a b t h y => vecRules 0x10 d.toNat a.toNat b.toNat t.toNat (8 * h.toNat + y.toNat)
  | .vscan d a t x o => vecRules 0x12 d.toNat a.toNat 0 t.toNat (8 * x.toNat + o.toNat)
  | .vrcp d a t => vecRules 0x17 d.toNat a.toNat 0 t.toNat 0
  | .vrsq d a t => vecRules 0x18 d.toNat a.toNat 0 t.toNat 0
  | .vexp2 d a t => vecRules 0x19 d.toNat a.toNat 0 t.toNat 0
  | .vlog2 d a t => vecRules 0x1A d.toNat a.toNat 0 t.toNat 0
  | .vsin d a t => vecRules 0x1B d.toNat a.toNat 0 t.toNat 0
  | .vcos d a t => vecRules 0x1C d.toNat a.toNat 0 t.toNat 0
  | .vqnt d a f => vecRules 0x1F d.toNat a.toNat 0 0 f.toNat
  | .vdqnt d a f => vecRules 0x20 d.toNat a.toNat 0 0 f.toNat
  | .vdot4 d a b t c => vecRules 0x21 d.toNat a.toNat b.toNat t.toNat c.toNat
  | .vidx d t => vecRules 0x24 d.toNat 0 0 t.toNat 0
  | .vred d _ t g o =>
    rule (decide (o.toNat < 6)) 2 ++ rule (decide (o.toNat < 3) || !isFloatType t.toNat) 9
      ++ (if g = 0 then rule (decide (d.toNat < 32)) 3 else dstOk d)
  | .vbcast _ a _ => srcOk a
  | .vextr d _ e t _ => dstOk d ++ rule (decide (e.toNat < typeCount t.toNat)) 0x0B
  | .vins _ a e t _ => srcOk a ++ rule (decide (e.toNat < typeCount t.toNat)) 0x0B
  | .vrng _ _ _ k => srcOk k
  | .vmovmMg _ a => srcOk a
  | .mlog d _ _ g f =>
    if g = 0 then rule (decide (d.toNat < 8)) 3 else dstOk d ++ rule (decide (f.toNat < 3)) 2
  | .vli _ k _ => rule (k ≠ 3) 2
  | .repeatedVectorWord k sd sa sb sc op d a b t c =>
    rule (isLayoutOp op.toNat) 8 ++ (if isLayoutOp op.toNat then vecRules op.toNat d.toNat a.toNat b.toNat t.toNat c.toNat
        ++ repeatRules k.toNat sd.toNat sa.toNat sb.toNat sc.toNat op.toNat t.toNat c.toNat else [])
  | .wld _ _ a b _ f _ p => srcOk a ++ srcOk b ++ srcOk p ++ rule (decide (20 ≤ f.toNat) || p = 0) 3
  | .mstr _ _ base a c m f n p | .mstx _ _ base a c m f n p =>
    srcOk a ++ srcOk p ++ rule (c ≠ 3) 3 ++ rule (decide (20 ≤ f.toNat) || p = 0) 3 ++ rule (n ≠ 6) 0x0B
      ++ rule (decide (6 ≤ n.toNat) || m = 0) 3 ++ rule (n ≠ 7 || decide (base.toNat + m.toNat < 256)) 0x0B
  | .mstq _ _ base _ c m => rule (c ≠ 3) 3 ++ rule (decide (base.toNat + m.toNat < 256)) 0x0B
  | .mepiBias _ _ a | .mepiScale _ _ a | .mepiZero _ _ a | .mfade _ _ a | .mact _ _ a | .mnb _ _ a => srcOk a
  | .mout _ _ base a k m _ _ _ _ n _ _ =>
    srcOk a ++ rule (k ≠ 3) 9 ++ rule (n ≠ 6) 0x0B ++ rule (decide (base.toNat + m.toNat < 256)) 0x0B
  | .mgrp _ _ base a c nb _ x t =>
    srcOk a ++ srcOk x ++ srcOk t ++ rule (c ≠ 3) 3 ++ rule (decide (base.toNat + 16 * (nb.toNat + 1) ≤ 256)) 0x0B
  | .mzero _ _ b c => rule (decide (b.toNat + c.toNat < 256)) 0x0B
  | .maccld _ _ base a m => srcOk a ++ rule (decide (base.toNat + m.toNat < 256)) 0x0B
  | .mstat _ _ d => dstOk d
  | .cpy _ d s b => srcOk d ++ srcOk s ++ srcOk b
  | .cpyLong _ d s b tv tag _ cv sf df qe =>
    srcOk d ++ srcOk s ++ srcOk b ++ rule (tv = 1 || tag = 0) 3 ++ convRules cv sf df ++ rule (qe ≠ 3) 9
  | .cpyn _ d s r k => srcOk d ++ srcOk s ++ srcOk r ++ rule (decide (k.toNat < 6)) 0x0B
  | .cpynLong _ d s r k tv tag _ cv sf df _ mc =>
    srcOk d ++ srcOk s ++ srcOk r ++ rule (decide (k.toNat < 6)) 0x0B ++ convRules cv sf df
      ++ (if mc = 1 then srcOk tag ++ rule (tv = 0) 3 else rule (tv = 1 || tag = 0) 3)
  | .chain _ a | .drop _ a => srcOk a
  | .drain c l _ => rule (l = 0 || c = 0) 3
  | .twall a _ | .twany a _ | .tclr a => srcOk a
  | .tfind d a => dstOk d ++ srcOk a
  | .pfh _ a b | .pfhAdapt _ a b => srcOk a ++ srcOk b
  | .send _ d a b => dstOk d ++ srcOk a ++ srcOk b
  | .pqry _ d a => dstOk d ++ srcOk a
  | .pull _ a b n => srcOk a ++ srcOk b ++ srcOk n
  | .pullLong _ a b n tv tag => srcOk a ++ srcOk b ++ srcOk n ++ rule (tv = 1 || tag = 0) 3
  | .bwait d _ _ => dstOk d
  | .sqst d a => dstOk d ++ srcOk a
  | .slotw d a b => dstOk d ++ srcOk a ++ srcOk b
  | .qbindReg _ a => srcOk a
  | .qres d _ _ | .qacq d _ _ | .qstat d _ | .teamid d => dstOk d
  | .qcmt a _ | .qrel a _ => srcOk a
  | .hand g _ _ => rule (decide (g.toNat < 48)) 5
  | .smwait k _ => rule (k ≠ 0) 0x0B
  | .smsig k => rule (k ≠ 0) 0x0B
  | .sigw a b _ | .sigwCond a b _ _ | .sigadd a b _ => srcOk a ++ srcOk b
  | .awaitEq a b | .awaitGen a b => srcOk a ++ srcOk b
  | .awaitTags b => srcOk b
  | .spawn d a b => dstOk d ++ srcOk a ++ srcOk b
  | .guard _ a => srcOk a
  | .stge _ a b => srcOk a ++ srcOk b
  | _ => []

/-- A well-formed instruction breaks no field rule. -/
def wf (i : Instr) : Bool := (violations i).isEmpty

end Sys2Proof
end

