-- ==== Sys2Proof/Decode.lean ====
section
/-! DEFINITION. From instruction words to instructions and back, written from the encoding tables of the class chapters
(R35 to R72, R79 to R96, R109 to R128, R166 to R168, R202, R238, R239, R280, R315, R366, R383, R387, R389). A word is a number below 2^32. -/

namespace Sys2Proof

/-- What a decoder makes of an instruction: the instruction, or the lowest subcause of its illegality (R72). -/
inductive Decoded where
  | instr (i : Instr)
  | illegal (sub : Nat)
  deriving DecidableEq, Repr

/-- The field of `len` bits from bit `lo` of a word. -/
def fld (w lo len : Nat) : BitVec len := BitVec.ofNat len (w / 2 ^ lo)

/-- The same field as a number. -/
def fn (w lo len : Nat) : Nat := w / 2 ^ lo % 2 ^ len

/-- A reserved or unused field must be zero (subcause 3). -/
def zero (w lo len : Nat) : List Nat := rule (decide (fn w lo len = 0)) 3

/-- The least of a nonempty list of subcauses: the one that is reported (R72). -/
def least : Nat → List Nat → Nat
  | m, [] => m
  | m, x :: r => least (min m x) r

/-- The instruction, unless some rule of its encoding or of its fields is broken. -/
def verdict (extra : List Nat) (i : Instr) : Decoded :=
  match extra ++ violations i with
  | [] => .instr i
  | x :: r => .illegal (least x r)

/-- E = 0: scalar, control and system (R62). -/
def decodeE0 (w : Nat) : Decoded :=
  match fn w 23 6 with
  | 0x00 => verdict (zero w 0 23) .nop
  | 0x01 => verdict (zero w 0 4) (.add (fld w 17 6) (fld w 16 1) (fld w 10 6) (fld w 4 6))
  | 0x02 => verdict ([]) (.addi (fld w 17 6) (fld w 16 1) (fld w 10 6) (fld w 0 10))
  | 0x03 => verdict (zero w 0 4) (.sub (fld w 17 6) (fld w 16 1) (fld w 10 6) (fld w 4 6))
  | 0x04 => verdict (zero w 0 4) (.and (fld w 17 6) (fld w 16 1) (fld w 10 6) (fld w 4 6))
  | 0x05 => verdict ([]) (.andi (fld w 17 6) (fld w 16 1) (fld w 10 6) (fld w 0 10))
  | 0x06 => verdict (zero w 0 4) (.or (fld w 17 6) (fld w 16 1) (fld w 10 6) (fld w 4 6))
  | 0x07 => verdict ([]) (.ori (fld w 17 6) (fld w 16 1) (fld w 10 6) (fld w 0 10))
  | 0x08 => verdict (zero w 0 4) (.xor (fld w 17 6) (fld w 16 1) (fld w 10 6) (fld w 4 6))
  | 0x09 => verdict ([]) (.xori (fld w 17 6) (fld w 16 1) (fld w 10 6) (fld w 0 10))
  | 0x0A => verdict (zero w 0 4) (.andn (fld w 17 6) (fld w 16 1) (fld w 10 6) (fld w 4 6))
  | 0x0B => verdict (zero w 0 4) (.shl (fld w 17 6) (fld w 16 1) (fld w 10 6) (fld w 4 6))
  | 0x0C => verdict (rule (decide (fn w 6 4 = 0)) 0x0B) (.shli (fld w 17 6) (fld w 16 1) (fld w 10 6) (fld w 0 6))
  | 0x0D => verdict (zero w 0 4) (.shr (fld w 17 6) (fld w 16 1) (fld w 10 6) (fld w 4 6))
  | 0x0E => verdict (rule (decide (fn w 6 4 = 0)) 0x0B) (.shri (fld w 17 6) (fld w 16 1) (fld w 10 6) (fld w 0 6))
  | 0x0F => verdict (zero w 0 4) (.sar (fld w 17 6) (fld w 16 1) (fld w 10 6) (fld w 4 6))
  | 0x10 => verdict (rule (decide (fn w 6 4 = 0)) 0x0B) (.sari (fld w 17 6) (fld w 16 1) (fld w 10 6) (fld w 0 6))
  | 0x11 => verdict (zero w 0 4) (.rol (fld w 17 6) (fld w 16 1) (fld w 10 6) (fld w 4 6))
  | 0x12 => verdict (zero w 0 4) (.mul (fld w 17 6) (fld w 16 1) (fld w 10 6) (fld w 4 6))
  | 0x13 => verdict (zero w 0 4) (.mulh (fld w 17 6) (fld w 16 1) (fld w 10 6) (fld w 4 6))
  | 0x14 => verdict (zero w 0 4) (.mulhn (fld w 17 6) (fld w 16 1) (fld w 10 6) (fld w 4 6))
  | 0x15 => verdict (zero w 0 4) (.div (fld w 17 6) (fld w 16 1) (fld w 10 6) (fld w 4 6))
  | 0x16 => verdict (zero w 0 4) (.divn (fld w 17 6) (fld w 16 1) (fld w 10 6) (fld w 4 6))
  | 0x17 => verdict (zero w 0 4) (.rem (fld w 17 6) (fld w 16 1) (fld w 10 6) (fld w 4 6))
  | 0x18 => verdict (zero w 0 4) (.remn (fld w 17 6) (fld w 16 1) (fld w 10 6) (fld w 4 6))
  | 0x19 => verdict (zero w 0 4) (.min (fld w 17 6) (fld w 16 1) (fld w 10 6) (fld w 4 6))
  | 0x1A => verdict (zero w 0 4) (.max (fld w 17 6) (fld w 16 1) (fld w 10 6) (fld w 4 6))
  | 0x1B => verdict (zero w 0 4) (.minn (fld w 17 6) (fld w 16 1) (fld w 10 6) (fld w 4 6))
  | 0x1C => verdict (zero w 0 4) (.maxn (fld w 17 6) (fld w 16 1) (fld w 10 6) (fld w 4 6))
  | 0x1D => verdict (zero w 0 10) (.clz (fld w 17 6) (fld w 16 1) (fld w 10 6))
  | 0x1E => verdict (zero w 0 10) (.popc (fld w 17 6) (fld w 16 1) (fld w 10 6))
  | 0x1F => verdict (zero w 4 6) (.ext (fld w 17 6) (fld w 16 1) (fld w 10 6) (fld w 0 4))
  | 0x20 => verdict ([]) (.li (fld w 17 6) (fld w 0 17))
  | 0x21 => verdict (zero w 16 1) (.lih (fld w 17 6) (fld w 0 16))
  | 0x22 => verdict ([]) (.lea (fld w 17 6) (fld w 16 1) (fld w 10 6) (fld w 4 6) (fld w 0 4))
  | 0x23 => verdict ([]) (.hset (fld w 17 6) (fld w 16 1) (fld w 10 6) (fld w 4 6) (fld w 0 4))
  | 0x24 => verdict (zero w 4 6) (.hget (fld w 17 6) (fld w 16 1) (fld w 10 6) (fld w 0 4))
  | 0x25 => verdict (zero w 16 1 ++ zero w 0 4) (.cmp (fld w 20 3) (fld w 17 3) (fld w 10 6) (fld w 4 6))
  | 0x26 => verdict (zero w 16 1) (.cmpi (fld w 20 3) (fld w 17 3) (fld w 10 6) (fld w 0 10))
  | 0x27 => verdict (zero w 0 10) (.plog (fld w 20 3) (fld w 16 4) (fld w 13 3) (fld w 10 3))
  | 0x28 => verdict ([]) (.sel (fld w 17 6) (fld w 16 1) (fld w 10 6) (fld w 4 6) (fld w 0 4))
  | 0x29 =>
    match fn w 16 1 with
    | 0 => verdict (zero w 0 16) (.movpGet (fld w 17 6))
    | _ => verdict (zero w 17 6 ++ zero w 0 10) (.movpSet (fld w 10 6))
  | 0x2A => verdict ([]) (.br (fld w 20 3) (fld w 19 1) (fld w 0 19))
  | 0x2B => verdict ([]) (.call (fld w 20 3) (fld w 19 1) (fld w 0 19))
  | 0x2C => verdict (zero w 16 1 ++ zero w 0 10) (.jr (fld w 17 6) (fld w 10 6))
  | 0x2D =>
    match fn w 22 1 with
    | 0 => verdict (zero w 16 6) (.loopReg (fld w 10 6) (fld w 0 10))
    | _ => verdict ([]) (.loop (fld w 10 12) (fld w 0 10))
  | 0x2E => verdict (zero w 0 5) (.loopn (fld w 20 3) (fld w 14 6) (fld w 8 6) (fld w 5 3))
  | 0x2F =>
    match fn w 19 1 with
    | 0 => verdict (zero w 16 3 ++ zero w 0 4) (.nsetReg (fld w 20 3) (fld w 10 6) (fld w 4 6))
    | _ => verdict ([]) (.nsetImm (fld w 20 3) (fld w 10 9) (fld w 0 10))
  | 0x30 => verdict (zero w 0 13) (.nget (fld w 17 6) (fld w 16 1) (fld w 13 3))
  | 0x38 => verdict (zero w 12 5) (.csrr (fld w 17 6) (fld w 0 12))
  | 0x39 => verdict (zero w 18 5) (.csrw (fld w 12 6) (fld w 0 12))
  | 0x3A => verdict (zero w 16 7) (.trap (fld w 0 16))
  | 0x3B => verdict (zero w 0 23) .tret
  | 0x3C => verdict (zero w 16 7) (.brk (fld w 0 16))
  | 0x3D => verdict (zero w 18 5 ++ zero w 0 12) (.dload (fld w 12 6))
  | 0x3E => verdict (zero w 0 23) .dfence
  | 0x3F => verdict (zero w 18 5 ++ zero w 0 6) (.iflush (fld w 12 6) (fld w 6 6))
  | _ => .illegal 2

/-- E = 1: memory (R65). -/
def decodeE1 (w : Nat) : Decoded :=
  match fn w 24 5 with
  | 0x00 => verdict ([]) (.ldB (fld w 18 6) (fld w 12 6) (fld w 0 12))
  | 0x01 => verdict ([]) (.ldBn (fld w 18 6) (fld w 12 6) (fld w 0 12))
  | 0x02 => verdict ([]) (.ldH (fld w 18 6) (fld w 12 6) (fld w 0 12))
  | 0x03 => verdict ([]) (.ldHn (fld w 18 6) (fld w 12 6) (fld w 0 12))
  | 0x04 => verdict ([]) (.ldW (fld w 18 6) (fld w 12 6) (fld w 0 12))
  | 0x05 => verdict ([]) (.ldWn (fld w 18 6) (fld w 12 6) (fld w 0 12))
  | 0x06 => verdict ([]) (.ldD (fld w 18 6) (fld w 12 6) (fld w 0 12))
  | 0x07 => verdict ([]) (.lda (fld w 18 6) (fld w 12 6) (fld w 10 2) (fld w 8 2) (fld w 7 1) (fld w 0 7))
  | 0x08 => verdict (zero w 0 3) (.ldx (fld w 18 6) (fld w 12 6) (fld w 6 6) (fld w 4 2) (fld w 3 1))
  | 0x09 => verdict ([]) (.stB (fld w 18 6) (fld w 12 6) (fld w 8 4) (fld w 0 8))
  | 0x0A => verdict ([]) (.stH (fld w 18 6) (fld w 12 6) (fld w 8 4) (fld w 0 8))
  | 0x0B => verdict ([]) (.stW (fld w 18 6) (fld w 12 6) (fld w 8 4) (fld w 0 8))
  | 0x0C => verdict ([]) (.stD (fld w 18 6) (fld w 12 6) (fld w 8 4) (fld w 0 8))
  | 0x0D => verdict ([]) (.stl (fld w 18 6) (fld w 12 6) (fld w 8 4) (fld w 6 2) (fld w 4 2) (fld w 0 4))
  | 0x10 => verdict (zero w 18 1) (.vld (fld w 19 5) (fld w 12 6) (fld w 0 12))
  | 0x11 => verdict (zero w 18 1) (.vst (fld w 19 5) (fld w 12 6) (fld w 8 4) (fld w 7 1) (fld w 4 3) (fld w 0 4))
  | 0x12 => verdict (zero w 18 1 ++ zero w 0 4) (.vgath (fld w 19 5) (fld w 12 6) (fld w 7 5) (fld w 5 2) (fld w 4 1))
  | 0x13 => verdict (zero w 18 1 ++ zero w 0 1) (.vscat (fld w 19 5) (fld w 12 6) (fld w 8 4) (fld w 3 5) (fld w 1 2))
  | 0x14 => verdict ([]) (.aadd (fld w 18 6) (fld w 12 6) (fld w 6 6) (fld w 2 4) (fld w 0 2))
  | 0x15 => verdict ([]) (.aand (fld w 18 6) (fld w 12 6) (fld w 6 6) (fld w 2 4) (fld w 0 2))
  | 0x16 => verdict ([]) (.aor (fld w 18 6) (fld w 12 6) (fld w 6 6) (fld w 2 4) (fld w 0 2))
  | 0x17 => verdict ([]) (.axor (fld w 18 6) (fld w 12 6) (fld w 6 6) (fld w 2 4) (fld w 0 2))
  | 0x18 => verdict ([]) (.amin (fld w 18 6) (fld w 12 6) (fld w 6 6) (fld w 2 4) (fld w 0 2))
  | 0x19 => verdict ([]) (.amax (fld w 18 6) (fld w 12 6) (fld w 6 6) (fld w 2 4) (fld w 0 2))
  | 0x1A => verdict ([]) (.aminn (fld w 18 6) (fld w 12 6) (fld w 6 6) (fld w 2 4) (fld w 0 2))
  | 0x1B => verdict ([]) (.amaxn (fld w 18 6) (fld w 12 6) (fld w 6 6) (fld w 2 4) (fld w 0 2))
  | 0x1C => verdict ([]) (.aswp (fld w 18 6) (fld w 12 6) (fld w 6 6) (fld w 2 4) (fld w 0 2))
  | 0x1D => verdict ([]) (.acas (fld w 18 6) (fld w 12 6) (fld w 6 6) (fld w 2 4) (fld w 0 2))
  | 0x1E =>
    match fn w 21 3 with
    | 0 => verdict (zero w 2 19) (.mark (fld w 0 2))
    | 1 => verdict (zero w 2 19) (.fence (fld w 0 2))
    | _ => .illegal 2
  | 0x1F =>
    match fn w 4 2 with
    | 0 => verdict (zero w 6 6 ++ zero w 0 4) (.lkup (fld w 18 6) (fld w 12 6))
    | 1 => verdict (zero w 18 6 ++ zero w 0 4) (.tins (fld w 12 6) (fld w 6 6))
    | 2 => verdict (zero w 18 6 ++ zero w 6 6 ++ zero w 0 4) (.tinv (fld w 12 6))
    | _ => verdict (zero w 6 6 ++ zero w 0 4) (.tstat (fld w 18 6) (fld w 12 6))
  | _ => .illegal 2

/-- E = 2: vector (R66). -/
def decodeE2 (w : Nat) : Decoded :=
  match fn w 23 6 with
  | 0x00 => verdict (vecRules 0x00 (fn w 18 5) (fn w 13 5) (fn w 8 5) (fn w 5 3) (fn w 0 5)) (.vadd (fld w 18 5) (fld w 13 5) (fld w 8 5) (fld w 5 3) (fld w 0 1))
  | 0x01 => verdict (vecRules 0x01 (fn w 18 5) (fn w 13 5) (fn w 8 5) (fn w 5 3) (fn w 0 5)) (.vsub (fld w 18 5) (fld w 13 5) (fld w 8 5) (fld w 5 3) (fld w 0 1))
  | 0x02 => verdict (vecRules 0x02 (fn w 18 5) (fn w 13 5) (fn w 8 5) (fn w 5 3) (fn w 0 5)) (.vmul (fld w 18 5) (fld w 13 5) (fld w 8 5) (fld w 5 3) (fld w 0 1))
  | 0x03 => verdict (vecRules 0x03 (fn w 18 5) (fn w 13 5) (fn w 8 5) (fn w 5 3) (fn w 0 5)) (.vfma (fld w 18 5) (fld w 13 5) (fld w 8 5) (fld w 5 3) (fld w 0 5))
  | 0x04 => verdict (vecRules 0x04 (fn w 18 5) (fn w 13 5) (fn w 8 5) (fn w 5 3) (fn w 0 5)) (.vmin (fld w 18 5) (fld w 13 5) (fld w 8 5) (fld w 5 3))
  | 0x05 => verdict (vecRules 0x05 (fn w 18 5) (fn w 13 5) (fn w 8 5) (fn w 5 3) (fn w 0 5)) (.vmax (fld w 18 5) (fld w 13 5) (fld w 8 5) (fld w 5 3))
  | 0x06 => verdict (vecRules 0x06 (fn w 18 5) (fn w 13 5) (fn w 8 5) (fn w 5 3) (fn w 0 5)) (.vabs (fld w 18 5) (fld w 13 5) (fld w 5 3) (fld w 0 1))
  | 0x07 => verdict (vecRules 0x07 (fn w 18 5) (fn w 13 5) (fn w 8 5) (fn w 5 3) (fn w 0 5)) (.vneg (fld w 18 5) (fld w 13 5) (fld w 5 3) (fld w 0 1))
  | 0x08 => verdict (vecRules 0x08 (fn w 18 5) (fn w 13 5) (fn w 8 5) (fn w 5 3) (fn w 0 5)) (.vand (fld w 18 5) (fld w 13 5) (fld w 8 5))
  | 0x09 => verdict (vecRules 0x09 (fn w 18 5) (fn w 13 5) (fn w 8 5) (fn w 5 3) (fn w 0 5)) (.vor (fld w 18 5) (fld w 13 5) (fld w 8 5))
  | 0x0A => verdict (vecRules 0x0A (fn w 18 5) (fn w 13 5) (fn w 8 5) (fn w 5 3) (fn w 0 5)) (.vxor (fld w 18 5) (fld w 13 5) (fld w 8 5))
  | 0x0B => verdict (vecRules 0x0B (fn w 18 5) (fn w 13 5) (fn w 8 5) (fn w 5 3) (fn w 0 5)) (.vshl (fld w 18 5) (fld w 13 5) (fld w 8 5) (fld w 5 3) (fld w 0 1))
  | 0x0C => verdict (vecRules 0x0C (fn w 18 5) (fn w 13 5) (fn w 8 5) (fn w 5 3) (fn w 0 5)) (.vshr (fld w 18 5) (fld w 13 5) (fld w 8 5) (fld w 5 3) (fld w 0 1))
  | 0x0D => verdict (vecRules 0x0D (fn w 18 5) (fn w 13 5) (fn w 8 5) (fn w 5 3) (fn w 0 5)) (.vsar (fld w 18 5) (fld w 13 5) (fld w 8 5) (fld w 5 3) (fld w 0 1))
  | 0x0E => verdict (vecRules 0x0E (fn w 18 5) (fn w 13 5) (fn w 8 5) (fn w 5 3) (fn w 0 5)) (.vcmp (fld w 18 3) (fld w 13 5) (fld w 8 5) (fld w 5 3) (fld w 3 1) (fld w 0 3))
  | 0x0F => verdict (vecRules 0x0F (fn w 18 5) (fn w 13 5) (fn w 8 5) (fn w 5 3) (fn w 0 5)) (.vsel (fld w 18 5) (fld w 13 5) (fld w 8 5) (fld w 0 3))
  | 0x10 => verdict (vecRules 0x10 (fn w 18 5) (fn w 13 5) (fn w 8 5) (fn w 5 3) (fn w 0 5)) (.vcvt (fld w 18 5) (fld w 13 5) (fld w 8 5) (fld w 5 3) (fld w 3 1) (fld w 0 3))
  | 0x11 => verdict (zero w 8 4 ++ zero w 3 1) (.vred (fld w 17 6) (fld w 12 5) (fld w 5 3) (fld w 4 1) (fld w 0 3))
  | 0x12 => verdict (vecRules 0x12 (fn w 18 5) (fn w 13 5) (fn w 8 5) (fn w 5 3) (fn w 0 5)) (.vscan (fld w 18 5) (fld w 13 5) (fld w 5 3) (fld w 3 1) (fld w 0 3))
  | 0x13 => verdict (vecRules 0x13 (fn w 18 5) (fn w 13 5) (fn w 8 5) (fn w 5 3) (fn w 0 5)) (.vperm (fld w 18 5) (fld w 13 5) (fld w 8 5))
  | 0x14 => verdict (zero w 8 4 ++ zero w 0 5) (.vbcast (fld w 18 5) (fld w 12 6) (fld w 5 3))
  | 0x15 => verdict (zero w 8 2) (.vextr (fld w 17 6) (fld w 12 5) (fld w 10 2) (fld w 5 3) (fld w 0 5))
  | 0x16 => verdict (zero w 8 2) (.vins (fld w 18 5) (fld w 12 6) (fld w 10 2) (fld w 5 3) (fld w 0 5))
  | 0x17 => verdict (vecRules 0x17 (fn w 18 5) (fn w 13 5) (fn w 8 5) (fn w 5 3) (fn w 0 5)) (.vrcp (fld w 18 5) (fld w 13 5) (fld w 5 3))
  | 0x18 => verdict (vecRules 0x18 (fn w 18 5) (fn w 13 5) (fn w 8 5) (fn w 5 3) (fn w 0 5)) (.vrsq (fld w 18 5) (fld w 13 5) (fld w 5 3))
  | 0x19 => verdict (vecRules 0x19 (fn w 18 5) (fn w 13 5) (fn w 8 5) (fn w 5 3) (fn w 0 5)) (.vexp2 (fld w 18 5) (fld w 13 5) (fld w 5 3))
  | 0x1A => verdict (vecRules 0x1A (fn w 18 5) (fn w 13 5) (fn w 8 5) (fn w 5 3) (fn w 0 5)) (.vlog2 (fld w 18 5) (fld w 13 5) (fld w 5 3))
  | 0x1B => verdict (vecRules 0x1B (fn w 18 5) (fn w 13 5) (fn w 8 5) (fn w 5 3) (fn w 0 5)) (.vsin (fld w 18 5) (fld w 13 5) (fld w 5 3))
  | 0x1C => verdict (vecRules 0x1C (fn w 18 5) (fn w 13 5) (fn w 8 5) (fn w 5 3) (fn w 0 5)) (.vcos (fld w 18 5) (fld w 13 5) (fld w 5 3))
  | 0x1D => verdict (vecRules 0x1D (fn w 18 5) (fn w 13 5) (fn w 8 5) (fn w 5 3) (fn w 0 5)) (.vact (fld w 18 5) (fld w 13 5))
  | 0x1E => verdict (zero w 6 2) (.vrng (fld w 18 5) (fld w 13 5) (fld w 8 5) (fld w 0 6))
  | 0x1F => verdict (vecRules 0x1F (fn w 18 5) (fn w 13 5) (fn w 8 5) (fn w 5 3) (fn w 0 5)) (.vqnt (fld w 18 5) (fld w 13 5) (fld w 0 5))
  | 0x20 => verdict (vecRules 0x20 (fn w 18 5) (fn w 13 5) (fn w 8 5) (fn w 5 3) (fn w 0 5)) (.vdqnt (fld w 18 5) (fld w 13 5) (fld w 0 5))
  | 0x21 => verdict (vecRules 0x21 (fn w 18 5) (fn w 13 5) (fn w 8 5) (fn w 5 3) (fn w 0 5)) (.vdot4 (fld w 18 5) (fld w 13 5) (fld w 8 5) (fld w 5 3) (fld w 0 5))
  | 0x22 =>
    match fn w 0 2 with
    | 0 => verdict (zero w 21 2 ++ zero w 17 1 ++ zero w 2 10) (.vmovmMv (fld w 18 3) (fld w 12 5))
    | 1 => verdict (zero w 15 3 ++ zero w 2 10) (.vmovmVm (fld w 18 5) (fld w 12 3))
    | 2 => verdict (zero w 21 2 ++ zero w 2 10) (.vmovmMg (fld w 18 3) (fld w 12 6))
    | _ => .illegal 2
  | 0x23 => verdict (zero w 9 2 ++ zero w 0 4) (.mlog (fld w 17 6) (fld w 14 3) (fld w 11 3) (fld w 8 1) (fld w 4 4))
  | 0x24 => verdict (vecRules 0x24 (fn w 18 5) (fn w 13 5) (fn w 8 5) (fn w 5 3) (fn w 0 5)) (.vidx (fld w 18 5) (fld w 5 3))
  | 0x25 => verdict (zero w 18 5 ++ zero w 6 7) (.vqput (fld w 13 5) (fld w 0 6))
  | 0x26 => verdict (zero w 6 12) (.vqget (fld w 18 5) (fld w 0 6))
  | 0x27 => verdict ([]) (.vli (fld w 18 5) (fld w 16 2) (fld w 0 16))
  | _ => .illegal 2

/-- E = 3: matrix, short words (R67, R202). -/
def decodeE3 (w : Nat) : Decoded :=
  match fn w 24 5 with
  | 0x00 => .illegal 2
  | 0x01 => verdict (zero w 0 16) (.wsel (fld w 20 4) (fld w 16 4))
  | 0x02 => .illegal 2
  | 0x03 => .illegal 2
  | 0x04 => .illegal 2
  | 0x05 =>
    match fn w 8 2 with
    | 0 => verdict (zero w 0 8) (.mepiBias (fld w 20 4) (fld w 16 4) (fld w 10 6))
    | 1 => verdict (zero w 0 8) (.mepiScale (fld w 20 4) (fld w 16 4) (fld w 10 6))
    | 2 => verdict (zero w 0 8) (.mepiZero (fld w 20 4) (fld w 16 4) (fld w 10 6))
    | _ => verdict (zero w 10 6 ++ zero w 0 8) (.mepiAclr (fld w 20 4) (fld w 16 4))
  | 0x06 => .illegal 2
  | 0x07 => .illegal 2
  | 0x08 => verdict (zero w 0 10) (.mfade (fld w 20 4) (fld w 16 4) (fld w 10 6))
  | 0x09 => verdict (zero w 0 10) (.mact (fld w 20 4) (fld w 16 4) (fld w 10 6))
  | 0x0A => verdict ([]) (.mzero (fld w 20 4) (fld w 16 4) (fld w 8 8) (fld w 0 8))
  | 0x0B => .illegal 2
  | 0x0C => verdict (zero w 0 10) (.mnb (fld w 20 4) (fld w 16 4) (fld w 10 6))
  | 0x0D => verdict (zero w 0 10) (.mstat (fld w 20 4) (fld w 16 4) (fld w 10 6))
  | 0x0E => verdict (zero w 0 8) (.mprog (fld w 20 4) (fld w 16 4) (fld w 8 8))
  | 0x0F => verdict (zero w 0 16) (.msig (fld w 20 4) (fld w 16 4))
  | 0x10 => verdict (zero w 0 16) (.mcan (fld w 20 4) (fld w 16 4))
  | _ => .illegal 2

/-- E = 4: copy, projection and fabric (R68). -/
def decodeE4 (w : Nat) : Decoded :=
  match fn w 24 5 with
  | 0x00 => verdict (zero w 0 3) (.cpy (fld w 21 3) (fld w 15 6) (fld w 9 6) (fld w 3 6))
  | 0x01 => verdict ([]) (.cpyn (fld w 21 3) (fld w 15 6) (fld w 9 6) (fld w 3 6) (fld w 0 3))
  | 0x02 => verdict (zero w 0 15) (.chain (fld w 21 3) (fld w 15 6))
  | 0x03 => verdict (zero w 16 4) (.drain (fld w 21 3) (fld w 20 1) (fld w 0 16))
  | 0x04 => verdict (zero w 16 2) (.twall (fld w 18 6) (fld w 0 16))
  | 0x05 => verdict (zero w 16 2) (.twany (fld w 18 6) (fld w 0 16))
  | 0x06 => verdict (zero w 0 12) (.tfind (fld w 18 6) (fld w 12 6))
  | 0x07 => verdict (zero w 0 18) (.tclr (fld w 18 6))
  | 0x08 =>
    match fn w 20 1 with
    | 0 => verdict (zero w 0 8) (.pfh (fld w 21 3) (fld w 14 6) (fld w 8 6))
    | _ => verdict (zero w 0 8) (.pfhAdapt (fld w 21 3) (fld w 14 6) (fld w 8 6))
  | 0x09 => verdict (zero w 0 3) (.send (fld w 21 3) (fld w 15 6) (fld w 9 6) (fld w 3 6))
  | 0x0A => verdict (zero w 0 15) (.drop (fld w 21 3) (fld w 15 6))
  | 0x0B => verdict (zero w 0 9) (.pqry (fld w 21 3) (fld w 15 6) (fld w 9 6))
  | 0x0C => verdict (zero w 0 3) (.pull (fld w 21 3) (fld w 15 6) (fld w 9 6) (fld w 3 6))
  | 0x0D => verdict (zero w 0 22) (.bopen (fld w 22 2))
  | 0x0E => verdict (zero w 0 22) (.bclose (fld w 22 2))
  | 0x0F => verdict ([]) (.bwait (fld w 18 6) (fld w 16 2) (fld w 0 16))
  | 0x10 => verdict (zero w 0 22) (.bsel (fld w 22 2))
  | 0x11 => verdict (zero w 0 12) (.sqst (fld w 18 6) (fld w 12 6))
  | 0x12 => verdict (zero w 0 6) (.slotw (fld w 18 6) (fld w 12 6) (fld w 6 6))
  | _ => .illegal 2

/-- E = 5: queue, team and task (R69). -/
def decodeE5 (w : Nat) : Decoded :=
  match fn w 24 5 with
  | 0x00 =>
    match fn w 19 1 with
    | 0 => verdict (zero w 0 13) (.qbindReg (fld w 20 4) (fld w 13 6))
    | _ => verdict ([]) (.qbindLabel (fld w 20 4) (fld w 0 19))
  | 0x01 => verdict (zero w 12 2) (.qres (fld w 18 6) (fld w 14 4) (fld w 0 12))
  | 0x02 => verdict (zero w 0 14) (.qcmt (fld w 18 6) (fld w 14 4))
  | 0x03 => verdict (zero w 12 2) (.qacq (fld w 18 6) (fld w 14 4) (fld w 0 12))
  | 0x04 => verdict (zero w 0 14) (.qrel (fld w 18 6) (fld w 14 4))
  | 0x05 => verdict (zero w 0 14) (.qstat (fld w 18 6) (fld w 14 4))
  | 0x06 => verdict (zero w 12 2) (.hand (fld w 18 6) (fld w 14 4) (fld w 0 12))
  | 0x07 => verdict (zero w 0 4) (.role (fld w 16 8) (fld w 4 12))
  | 0x08 => verdict (zero w 0 24) .tbar
  | 0x09 => verdict (zero w 0 24) .cbar
  | 0x0A => verdict (zero w 12 8) (.smwait (fld w 20 4) (fld w 0 12))
  | 0x0B => verdict (zero w 0 20) (.smsig (fld w 20 4))
  | 0x0C => verdict ([]) (.sigw (fld w 18 6) (fld w 12 6) (fld w 0 12))
  | 0x0D => verdict (zero w 0 10) (.sigadd (fld w 18 6) (fld w 12 6) (fld w 10 2))
  | 0x0E =>
    match fn w 10 2 with
    | 0 => verdict (zero w 0 10) (.awaitEq (fld w 18 6) (fld w 12 6))
    | 1 => verdict (zero w 0 10) (.awaitGen (fld w 18 6) (fld w 12 6))
    | 2 => verdict (zero w 18 6 ++ zero w 0 10) (.awaitTags (fld w 12 6))
    | _ => verdict (9 :: zero w 0 10) (.awaitEq (fld w 18 6) (fld w 12 6))
  | 0x0F => verdict (zero w 0 24) .yield
  | 0x10 => verdict (zero w 0 24) .tend
  | 0x11 => verdict (zero w 0 6) (.spawn (fld w 18 6) (fld w 12 6) (fld w 6 6))
  | 0x12 => verdict (zero w 18 2 ++ zero w 0 12) (.guard (fld w 20 4) (fld w 12 6))
  | 0x13 => verdict (zero w 0 9) (.stge (fld w 21 3) (fld w 15 6) (fld w 9 6))
  | 0x14 => verdict (zero w 12 9) (.stwt (fld w 21 3) (fld w 0 12))
  | 0x15 => verdict (zero w 0 18) (.teamid (fld w 18 6))
  | _ => .illegal 2

/-- A short word: E = 0 to 5, or a dictionary word (R36, R70). A prefix never executes alone (R50). -/
def decodeWord (w : Nat) : Decoded :=
  match fn w 29 3 with
  | 0 => decodeE0 w
  | 1 => decodeE1 w
  | 2 => decodeE2 w
  | 3 => decodeE3 w
  | 4 => decodeE4 w
  | 5 => decodeE5 w
  | 6 => .illegal 7
  | _ => .instr (.dictionaryWord (fld w 21 8) (fld w 0 21))

/-- The subcause of a prefix on an instruction that defines no long form (R50), under those the short word breaks itself. -/
def noLongForm : Decoded → Decoded
  | .instr _ => .illegal 8
  | .illegal s => .illegal (min s 8)

/-- A prefix with target 2 repeats a word of the vector layout (R168). -/
def decodeLong2 (p w : Nat) : Decoded :=
  if isLayoutOp (fn w 23 6) then
    verdict (zero p 0 11) (.repeatedVectorWord (fld p 23 3) (fld p 20 3) (fld p 17 3) (fld p 14 3) (fld p 11 3)
      (fld w 23 6) (fld w 18 5) (fld w 13 5) (fld w 8 5) (fld w 5 3) (fld w 0 5))
  else noLongForm (decodeE2 w)

/-- The long forms of E = 3 (R202). -/
def decodeLong3 (p w : Nat) : Decoded :=
  match fn w 24 5 with
  | 0x00 => verdict (zero w 0 4 ++ zero p 0 7) (.wld (fld w 20 4) (fld w 16 4) (fld w 10 6) (fld w 4 6) (fld p 19 7) (fld p 14 5) (fld p 13 1) (fld p 7 6))
  | 0x02 => verdict (zero p 0 4) (.mstr (fld w 20 4) (fld w 16 4) (fld w 8 8) (fld w 2 6) (fld w 0 2) (fld p 18 8) (fld p 13 5) (fld p 10 3) (fld p 4 6))
  | 0x03 => verdict (zero w 2 5 ++ zero p 0 18) (.mstq (fld w 20 4) (fld w 16 4) (fld w 8 8) (fld w 7 1) (fld w 0 2) (fld p 18 8))
  | 0x04 => verdict (zero p 0 4) (.mstx (fld w 20 4) (fld w 16 4) (fld w 8 8) (fld w 2 6) (fld w 0 2) (fld p 18 8) (fld p 13 5) (fld p 10 3) (fld p 4 6))
  | 0x06 => verdict (zero p 0 3) (.mout (fld w 20 4) (fld w 16 4) (fld w 8 8) (fld w 2 6) (fld w 0 2) (fld p 18 8) (fld p 17 1) (fld p 16 1) (fld p 15 1) (fld p 9 6) (fld p 6 3) (fld p 4 2) (fld p 3 1))
  | 0x07 => verdict (zero p 0 5) (.mgrp (fld w 20 4) (fld w 16 4) (fld w 8 8) (fld w 2 6) (fld w 0 2) (fld p 22 4) (fld p 17 5) (fld p 11 6) (fld p 5 6))
  | 0x0B => verdict (zero w 0 2 ++ zero p 0 18) (.maccld (fld w 20 4) (fld w 16 4) (fld w 8 8) (fld w 2 6) (fld p 18 8))
  | _ => noLongForm (decodeE3 w)

/-- The long forms of E = 4 (R239). -/
def decodeLong4 (p w : Nat) : Decoded :=
  match fn w 24 5 with
  | 0x00 => verdict (zero w 0 3) (.cpyLong (fld w 21 3) (fld w 15 6) (fld w 9 6) (fld w 3 6) (fld p 25 1) (fld p 19 6) (fld p 15 4) (fld p 14 1) (fld p 8 6) (fld p 2 6) (fld p 0 2))
  | 0x01 => verdict ([]) (.cpynLong (fld w 21 3) (fld w 15 6) (fld w 9 6) (fld w 3 6) (fld w 0 3) (fld p 25 1) (fld p 19 6) (fld p 15 4) (fld p 14 1) (fld p 8 6) (fld p 2 6) (fld p 1 1) (fld p 0 1))
  | 0x0C => verdict (zero w 0 3 ++ zero p 0 19) (.pullLong (fld w 21 3) (fld w 15 6) (fld w 9 6) (fld w 3 6) (fld p 25 1) (fld p 19 6))
  | _ => noLongForm (decodeE4 w)

/-- The long forms of E = 5 (R281). -/
def decodeLong5 (p w : Nat) : Decoded :=
  match fn w 24 5 with
  | 0x0C => verdict (zero p 2 24) (.sigwCond (fld w 18 6) (fld w 12 6) (fld w 0 12) (fld p 0 2))
  | _ => noLongForm (decodeE5 w)

/-- A long form: the prefix word `p` and the word after it (R50). -/
def decodeLong (p w : Nat) : Decoded :=
  let target := fn p 26 3
  if 6 ≤ target then .illegal 6
  else if fn w 29 3 ≠ target then .illegal 7
  else match target with
    | 0 => noLongForm (decodeE0 w)
    | 1 => noLongForm (decodeE1 w)
    | 2 => decodeLong2 p w
    | 3 => decodeLong3 p w
    | 4 => decodeLong4 p w
    | _ => decodeLong5 p w

/-- The instruction at the head of a list of words, and how many words it takes: 2 for a long form, else 1.
A prefix whose second word cannot be had is judged with a zero word after it. -/
def decode : List Nat → Decoded × Nat
  | [] => (.illegal 2, 1)
  | w :: r =>
    if fn w 29 3 = 6 then (decodeLong w (r.headD 0), 2) else (decodeWord w, 1)

/-- A 64-bit pattern in the layout of R53: a short word with zero above it, or a long form. -/
def decodePattern (x : Nat) : Decoded :=
  let w := x % 2 ^ 32
  let h := x / 2 ^ 32
  if fn w 29 3 = 6 then decodeLong w h else if h = 0 then decodeWord w else .illegal 3

/-- The words of a byte string, each little-endian (R35). Bytes that do not fill a word are dropped. -/
def wordsOf : List (BitVec 8) → List Nat
  | a :: b :: c :: d :: r => Machine.leNat [a, b, c, d] :: wordsOf r
  | _ => []

/-- Decoding of any bytes. -/
def decodeBytes (bs : List (BitVec 8)) : Decoded × Nat := decode (wordsOf bs)

/-- The supervisor cores' custom instruction (R329): funct7, funct3 and rd zero, opcode 0b0001011. -/
def decodeHart (w : Nat) : Option Instr :=
  if fn w 0 15 = 0x0B ∧ fn w 25 7 = 0 then some (.qsubmit (fld w 20 5) (fld w 15 5)) else none

/-- A field placed in a word. -/
def put {n : Nat} (x : BitVec n) (lo : Nat) : Nat := x.toNat * 2 ^ lo

/-- The words of an instruction; a step that is no instruction word has none. -/
def encode : Instr → List Nat
  | .nop => [0x00000000]
  | .add d n a b => [0x00800000 + put d 17 + put n 16 + put a 10 + put b 4]
  | .addi d n a i => [0x01000000 + put d 17 + put n 16 + put a 10 + put i 0]
  | .sub d n a b => [0x01800000 + put d 17 + put n 16 + put a 10 + put b 4]
  | .and d n a b => [0x02000000 + put d 17 + put n 16 + put a 10 + put b 4]
  | .andi d n a i => [0x02800000 + put d 17 + put n 16 + put a 10 + put i 0]
  | .or d n a b => [0x03000000 + put d 17 + put n 16 + put a 10 + put b 4]
  | .ori d n a i => [0x03800000 + put d 17 + put n 16 + put a 10 + put i 0]
  | .xor d n a b => [0x04000000 + put d 17 + put n 16 + put a 10 + put b 4]
  | .xori d n a i => [0x04800000 + put d 17 + put n 16 + put a 10 + put i 0]
  | .andn d n a b => [0x05000000 + put d 17 + put n 16 + put a 10 + put b 4]
  | .shl d n a b => [0x05800000 + put d 17 + put n 16 + put a 10 + put b 4]
  | .shli d n a i => [0x06000000 + put d 17 + put n 16 + put a 10 + put i 0]
  | .shr d n a b => [0x06800000 + put d 17 + put n 16 + put a 10 + put b 4]
  | .shri d n a i => [0x07000000 + put d 17 + put n 16 + put a 10 + put i 0]
  | .sar d n a b => [0x07800000 + put d 17 + put n 16 + put a 10 + put b 4]
  | .sari d n a i => [0x08000000 + put d 17 + put n 16 + put a 10 + put i 0]
  | .rol d n a b => [0x08800000 + put d 17 + put n 16 + put a 10 + put b 4]
  | .mul d n a b => [0x09000000 + put d 17 + put n 16 + put a 10 + put b 4]
  | .mulh d n a b => [0x09800000 + put d 17 + put n 16 + put a 10 + put b 4]
  | .mulhn d n a b => [0x0A000000 + put d 17 + put n 16 + put a 10 + put b 4]
  | .div d n a b => [0x0A800000 + put d 17 + put n 16 + put a 10 + put b 4]
  | .divn d n a b => [0x0B000000 + put d 17 + put n 16 + put a 10 + put b 4]
  | .rem d n a b => [0x0B800000 + put d 17 + put n 16 + put a 10 + put b 4]
  | .remn d n a b => [0x0C000000 + put d 17 + put n 16 + put a 10 + put b 4]
  | .min d n a b => [0x0C800000 + put d 17 + put n 16 + put a 10 + put b 4]
  | .max d n a b => [0x0D000000 + put d 17 + put n 16 + put a 10 + put b 4]
  | .minn d n a b => [0x0D800000 + put d 17 + put n 16 + put a 10 + put b 4]
  | .maxn d n a b => [0x0E000000 + put d 17 + put n 16 + put a 10 + put b 4]
  | .clz d n a => [0x0E800000 + put d 17 + put n 16 + put a 10]
  | .popc d n a => [0x0F000000 + put d 17 + put n 16 + put a 10]
  | .ext d n a f => [0x0F800000 + put d 17 + put n 16 + put a 10 + put f 0]
  | .li d i => [0x10000000 + put d 17 + put i 0]
  | .lih d i => [0x10800000 + put d 17 + put i 0]
  | .lea d n a b f => [0x11000000 + put d 17 + put n 16 + put a 10 + put b 4 + put f 0]
  | .hset d n a b f => [0x11800000 + put d 17 + put n 16 + put a 10 + put b 4 + put f 0]
  | .hget d n a f => [0x12000000 + put d 17 + put n 16 + put a 10 + put f 0]
  | .cmp c p a b => [0x12800000 + put c 20 + put p 17 + put a 10 + put b 4]
  | .cmpi c p a i => [0x13000000 + put c 20 + put p 17 + put a 10 + put i 0]
  | .plog d t a b => [0x13800000 + put d 20 + put t 16 + put a 13 + put b 10]
  | .sel d n a b g => [0x14000000 + put d 17 + put n 16 + put a 10 + put b 4 + put g 0]
  | .movpGet d => [0x14800000 + put d 17]
  | .movpSet a => [0x14810000 + put a 10]
  | .br p s o => [0x15000000 + put p 20 + put s 19 + put o 0]
  | .call p s o => [0x15800000 + put p 20 + put s 19 + put o 0]
  | .jr d a => [0x16000000 + put d 17 + put a 10]
  | .loop c e => [0x16C00000 + put c 10 + put e 0]
  | .loopReg a e => [0x16800000 + put a 10 + put e 0]
  | .loopn k e f c => [0x17000000 + put k 20 + put e 14 + put f 8 + put c 5]
  | .nsetReg k a b => [0x17800000 + put k 20 + put a 10 + put b 4]
  | .nsetImm k b s => [0x17880000 + put k 20 + put b 10 + put s 0]
  | .nget d s k => [0x18000000 + put d 17 + put s 16 + put k 13]
  | .csrr d c => [0x1C000000 + put d 17 + put c 0]
  | .csrw a c => [0x1C800000 + put a 12 + put c 0]
  | .trap c => [0x1D000000 + put c 0]
  | .tret => [0x1D800000]
  | .brk c => [0x1E000000 + put c 0]
  | .dload a => [0x1E800000 + put a 12]
  | .dfence => [0x1F000000]
  | .iflush a b => [0x1F800000 + put a 12 + put b 6]
  | .ldB d a o => [0x20000000 + put d 18 + put a 12 + put o 0]
  | .ldBn d a o => [0x21000000 + put d 18 + put a 12 + put o 0]
  | .ldH d a o => [0x22000000 + put d 18 + put a 12 + put o 0]
  | .ldHn d a o => [0x23000000 + put d 18 + put a 12 + put o 0]
  | .ldW d a o => [0x24000000 + put d 18 + put a 12 + put o 0]
  | .ldWn d a o => [0x25000000 + put d 18 + put a 12 + put o 0]
  | .ldD d a o => [0x26000000 + put d 18 + put a 12 + put o 0]
  | .lda d a z c g o => [0x27000000 + put d 18 + put a 12 + put z 10 + put c 8 + put g 7 + put o 0]
  | .ldx d a b z s => [0x28000000 + put d 18 + put a 12 + put b 6 + put z 4 + put s 3]
  | .stB s a g o => [0x29000000 + put s 18 + put a 12 + put g 8 + put o 0]
  | .stH s a g o => [0x2A000000 + put s 18 + put a 12 + put g 8 + put o 0]
  | .stW s a g o => [0x2B000000 + put s 18 + put a 12 + put g 8 + put o 0]
  | .stD s a g o => [0x2C000000 + put s 18 + put a 12 + put g 8 + put o 0]
  | .stl s a g z c o => [0x2D000000 + put s 18 + put a 12 + put g 8 + put z 6 + put c 4 + put o 0]
  | .vld v a o => [0x30000000 + put v 19 + put a 12 + put o 0]
  | .vst v a g k m o => [0x31000000 + put v 19 + put a 12 + put g 8 + put k 7 + put m 4 + put o 0]
  | .vgath d a i z s => [0x32000000 + put d 19 + put a 12 + put i 7 + put z 5 + put s 4]
  | .vscat s a g i z => [0x33000000 + put s 19 + put a 12 + put g 8 + put i 3 + put z 1]
  | .aadd d a b g c => [0x34000000 + put d 18 + put a 12 + put b 6 + put g 2 + put c 0]
  | .aand d a b g c => [0x35000000 + put d 18 + put a 12 + put b 6 + put g 2 + put c 0]
  | .aor d a b g c => [0x36000000 + put d 18 + put a 12 + put b 6 + put g 2 + put c 0]
  | .axor d a b g c => [0x37000000 + put d 18 + put a 12 + put b 6 + put g 2 + put c 0]
  | .amin d a b g c => [0x38000000 + put d 18 + put a 12 + put b 6 + put g 2 + put c 0]
  | .amax d a b g c => [0x39000000 + put d 18 + put a 12 + put b 6 + put g 2 + put c 0]
  | .aminn d a b g c => [0x3A000000 + put d 18 + put a 12 + put b 6 + put g 2 + put c 0]
  | .amaxn d a b g c => [0x3B000000 + put d 18 + put a 12 + put b 6 + put g 2 + put c 0]
  | .aswp d a b g c => [0x3C000000 + put d 18 + put a 12 + put b 6 + put g 2 + put c 0]
  | .acas d a b g c => [0x3D000000 + put d 18 + put a 12 + put b 6 + put g 2 + put c 0]
  | .mark c => [0x3E000000 + put c 0]
  | .fence c => [0x3E200000 + put c 0]
  | .lkup d a => [0x3F000000 + put d 18 + put a 12]
  | .tins a b => [0x3F000010 + put a 12 + put b 6]
  | .tinv a => [0x3F000020 + put a 12]
  | .tstat d a => [0x3F000030 + put d 18 + put a 12]
  | .vadd d a b t s => [0x40000000 + put d 18 + put a 13 + put b 8 + put t 5 + put s 0]
  | .vsub d a b t s => [0x40800000 + put d 18 + put a 13 + put b 8 + put t 5 + put s 0]
  | .vmul d a b t s => [0x41000000 + put d 18 + put a 13 + put b 8 + put t 5 + put s 0]
  | .vfma d a b t c => [0x41800000 + put d 18 + put a 13 + put b 8 + put t 5 + put c 0]
  | .vmin d a b t => [0x42000000 + put d 18 + put a 13 + put b 8 + put t 5]
  | .vmax d a b t => [0x42800000 + put d 18 + put a 13 + put b 8 + put t 5]
  | .vabs d a t s => [0x43000000 + put d 18 + put a 13 + put t 5 + put s 0]
  | .vneg d a t s => [0x43800000 + put d 18 + put a 13 + put t 5 + put s 0]
  | .vand d a b => [0x44000060 + put d 18 + put a 13 + put b 8]
  | .vor d a b => [0x44800060 + put d 18 + put a 13 + put b 8]
  | .vxor d a b => [0x45000060 + put d 18 + put a 13 + put b 8]
  | .vshl d a b t i => [0x45800000 + put d 18 + put a 13 + put b 8 + put t 5 + put i 0]
  | .vshr d a b t i => [0x46000000 + put d 18 + put a 13 + put b 8 + put t 5 + put i 0]
  | .vsar d a b t i => [0x46800000 + put d 18 + put a 13 + put b 8 + put t 5 + put i 0]
  | .vcmp m a b t y c => [0x47000000 + put m 18 + put a 13 + put b 8 + put t 5 + put y 3 + put c 0]
  | .vsel d a b m => [0x47800060 + put d 18 + put a 13 + put b 8 + put m 0]
  | .vcvt d a b t h y => [0x48000000 + put d 18 + put a 13 + put b 8 + put t 5 + put h 3 + put y 0]
  | .vred d a t g o => [0x48800000 + put d 17 + put a 12 + put t 5 + put g 4 + put o 0]
  | .vscan d a t x o => [0x49000000 + put d 18 + put a 13 + put t 5 + put x 3 + put o 0]
  | .vperm d a b => [0x49800060 + put d 18 + put a 13 + put b 8]
  | .vbcast d a t => [0x4A000000 + put d 18 + put a 12 + put t 5]
  | .vextr d a e t l => [0x4A800000 + put d 17 + put a 12 + put e 10 + put t 5 + put l 0]
  | .vins d a e t l => [0x4B000000 + put d 18 + put a 12 + put e 10 + put t 5 + put l 0]
  | .vrcp d a t => [0x4B800000 + put d 18 + put a 13 + put t 5]
  | .vrsq d a t => [0x4C000000 + put d 18 + put a 13 + put t 5]
  | .vexp2 d a t => [0x4C800000 + put d 18 + put a 13 + put t 5]
  | .vlog2 d a t => [0x4D000000 + put d 18 + put a 13 + put t 5]
  | .vsin d a t => [0x4D800000 + put d 18 + put a 13 + put t 5]
  | .vcos d a t => [0x4E000000 + put d 18 + put a 13 + put t 5]
  | .vact d a => [0x4E800000 + put d 18 + put a 13]
  | .vrng d a b k => [0x4F000000 + put d 18 + put a 13 + put b 8 + put k 0]
  | .vqnt d a f => [0x4F800000 + put d 18 + put a 13 + put f 0]
  | .vdqnt d a f => [0x50000000 + put d 18 + put a 13 + put f 0]
  | .vdot4 d a b t c => [0x50800000 + put d 18 + put a 13 + put b 8 + put t 5 + put c 0]
  | .vmovmMv d a => [0x51000000 + put d 18 + put a 12]
  | .vmovmVm d m => [0x51000001 + put d 18 + put m 12]
  | .vmovmMg m a => [0x51000002 + put m 18 + put a 12]
  | .mlog d a b g f => [0x51800000 + put d 17 + put a 14 + put b 11 + put g 8 + put f 4]
  | .vidx d t => [0x52000000 + put d 18 + put t 5]
  | .vqput a f => [0x52800000 + put a 13 + put f 0]
  | .vqget d f => [0x53000000 + put d 18 + put f 0]
  | .vli d k i => [0x53800000 + put d 18 + put k 16 + put i 0]
  | .wsel w s => [0x61000000 + put w 20 + put s 16]
  | .mepiBias w s a => [0x65000000 + put w 20 + put s 16 + put a 10]
  | .mepiScale w s a => [0x65000100 + put w 20 + put s 16 + put a 10]
  | .mepiZero w s a => [0x65000200 + put w 20 + put s 16 + put a 10]
  | .mepiAclr w s => [0x65000300 + put w 20 + put s 16]
  | .mfade w s a => [0x68000000 + put w 20 + put s 16 + put a 10]
  | .mact w s a => [0x69000000 + put w 20 + put s 16 + put a 10]
  | .mzero w s b c => [0x6A000000 + put w 20 + put s 16 + put b 8 + put c 0]
  | .mnb w s a => [0x6C000000 + put w 20 + put s 16 + put a 10]
  | .mstat w s d => [0x6D000000 + put w 20 + put s 16 + put d 10]
  | .mprog w s n => [0x6E000000 + put w 20 + put s 16 + put n 8]
  | .msig w s => [0x6F000000 + put w 20 + put s 16]
  | .mcan w s => [0x70000000 + put w 20 + put s 16]
  | .cpy c d s b => [0x80000000 + put c 21 + put d 15 + put s 9 + put b 3]
  | .cpyn c d s r k => [0x81000000 + put c 21 + put d 15 + put s 9 + put r 3 + put k 0]
  | .chain c a => [0x82000000 + put c 21 + put a 15]
  | .drain c l i => [0x83000000 + put c 21 + put l 20 + put i 0]
  | .twall a i => [0x84000000 + put a 18 + put i 0]
  | .twany a i => [0x85000000 + put a 18 + put i 0]
  | .tfind d a => [0x86000000 + put d 18 + put a 12]
  | .tclr a => [0x87000000 + put a 18]
  | .pfh c a b => [0x88000000 + put c 21 + put a 14 + put b 8]
  | .pfhAdapt c a b => [0x88100000 + put c 21 + put a 14 + put b 8]
  | .send c d a b => [0x89000000 + put c 21 + put d 15 + put a 9 + put b 3]
  | .drop c a => [0x8A000000 + put c 21 + put a 15]
  | .pqry c d a => [0x8B000000 + put c 21 + put d 15 + put a 9]
  | .pull h a b n => [0x8C000000 + put h 21 + put a 15 + put b 9 + put n 3]
  | .bopen t => [0x8D000000 + put t 22]
  | .bclose t => [0x8E000000 + put t 22]
  | .bwait d t i => [0x8F000000 + put d 18 + put t 16 + put i 0]
  | .bsel t => [0x90000000 + put t 22]
  | .sqst d a => [0x91000000 + put d 18 + put a 12]
  | .slotw d a b => [0x92000000 + put d 18 + put a 12 + put b 6]
  | .qbindReg q a => [0xA0000000 + put q 20 + put a 13]
  | .qbindLabel q o => [0xA0080000 + put q 20 + put o 0]
  | .qres d q i => [0xA1000000 + put d 18 + put q 14 + put i 0]
  | .qcmt a q => [0xA2000000 + put a 18 + put q 14]
  | .qacq d q i => [0xA3000000 + put d 18 + put q 14 + put i 0]
  | .qrel a q => [0xA4000000 + put a 18 + put q 14]
  | .qstat d q => [0xA5000000 + put d 18 + put q 14]
  | .hand g q i => [0xA6000000 + put g 18 + put q 14 + put i 0]
  | .role m s => [0xA7000000 + put m 16 + put s 4]
  | .tbar => [0xA8000000]
  | .cbar => [0xA9000000]
  | .smwait k i => [0xAA000000 + put k 20 + put i 0]
  | .smsig k => [0xAB000000 + put k 20]
  | .sigw a b i => [0xAC000000 + put a 18 + put b 12 + put i 0]
  | .sigadd a b c => [0xAD000000 + put a 18 + put b 12 + put c 10]
  | .awaitEq a b => [0xAE000000 + put a 18 + put b 12]
  | .awaitGen a b => [0xAE000400 + put a 18 + put b 12]
  | .awaitTags b => [0xAE000800 + put b 12]
  | .yield => [0xAF000000]
  | .tend => [0xB0000000]
  | .spawn d a b => [0xB1000000 + put d 18 + put a 12 + put b 6]
  | .guard k a => [0xB2000000 + put k 20 + put a 12]
  | .stge k a b => [0xB3000000 + put k 21 + put a 15 + put b 9]
  | .stwt k i => [0xB4000000 + put k 21 + put i 0]
  | .teamid d => [0xB5000000 + put d 18]
  | .wld w s a b k f t p => [0xCC000000 + put k 19 + put f 14 + put t 13 + put p 7, 0x60000000 + put w 20 + put s 16 + put a 10 + put b 4]
  | .mstr w s base a c m f n p => [0xCC000000 + put m 18 + put f 13 + put n 10 + put p 4, 0x62000000 + put w 20 + put s 16 + put base 8 + put a 2 + put c 0]
  | .mstq w s base q c m => [0xCC000000 + put m 18, 0x63000000 + put w 20 + put s 16 + put base 8 + put q 7 + put c 0]
  | .mstx w s base a c m f n p => [0xCC000000 + put m 18 + put f 13 + put n 10 + put p 4, 0x64000000 + put w 20 + put s 16 + put base 8 + put a 2 + put c 0]
  | .mout w s base a k m eb ea eq f n c i => [0xCC000000 + put m 18 + put eb 17 + put ea 16 + put eq 15 + put f 9 + put n 6 + put c 4 + put i 3, 0x66000000 + put w 20 + put s 16 + put base 8 + put a 2 + put k 0]
  | .mgrp w s base a c nb f x t => [0xCC000000 + put nb 22 + put f 17 + put x 11 + put t 5, 0x67000000 + put w 20 + put s 16 + put base 8 + put a 2 + put c 0]
  | .maccld w s base a m => [0xCC000000 + put m 18, 0x6B000000 + put w 20 + put s 16 + put base 8 + put a 2]
  | .cpyLong c d s b tv tag sl cv sf df qe => [0xD0000000 + put tv 25 + put tag 19 + put sl 15 + put cv 14 + put sf 8 + put df 2 + put qe 0, 0x80000000 + put c 21 + put d 15 + put s 9 + put b 3]
  | .cpynLong c d s r k tv tag sl cv sf df sd mc => [0xD0000000 + put tv 25 + put tag 19 + put sl 15 + put cv 14 + put sf 8 + put df 2 + put sd 1 + put mc 0, 0x81000000 + put c 21 + put d 15 + put s 9 + put r 3 + put k 0]
  | .pullLong h a b n tv tag => [0xD0000000 + put tv 25 + put tag 19, 0x8C000000 + put h 21 + put a 15 + put b 9 + put n 3]
  | .sigwCond a b i c => [0xD4000000 + put c 0, 0xAC000000 + put a 18 + put b 12 + put i 0]
  | .dictionaryWord i p => [0xE0000000 + put i 21 + put p 0]
  | .repeatedVectorWord k sd sa sb sc op d a b t c => [0xC8000000 + put k 23 + put sd 20 + put sa 17 + put sb 14 + put sc 11, 0x40000000 + put op 23 + put d 18 + put a 13 + put b 8 + put t 5 + put c 0]
  | .qsubmit b a => [0x0000000B + put b 20 + put a 15]
  | _ => []

/-- Is the step an instruction word of a quadrant or a walk engine? -/
def isWord (i : Instr) : Bool :=
  match i with
  | .qsubmit _ _ => false
  | _ => !(encode i).isEmpty

/-- The bytes of the words, as they stand in memory. -/
def bytesOf : List Nat → List (BitVec 8)
  | [] => []
  | w :: r => Machine.leBytes 4 w ++ bytesOf r

/-- What the decoders make of an instruction whose bits are `w`, bit 0 the lowest bit of the first word: a quadrant's
instruction, or, where a quadrant refuses it, a supervisor hart's. -/
def decodeTableWord (nbits w : Nat) : Option Instr :=
  let x := w % 2 ^ nbits
  match (decodeBytes (Machine.leBytes 8 x)).1 with
  | .instr i => some i
  | .illegal _ => decodeHart x

end Sys2Proof
end

