-- ==== Sys2Proof/Config.lean ====
section
/-! DEFINITION. What an implementation fixes and what the manual leaves open. Every opaque constant is a FREE VALUE: it has no
body, so nothing can be proved of it, and a claim about it holds whatever it is. `n` is always the State's draw counter, so
that two uses are unrelated. -/

namespace Sys2Proof.Config

/-- Log entry 1. The latches after a voluntary switch, until written (R47). -/
opaque lostLatch (n : Nat) : Word
/-- Log entry 2. Whether a fetch of a word changed since it was cached returns the old word (R37). -/
opaque fetchOld (n : Nat) : Bool
/-- Log entry 3. Whether a dictionary word expands with the old table between a DLOAD and the next DFENCE (R56, R400). -/
opaque dictOld (n : Nat) : Bool
/-- Log entry 4. The special functions of the vector unit, within the bounds of R184. -/
opaque special (fn x : Nat) : Nat
/-- Log entry 5. Which of its 8 entries a full set of a TLB slice gives up (R121 names no replacement rule). -/
opaque tlbVictim (n : Nat) : Nat
/-- Log entry 5. Which of a slice's 1,024 sets a page goes to (R121 gives the slice, not the set). -/
opaque tlbSet (asid page shift : Nat) : Nat
/-- Log entry 6. A fresh challenge of the hub's random source (R411). -/
opaque challenge (n k : Nat) : Word
/-- Log entry 7. Whether an ML-DSA-87 signature verifies over a message by a public key (R411, R412). -/
opaque signatureVerifies (key message signature : List (BitVec 8)) : Bool
/-- Log entry 7. The key for the debug window that a configuration block names (R411, R412). -/
opaque debugKey (configuration : List (BitVec 8)) : List (BitVec 8)
/-- Log entry 8. The 32-bit pattern that lies in a register or cell the manual calls undefined (R5). -/
opaque undefinedWord (n : Nat) : Word
/-- Log entry 9. The features that a configuration block offers (R414). -/
opaque featuresOffered (configuration : List (BitVec 8)) : BitVec 8
/-- Log entry 10. What the boot ROM finds (R412): whether there is an image, its public key and signature; the hash of a key that the ROM holds; whether the PUF fails. -/
opaque imageFound (n : Nat) : Bool
opaque imageKey (n : Nat) : List (BitVec 8)
opaque imageSignature (n : Nat) : List (BitVec 8)
opaque romKeyHash : List (BitVec 8)
opaque pufFails (n : Nat) : Bool
/-- Log entry 100. The supervisor firmware and the configuration block of the image that the boot ROM finds (R412). -/
opaque firmware (n : Nat) : List (BitVec 8)
opaque configuration (n : Nat) : List (BitVec 8)
/-- Log entry 100. The seed that the SRAM PUF yields (R413): the device's own, the same at every boot. -/
opaque pufSeed : BitVec 256
/-- Log entry 100. The ML-DSA-87 key pair derived from a seed, secret key first (R413). -/
opaque identityKeys (seed : BitVec 256) : List (BitVec 8) × List (BitVec 8)
/-- Log entry 100. An ML-DSA-87 signature of a message by a secret key (R413). -/
opaque identitySign (secretKey message : List (BitVec 8)) : List (BitVec 8)
/-- Log entry 107. What a saved frame holds at a byte whose place R353 does not give. -/
opaque frameByte (n i : Nat) : BitVec 8
/-- Log entry 11. The forecast of busy cores 4 us ahead (R415 gives no rule). -/
opaque forecast (n : Nat) : Nat

/-- Log entry 126. When, within R429's 200 µs after a replay, the firmware publishes its refinement. -/
opaque refineDelay (n : Nat) : Nat

end Sys2Proof.Config
end

