-- ==== Sys2Proof/Machine/State.lean ====
section
/-! DEFINITION. The state of one package: every piece of state the manual names, as plain data, and the state after reset. -/

namespace Sys2Proof.Machine

/-- Why the machine stops. -/
inductive Fault where
  /-- Raised by an access whose frame address lies beyond the 96 GB of a facet's two stacks (R13): the manual gives no cell
  there. Safe: the machine stops where the hardware's answer is not given. -/
  | frameBeyondStacks
  deriving DecidableEq, Repr

/-- Why the model has no meaning for a step. -/
inductive Refusal where
  /-- Raised by a dispatch arm whose instruction has no meaning yet. Safe: the model stops. -/
  | notModelled (mnemonic : String)
  deriving DecidableEq, Repr

/-- Where a result goes: nowhere, a g register, a v register, a mask; or a predicate, which guards read (R49). -/
inductive Dst where
  | none | g (k : Nat) | v (k : Nat) | m (k : Nat) | p (k : Nat)
  deriving DecidableEq, Repr

/-- A result in flight (R43, R76). `eng`: 0 multiply unit, 1 memory engine, 2 vector unit; 4 and 5 the same as 0 and 2 after
they have come back from the snapshot buffer (R77); 3 marks a register that a queued word of another engine has yet to read (R42). `latch`: 0 to 3, or 4 for none.
`mask`: the bits of a v register that it writes. `land`: the cycle in which it lands, or the offset in the snapshot buffer. -/
structure Pend where
  eng : Nat
  dst : Dst
  latch : Nat
  val : Nat
  mask : Nat
  land : Nat
  deriving DecidableEq, Repr

/-- A nest register: bound n24 and stride i32 in bytes (R73). -/
structure Nest where
  bound : BitVec 24 := 0
  stride : BitVec 32 := 0
  deriving DecidableEq, Repr

/-- One level of the loop stack (R97); the buffered words of its body (R99). -/
structure Loop where
  start : Word
  last : Word
  nest : Bool
  k : Nat
  first : Nat
  cnt : Nat
  count : Nat
  bounds : List Nat
  strides : List (BitVec 32)
  idx : List Nat
  buf : Tab Nat
  deriving DecidableEq, Repr

/-- The operations of the memory queues (R38). Sizes are log2 bytes; `off`: a store or an atomic that its guard turns off, which takes its
place in its queue and does nothing (R49). -/
inductive MemOp where
  | load (size : Nat) (sg : Bool) (dst : Dst) (acquire : Bool)
  | store (size : Nat) (val : Word)
  | atomic (op : Nat) (b cmp : Word) (dst : Nat) (scope : Nat)
  | vld (dst : Nat)
  | vst (val : VReg) (mask : BitVec 32)
  | vgath (dst : Nat) (idx : VReg) (size : Nat) (sg : Bool)
  | vscat (val idx : VReg) (size : Nat)
  | lkup (dst : Nat) | tins (slot : Word) | tinv | tstat (dst : Nat)
  | sync (gang fence : Bool)
  | batch (op t : Nat)
  | off (store : Bool)
  deriving DecidableEq, Repr

/-- An entry of a memory queue, and of the queue image (R105, R124): the operation with the values it has read, its address,
the release scope of an STL (4 for none), the address and the pattern of its word, and the first cycle in which it may be performed. `word` and
`seq` are the word and its number in the quadrant's fetch order; while an older word has yet to write what it reads, or to read or write what it writes, it
waits in its queue with the registers and latches that it will read and the registers that it will write (R42). `paged`: it has met a page that is to come (R125, R351). -/
structure MemEntry where
  op : MemOp
  addr : Word
  rel : Nat
  wordAt : Word
  pat : Nat
  since : Nat
  word : Instr := .nop
  seq : Nat := 0
  waits : Bool := false
  reads : List Dst := []
  latches : List Nat := []
  paged : Bool := false
  deriving DecidableEq, Repr

/-- An entry of the vector queue, and of its image (R38, R170, R193): the word, its address, the bounds product and the rounding mode it
captured (R94, R150), the registers and latches that it reads and writes, and its number in the quadrant's fetch order (R42). -/
structure VecEntry where
  word : Instr
  wordAt : Word
  total : Nat
  mode : Nat
  reads : List Dst
  latches : List Nat
  writes : List Dst
  wlatch : Nat
  seq : Nat := 0
  deriving DecidableEq, Repr

/-- A bounded wait in progress: the cycle of its issue and the token counter then, its limit in cycles (0 for none), and what WAITX
would report (R288); `ended`: the home of another package has been told that the limit has run out. -/
structure Wait where
  since : Nat
  upto : Nat
  limit : Nat
  e0 : Word
  e1 : Word
  e2 : Word
  e3 : Word
  ended : Bool := false
  deriving DecidableEq, Repr

/-- A trap that an engine has raised for a quadrant, to be taken at its next word boundary (R226, R253, R306), or one that waits for
the queued vector words (R76); `epc` the saved program counter, none for the next word to steer. -/
structure TrapReq where
  cause : Nat
  epc : Option Word := none
  e0 : Word
  e1 : Word
  e2 : Word
  e3 : Word
  deriving DecidableEq, Repr

/-- A handle binding (R279), with what the bound block says of its scope and of the roles at HAND (R273): a program must not write the
block while it is bound. -/
structure Handle where
  block : Option Word := none
  last : Option Word := none
  err : Bool := false
  gang : Bool := false
  hp : Nat := 0
  hc : Nat := 0
  deriving DecidableEq, Repr

/-- The state of a remote-store batch (R381). -/
inductive BatchSt where
  | open | closing | closed
  deriving DecidableEq, Repr

/-- A remote-store batch: its peers, those still to reply, and its result (R381, R385). -/
structure Batch where
  st : BatchSt := .closed
  peers : List Nat := []
  waiting : List Nat := []
  badPeers : Nat := 0
  err : Nat := 0
  issued : Nat := 0
  done : Nat := 0
  deriving DecidableEq, Repr

/-- The condition of a quadrant at a switch point (R316), or of a wait that may yield (R289). -/
inductive Cond where
  | eq (a b : Word) | ge (a b : Word) | tags (b : Word) | free
  deriving DecidableEq, Repr

/-- What another package answers to a read or an atomic: a refusal reason, 0 for none (R367), and bytes. -/
structure Reply where
  status : Nat
  bytes : List (BitVec 8)
  deriving DecidableEq, Repr

/-- A register that an engine still owes a value (R42, R200): a load's, MSTAT's, SEND's or PQRY's destination. -/
structure Owed where
  token : Nat
  dst : Dst
  latch : Nat
  size : Nat
  sg : Bool
  deriving DecidableEq, Repr

/-- A member's place in its team (R290, R291). -/
structure Member where
  walk : Bool := false
  role : Nat := 0
  mnum : Nat := 0
  midx : Nat := 0
  rsz : Nat := 3
  tsz : Nat := 3
  deriving DecidableEq, Repr

/-- A quadrant, or the one sequencer of a tile-walk engine (R73, R161, R296, R391). `memQ` the entries of its two memory queues in
program order that are not yet performed (R105: the first of each kind is that queue's head), `memAt` and `storeAt` the next cycles in which the head of the load queue and
that of the store queue are tried, `memStall` and `storeStall` since when a pull or a stall holds them, `memTok` the answer that the load queue awaits from another package;
`flying` the loads whose value has not returned, with the cycle in which it does (R456); `seq` the number of the next queued word, `seqMark` that of the first one after the last trap (R42);
`ask` an answer that a read at the splitter awaits; `barrier` and `cbarrier` the
TBARs and CBARs it has passed, `arrived` the one it stands at and since when (R298); `kept` the batch error that a save has kept (R423);
`waited` the cycles it has stood at tag waits (R428); `cvsatAt` and `cvnanzAt` one more than the cycles in which these flags were last set (R156); `adv` the advances of LOOPN registers that wait for words of other
engines (first, count, delta), `advImg` those that a trap has put aside (R42, R97). -/
structure Quad where
  idle : Bool := true
  ended : Bool := false
  pc : Word := 0
  cyc : Nat := 0
  vcyc : Nat := 0
  vecQ : List VecEntry := []
  vecAt : Nat := 0
  g : Tab Word := Tab.empty
  b : Tab Word := Tab.empty
  p : BitVec 8 := 1
  v : Tab VReg := Tab.empty
  m : Tab (BitVec 32) := Tab.empty
  n : Tab Nest := Tab.empty
  loops : List Loop := []
  pend : List Pend := []
  snap : List Pend := []
  snapBack : Bool := false
  owed : List Owed := []
  disp : Bool := false
  cskip : Bool := false
  xskip : Bool := false
  mskip : Bool := false
  inh : Bool := false
  cause : Word := 0
  epc : Word := 0
  trapvec : Word := 0
  einfo : Tab Word := Tab.empty
  rmode : Nat := 0
  cvsat : Bool := false
  cvnanz : Bool := false
  cvsatAt : Nat := 0
  cvnanzAt : Nat := 0
  batchTag : Nat := 0
  prog0 : Nat := 0
  prog2 : Nat := 0
  prog3 : Word := 0
  watch : Tab Word := Tab.empty
  instidx : Word := 0
  nodeid : Word := 0
  taskid : Word := 0
  dictbase : Word := 0
  lsave : Tab Word := Tab.empty
  memQ : List MemEntry := []
  memAt : Nat := 0
  storeAt : Nat := 0
  memStall : Option Nat := none
  storeStall : Option Nat := none
  flying : List (MemEntry × Nat) := []
  seq : Nat := 0
  seqMark : Nat := 0
  memTok : Option Nat := none
  memReply : Option Reply := none
  ask : Option Nat := none
  answer : Option Reply := none
  got : List (BitVec 8) := []
  memImg : List MemEntry := []
  vecImg : List VecEntry := []
  adv : List (Nat × Nat × Int) := []
  advImg : List (Nat × Nat × Int) := []
  inject : Option (Nat × Option Nat) := none
  wait : Option Wait := none
  trapReqs : List TrapReq := []
  trapWait : Option TrapReq := none
  chImg : Tab Nat := Tab.empty
  handles : Tab Handle := Tab.empty
  batches : Tab Batch := Tab.empty
  implicit : List Nat := []
  kept : Option (Nat × Nat × Nat) := none
  waited : Nat := 0
  dictStale : Bool := false
  member : Member := {}
  words : Nat := 0
  doneAt : Nat := 0
  barrier : Nat := 0
  cbarrier : Nat := 0
  arrived : Option (Bool × Nat) := none
  cond : Option Cond := none
  condMet : Bool := false
  icache : Tab Nat := Tab.empty
  inst : Nat := 0
  wlen : Nat := 4
  deriving DecidableEq, Repr

/-- A captured nest dimension: bound and stride (R94). -/
structure Dim where
  bound : Nat
  stride : Int
  deriving DecidableEq, Repr

/-- What an engine has asked another package for and not yet got (R367): the token, the answer, the bytes so far, the bytes sent. -/
structure Port where
  ask : Option Nat := none
  answer : Option Reply := none
  got : List (BitVec 8) := []
  sent : Nat := 0
  deriving DecidableEq, Repr

/-- A cached adapter (R215): the key, the entry, and the factor elements, K-factor then N-factor. -/
structure Adapter where
  table : Word
  idx : Nat
  fmt : Nat
  rank : Nat
  ptr : Word
  elems : List Nat := []
  deriving DecidableEq, Repr

/-- The activation table (R186): LO, RSTEP, and the slope (low word) and intercept (high word) of each segment. -/
structure ActTab where
  lo : BitVec 32 := 0
  rstep : BitVec 32 := 0
  seg : Tab Word := Tab.empty
  deriving DecidableEq, Repr

/-- The epilogue registers (R194). -/
structure Epilogue where
  bias : Row := 0
  qscale : Tab (BitVec 32) := Tab.empty
  qzero : BitVec 32 := 0
  act : ActTab := {}
  deriving DecidableEq, Repr

/-- A matrix command in the queue: the word, its captured operands, nest and rounding mode, the quadrant that pushed it and
the address of its word (R200, R226). Of a command that has started and was stopped: `took`, its wait count has been taken (R227); `row`, rows done; the FADE or the
epilogue registers that it read when it started (R198); `held`, output elements read and not yet in a queue; `out`, the bytes of output row `row`, read and not yet written. -/
structure MCmd where
  word : Instr
  ops : List Word := []
  dims : List Dim := []
  mode : Nat := 0
  quad : Nat := 0
  wordAt : Word := 0
  took : Bool := false
  token : Nat := 0
  row : Nat := 0
  fade : Option (BitVec 32) := none
  epi : Option Epilogue := none
  held : List Nat := []
  out : List (BitVec 8) := []
  watch : Option Nat := none
  fault : Bool := false
  reload : Bool := false
  deriving DecidableEq, Repr

/-- A row in the array, on its way to the accumulators (R195): its elements with their format as they were popped (R160), scale bytes, correction, and the cycle it lands. -/
structure Air where
  row : Nat
  fmt : Nat
  x : List Nat
  scales : List Nat
  fix : Option Adapter
  landAt : Nat
  deriving DecidableEq, Repr

/-- A matrix command that has started (R196): the active weight buffer at its start, the next row to enter or read, rows landed, rows in
the array, when it goes on, when it completes; since when a stall or pull holds it; bytes and elements at hand; the adapters of MGRP's blocks, with the cycles that reading them took
(R215); the bytes that the stack owes an MNB (R224); whether a page holds it. -/
structure MRun where
  cmd : MCmd
  buf : Nat := 0
  row : Nat := 0
  landed : Nat := 0
  air : List Air := []
  nextAt : Nat := 0
  feedAt : Nat := 0
  doneAt : Option Nat := none
  since : Option Nat := none
  port : Port := {}
  data : List (BitVec 8) := []
  elems : List Nat := []
  fixes : List (Option Adapter × Nat) := []
  credit : Nat := 0
  phase : Nat := 0
  watch : Nat := 0
  paged : Bool := false
  deriving DecidableEq, Repr

/-- A copy endpoint or projection job in a channel queue (R231). -/
inductive JobKind where
  | copy | nest | chain | pfh (adapt : Bool) | send | drop | pqry | pull
  deriving DecidableEq, Repr

/-- What a suspended task waits for (R354). -/
inductive WaitFor where
  | none | page (fac : Nat) (asid : Nat) (off : Nat) | tile (fac slot : Nat) | conds | room
  deriving DecidableEq, Repr

/-- A packet of a copy job to another package (R368): its token, the source byte of its burst, where its bytes go. -/
structure Sent where
  token : Nat
  pos : Nat
  at_ : Word
  bytes : List (BitVec 8)
  deriving DecidableEq, Repr

/-- An entry of a channel queue or a record of a chain, with everything captured at steer (R42, R94, R150). Progress: source bytes
`done`, the read bytes `buf` of the burst under way, elements and bits not yet written, the step of a projection job `phase`, since when
a stall or pull holds it, what page or tile it waits for (R255), when it goes on, and whether its effect is whole (`fin`); its number in
the task, its own slack, and the issue of the first wait on it (R428); the cores that the burst of a multicast has not reached (R244); source bytes `taken` of a burst popped
from a queue; packets `posted` and not yet acknowledged (R434), those that came back refused and are sent again, the address and the answer of the first of them, and the DONE `shown`
in PROG3 (R252). -/
structure Job where
  kind : JobKind
  task : Nat := 0
  d : Word := 0
  s : Word := 0
  n : Nat := 0
  dims : List Dim := []
  tag : Option Nat := none
  slack : Nat := 0
  cv : Bool := false
  sfmt : Nat := 0
  dfmt : Nat := 0
  qe : Nat := 0
  side : Bool := false
  mask : Option Word := none
  fpb : Bool := false
  fpx : Bool := false
  record : Option Word := none
  recByte : Nat := 0
  mode : Nat := 0
  quad : Nat := 0
  wordAt : Word := 0
  pattern : Nat := 0
  token : Nat := 0
  reg : Nat := 0
  entered : Option Nat := none
  enteredAt : Nat := 0
  done : Nat := 0
  port : Port := {}
  buf : List (BitVec 8) := []
  elems : List Nat := []
  taken : Nat := 0
  posted : List Sent := []
  redo : List Sent := []
  bad : Option (Word × Reply) := none
  shown : Nat := 0
  carry : Nat := 0
  carryN : Nat := 0
  phase : Nat := 0
  status : Nat := 0
  since : Option Nat := none
  held : WaitFor := .none
  nextAt : Nat := 0
  err : Bool := false
  fin : Bool := false
  num : Nat := 0
  own : Nat := 0
  waitAt : Option Nat := none
  left : List Nat := []
  deriving DecidableEq, Repr

/-- A copy channel: its queue, head first; the record address a running chain reads next and its read under way, and its records;
CHPARK; the number of the job that a trap holds (R230, R246, R253). -/
structure Chan where
  q : List Job := []
  next : Option Word := none
  port : Port := {}
  fetchAt : Nat := 0
  records : List Job := []
  park : Word := 0
  halted : Option Nat := none
  badRecord : Bool := false
  deriving DecidableEq, Repr

/-- A weight buffer (R194): latched format and k, rows of 64 elements in 4-byte containers, scale bytes at n*8+j. -/
structure WBuf where
  fmt : Nat := 8
  k : Nat := 128
  rows : Tab Row := Tab.empty
  scales : Tab Nat := Tab.empty
  deriving DecidableEq, Repr

/-- A stage barrier (R302). -/
structure Stage where
  armed : Bool := false
  base : Nat := 0
  len : Nat := 0
  announced : Nat := 0
  credited : Nat := 0
  quad : Nat := 0
  deriving DecidableEq, Repr

/-- A tag-table entry (R127). -/
structure TagEntry where
  v : Bool := false
  asid : Nat := 0
  line : Nat := 0
  deriving DecidableEq, Repr

/-- How a bank is held (R355); a parked bank is pinned while a copy of its task that may write it is in flight (R317). -/
inductive BankSt where
  | free | held | parked
  deriving DecidableEq, Repr

structure Bank where
  st : BankSt := .free
  task : Nat := 0
  deriving DecidableEq, Repr

/-- A core, or a tile-walk engine, which uses quadrant 0 and channel 0 alone (R11, R194, R230, R296). `dictFrom` where its dictionary was last loaded from; `cq` the source beats of the
conversion queues, oldest first, `cqPos` the next element of the oldest, `cqBits` the bits of
an element of the last sink beat that belong to the next one, and their number (R157, R192). `smNew` the signals of cycle `smAt`, which no one takes in it (R199); `order` the
quadrants, the least recently served by a shared queue or a semaphore first (R23, R41; log entry 97). `satovAt`, `cvsatAt`, `cvnanzAt` one more than the cycles in which these flags
were last set (R156). `frozen`: by the debug window, from
cycle `dbgAt`; `eccFreeze` the cycle in which a correctable error's freeze ends, 0 for none; `stopAt` since when it stands; `lost` the cycles its
task has lost so (R404, R405). -/
structure Core where
  q0 : Quad := {}
  q1 : Quad := {}
  q2 : Quad := {}
  q3 : Quad := {}
  task : Option Nat := none
  preload : Option Nat := none
  since : Nat := 0
  dict : Tab (BitVec 128) := Tab.empty
  dictPrev : Tab (BitVec 128) := Tab.empty
  dictFrom : Word := 0
  tags : Tab TagEntry := Tab.empty
  banks : Tab Bank := Tab.empty
  chans : Tab Chan := Tab.empty
  issue : Nat := 0
  burst : Nat := 0
  tagmap : Word := 0
  tagcnt : Tab Nat := Tab.empty
  sm : Tab Nat := Tab.empty
  smNew : Tab Nat := Tab.empty
  smTook : Tab Nat := Tab.empty
  smAt : Nat := 0
  order : List Nat := [0, 1, 2, 3]
  satov : Bool := false
  cvsat : Bool := false
  cvnanz : Bool := false
  satovAt : Nat := 0
  cvsatAt : Nat := 0
  cvnanzAt : Nat := 0
  halt : Bool := false
  mq : List MCmd := []
  mrun : List MRun := []
  mAt : Nat := 0
  mlast : Nat := 0
  abuf : Bool := false
  wb0 : WBuf := {}
  wb1 : WBuf := {}
  acc : Tab Row := Tab.empty
  fade : BitVec 32 := 0x3F800000
  bias : Row := 0
  qscale : Tab (BitVec 32) := Tab.empty
  qzero : BitVec 32 := 0
  act : ActTab := {}
  prog1 : Nat := 0
  adapters : List Adapter := []
  cqfmt : Tab Word := Tab.empty
  cqfBy : Tab Nat := Tab.empty
  cq : Tab (List VReg) := Tab.empty
  cqPos : Tab Nat := Tab.empty
  cqBits : Tab (Nat × Nat) := Tab.empty
  srcnt : Tab Nat := Tab.empty
  stb : Tab Stage := Tab.empty
  ecccnt : Nat := 0
  frozen : Bool := false
  eccFreeze : Nat := 0
  stopAt : Nat := 0
  dbgAt : Nat := 0
  lost : Nat := 0
  lastKernel : Word := 0
  freeAt : Nat := 0
  epoch : Tab Nat := Tab.empty
  epochDue : List Nat := []
  deriving DecidableEq, Repr

/-- A cached translation (R121): page number is offset / 2^shift; the slice that holds it. -/
structure TlbEntry where
  asid : Nat
  page : Nat
  shift : Nat
  entry : Word
  slice : Nat := 0
  deriving DecidableEq, Repr

/-- A sentinel (R134): the range, its control register and its record. -/
structure Sentinel where
  base : Word := 0
  limit : Word := 0
  ctl : Word := 0
  hits : BitVec 128 := 0
  deriving DecidableEq, Repr

/-- A link-table entry at a projection's origin (R263); `renewed` the TIME of its last renewal. An entry that has expired keeps its RSLOT. -/
structure Link where
  v : Bool := false
  rslot : Word := 0
  hi : Nat := 0
  lo : Nat := 0
  asid : Nat := 0
  ns : Bool := false
  pulled : Nat := 0
  ntm1 : Nat := 0
  renewed : Nat := 0
  deriving DecidableEq, Repr

/-- The state of a projection slot (R260). -/
inductive SlotSt where
  | free | live | done | severed | pending
  deriving DecidableEq, Repr

/-- A projection slot: its record, bitmap, tiles asked for, those whose request has left for another package and the parts of them that have come, SEVER reason, owner and address, and
the TIME of its next renewal (R259, R260, R265, R266). -/
structure Slot where
  st : SlotSt := .free
  pulled : Nat := 0
  ntm1 : Nat := 0
  link : Nat := 0
  ostr : List Word := []
  obase : Word := 0
  ldesc : Nat := 0
  stime : Nat := 0
  bitmap : Nat := 0
  asked : Nat := 0
  sent : Nat := 0
  parts : List (Nat × Nat × List (BitVec 8)) := []
  reason : Nat := 0
  asid : Nat := 0
  ns : Bool := false
  addr : Word := 0
  renewAt : Nat := 0
  deriving DecidableEq, Repr

/-- Who issues a memory request (R102, R134): unit as a sentinel's record codes it, the writer's facet, core, sub-unit; the
core it runs on, the task and the tenant {asid, world}; `fills`: a projection's own copy; `instant`: an engine of the platform whose accesses wait for no walk (log entry 86). -/
structure Agent where
  unit : Nat
  pkg : Nat
  fac : Nat
  core : Nat
  sub : Nat
  unitCore : Nat
  task : Nat
  asid : Nat
  ns : Bool
  fills : Bool := false
  instant : Bool := false
  deriving DecidableEq, Repr

/-- A migration in progress (R132): the page of 2^shift bytes, the facet and frame it goes to, the cycle in which the copy ends. -/
structure Migration where
  asid : Nat
  page : Nat
  shift : Nat
  ffac : Nat
  frame : Nat
  doneAt : Nat
  deriving DecidableEq, Repr

/-- A fabric packet (R367); the payload as bytes. `token` tells a request from another where the manual matches replies by flow and FSEQ
(R372); `stallmax` is the issuer's STALLMAX, for which the header has no field (R264); `via` is the circuit that it travels on, 64 * fibre + channel
(R361); `damaged`: FEC cannot correct it, or its ECRC fails (R375, log entry 35). `at_` is the cycle in which its unit or home emits it, or in which one that has come in
stands at its router port; `leaves` the facet that it leaves (R458); `oldest` the first FSEQ of its flow that is neither acknowledged nor given up (R379, log entry 117). -/
structure Packet where
  ty : Nat
  spkg : Nat
  sfac : Nat
  score : Nat
  sunit : Nat
  dpkg : Nat
  home : Nat
  offset : Nat
  asid : Nat
  ns : Bool
  btag : Nat
  aux : Nat
  fseq : Nat
  epoch : Nat
  lseq : Nat
  token : Nat
  payload : List (BitVec 8)
  stallmax : Nat := 0
  via : Nat := 0
  damaged : Bool := false
  at_ : Nat := 0
  leaves : Nat := 0
  oldest : Nat := 0
  deriving DecidableEq, Repr

/-- A request from another package at its home (R121): since when a linked range stalls it (R262), when it is tried next, and whether it has been accepted before (R271). -/
structure Incoming where
  packet : Packet
  since : Option Nat := none
  nextAt : Nat
  started : Bool := false
  report : List (BitVec 8) := []
  deriving DecidableEq, Repr

/-- A walk under way (R121): the tenant, the 64 KiB page that was missed, the cycle in which its last table read returns (R126), and the requests that wait for it. -/
structure Walk where
  asid : Nat
  page : Nat
  doneAt : Nat
  held : Nat := 1
  deriving DecidableEq, Repr

/-- The memory side of a facet; number 8 is the hub's translation (R121 to R134, R222, R259, R263, R338, R406, R415). `blanks` are the walks of late that
found no entry to cache, for the requests that waited for them (log entry 86); `clockDown` counts the steps by which its clock stands below 940 MHz, `clockAt` the TIME at which the last step is over; the cycles before `skippedTo` that such a clock leaves out have been left out. -/
structure Facet where
  tlb : List TlbEntry := []
  walks : List Walk := []
  blanks : List Walk := []
  reqQ : List Incoming := []
  counters : Tab Nat := Tab.empty
  queued : Tab Bool := Tab.empty
  migthr : Word := 0x40
  nqstat : Word := 0
  nqhead : Nat := 0
  nqtail : Nat := 0
  nqent : Tab (BitVec 128) := Tab.empty
  sentinels : Tab Sentinel := Tab.empty
  nbwin0 : Word := 0
  nbwin1 : Word := 0
  pwinA : Tab Word := Tab.empty
  pwinB : Tab Word := Tab.empty
  links : Tab Link := Tab.empty
  slots : Tab Slot := Tab.empty
  moving : Option Migration := none
  coreoff : Tab Word := Tab.empty
  deccnt : Nat := 0
  forecast : Nat := 0
  clockDown : Nat := 0
  skippedTo : Nat := 0
  clockAt : Nat := 0
  dispatchAt : Nat := 0
  deriving DecidableEq, Repr

/-- What the trace of a launch keeps of a copy job (R428): its number, own and effective slack, completion, and first wait. -/
structure JobTrace where
  num : Nat
  ch : Nat
  tag : Option Nat
  own : Nat
  eff : Nat
  doneAt : Nat
  wait : Option Nat
  deriving DecidableEq, Repr

/-- What the firmware keeps of a launch that was recorded or replayed (R428): the locus's place, and its jobs by node and instance, counted from the first of the slice. -/
structure LocusTrace where
  hash : Nat
  rev : Nat
  gang : Bool
  place : Nat
  replayed : Bool
  jobs : List (Nat × Nat × JobTrace)
  deriving DecidableEq, Repr

/-- A locus entry (R342): kind, core, banks, preload, node, first, count, wait, and its byte in the locus. -/
structure LocusEntry where
  kind : Nat
  core : Nat
  bmask : Nat
  pre : Bool
  node : Nat
  first : Nat
  count : Nat
  wait : Nat
  at_ : Nat
  deriving DecidableEq, Repr

/-- A package's own copy of a locus that another package recorded (R348): its place, hash and the revision it was taken from, its own revision, its entries and guard
values. -/
structure LocusCopy where
  place : Nat
  hash : Nat
  base : Nat
  rev : Nat
  entries : List LocusEntry
  guards : Tab Word
  deriving DecidableEq, Repr

/-- A context slot (R407, R123, R342, R352). `barred` the cores that its partition (R22) leaves out; `frames` the frames in use; `fails` the FAILS of places, each with the hash that it counts for, and
`copies` its own copies of shared loci (R348); `arrivals` the facets of the last arrivals in its latest 16 barriers over several facets (R415). -/
structure Ctx where
  asid : Nat := 0
  ns : Bool := false
  svg : Bool := false
  en : Bool := false
  ptroot : Tab Word := Tab.empty
  preReq : Bool := false
  preDone : Bool := false
  stopbase : Word := 0
  stoplost : Bool := false
  wdoglim : Nat := 0
  spawnEn : Bool := false
  spawnQ : Nat := 0
  ciqbase : Word := 0
  ciqLog : Nat := 4
  ciqLost : Bool := false
  ciqTail : Nat := 0
  ciqHead : Nat := 0
  locbase : Word := 0
  fpbase : Word := 0
  fpsz : Nat := 0
  fpcnt : Nat := 0
  frames : List Nat := []
  badFrames : List Nat := []
  barred : List Nat := []
  launches : Nat := 0
  lru : Tab Nat := Tab.empty
  lruNext : Nat := 1
  fails : Tab (Nat × Nat) := Tab.empty
  copies : List LocusCopy := []
  arrivals : List Nat := []
  traces : List LocusTrace := []
  halted : Bool := false
  firstCause : Nat := 0
  deriving DecidableEq, Repr

/-- The life of a task (R311). -/
inductive TaskSt where
  | preloaded | running | away | suspended | restorable | ending | done | killed
  deriving DecidableEq, Repr

/-- A tile task (R308 to R313, R353). `cores` are those it holds or was saved from, in the order of its frames; `images` its saved or prepared
cores and `banks` its bank numbers, by those cores; `tails` the banks that its frames hold; `nbanks` its banks on each. `stage`: 0 none,
1 its units stop, 2 it is saved, 3 it is restored; `saveAt` the cycle in which that ends. `jobs` counts the copy jobs entered,
`slacks` their overrides (R344), `trace` what is measured of them (R428); `entry` the cores of the locus entry it came from. -/
structure Task where
  st : TaskSt := .done
  ctx : Nat := 0
  tdesc : Word := 0
  inst : Nat := 0
  node : Nat := 0
  facet : Nat := 0
  launch : Nat := 0
  cores : List Nat := []
  walks : List Nat := []
  frames : List Nat := []
  savedFrom : List Nat := []
  banks : Tab Nat := Tab.empty
  tails : Tab Nat := Tab.empty
  nbanks : Nat := 1
  team : Bool := false
  kernel : Word := 0
  prio : Nat := 0
  ready : Nat := 0
  cause : Nat := 0
  stage : Nat := 0
  saveAt : Nat := 0
  waitFor : WaitFor := .none
  pageReady : Bool := false
  ythr : Nat := 0
  budget : Nat := 0
  stallmax : Nat := 0
  srkey : Word := 0
  cycles : Nat := 0
  cycleBase : Nat := 0
  cerr : Bool := false
  valid : Bool := false
  images : Tab Core := Tab.empty
  entry : List Nat := []
  pre : Bool := false
  jobs : Nat := 0
  slacks : List (Nat × Nat) := []
  trace : List JobTrace := []
  waited : Nat := 0
  joined : Option Nat := none
  deriving DecidableEq, Repr

/-- A parsed node record (R322) and its counters: live predecessors, facets left, instances left on each, the next instance of each share to
be placed, and those given back (R333, R336, R340); the cores and walk engines that a team takes (R339); the cycle of the next attempt after a wait
for a page (R309). -/
structure NodeRec where
  kernel : Word := 0
  dx : Nat := 0
  dy : Nat := 0
  dz : Nat := 0
  part : List Nat := []
  pred : Nat := 0
  prio : Nat := 0
  teams : Bool := false
  banks : Nat := 1
  gv : Nat := 0
  gsel : Nat := 0
  sigf : Bool := false
  irqf : Bool := false
  irqn : Bool := false
  siga : Word := 0
  sigv : Word := 0
  succ : List Nat := []
  foot : List (Word × Nat × Nat) := []
  live : Nat := 0
  done : Bool := false
  ready : Option Nat := none
  nodeCnt : Nat := 0
  facCnt : Tab Nat := Tab.empty
  next : Tab Nat := Tab.empty
  back : Tab (List Nat) := Tab.empty
  groups : Nat := 1
  units : List Nat := []
  tryAt : Nat := 0
  deriving DecidableEq, Repr

/-- How a launch relates to its locus (R343 to R346). -/
inductive LocusUse where
  | dynamic | recording (place : Word) | replaying (place : Word)
  deriving DecidableEq, Repr

/-- A launch (R331 to R333). `record` the placements recorded, by core; `replay` the task entries still to start, by core; `named` the cores that
its locus names, `locus` its entries; `waits` and `traces` what is measured of its tasks and jobs, by node and instance (R428); `checked` the descriptors checked (R309). -/
structure Launch where
  active : Bool := false
  failed : Bool := false
  num : Nat := 0
  ctx : Nat := 0
  queue : Nat := 0
  pkt : Nat := 0
  cookie : Word := 0
  sbase : Nat := 0
  scnt : Nat := 0
  gang : Bool := false
  gsiga : Word := 0
  gsigv : Word := 0
  irq : Bool := false
  norec : Bool := false
  gw : Tab Word := Tab.empty
  nodes : Tab NodeRec := Tab.empty
  nn : Nat := 0
  left : Nat := 0
  hash : Nat := 0
  use : LocusUse := .dynamic
  record : Tab (List LocusEntry) := Tab.empty
  replay : Tab (List LocusEntry) := Tab.empty
  named : List Nat := []
  locus : List LocusEntry := []
  rev : Nat := 0
  base : Nat := 0
  waits : List (Nat × Nat × Nat) := []
  traces : List (Nat × Nat × JobTrace) := []
  guards : Tab Word := Tab.empty
  tick : Bool := false
  checked : List Word := []
  deriving DecidableEq, Repr

/-- A packet that starts launches on ticks (R349): the ticks left (none without end), and its launch that runs. -/
structure Tick where
  pkt : Nat
  packet : Nat
  period : Nat
  left : Option Nat
  nextAt : Nat
  running : Option Nat
  deriving DecidableEq, Repr

/-- What the front end has yet to write: a signal of the counter tree and the interrupt that follows it (R333 to R335), or bytes of a locus (R343). `added`: the
signal has been performed, and its interrupt waits; `recorder`: the launch whose recorder writes, 0 for none; `next`: the step of the counter tree that it holds up (R334), by launch, node and
level. -/
structure Signal where
  addr : Word
  val : Word
  asid : Nat
  ns : Bool
  bytes : List (BitVec 8) := []
  irq : Option (Nat × Nat) := none
  port : Port := {}
  added : Bool := false
  recorder : Nat := 0
  next : Option (Nat × Nat × Nat) := none
  deriving DecidableEq, Repr

/-- A submission queue (R327); the cycle in which its next packet is tried, its ticking packets (R349), and its packets that have started and not
completed. -/
structure SubQ where
  asid : Nat := 0
  ns : Bool := false
  en : Bool := false
  log2n : Nat := 4
  base : Word := 0
  widx : Nat := 0
  ridx : Nat := 0
  errPkt : Nat := 0
  errNode : Nat := 0
  errCode : Nat := 0
  skip : Nat := 0
  tryAt : Nat := 0
  ticks : List Tick := []
  running : List (Nat × Nat) := []
  deriving DecidableEq, Repr

/-- A supervisor hart as far as QSUBMIT and QSASID see it (R329, R330): its x registers, QSASID, the instruction at its
coprocessor port, its program counter, whether it runs in user mode, and its last illegal-instruction exception. -/
structure Hart where
  x : Tab Word := Tab.empty
  qsasid : Word := 0
  port : Option Nat := none
  pc : Word := 0
  user : Bool := false
  illegal : Bool := false
  stval : Word := 0
  deriving DecidableEq, Repr

/-- A slot of a slot table (R362). -/
structure SlotHdr where
  len : Nat := 0
  guard : Nat := 0
  deriving DecidableEq, Repr

/-- A slot table (R362); `fibres` at 128*slot+fibre: transmit bytes low, receive bytes high. -/
structure SlotTab where
  epoch : Nat := 0
  nslot : Nat := 0
  hdr : Tab SlotHdr := Tab.empty
  fibres : Tab (BitVec 128) := Tab.empty
  start : Nat := 0
  deriving DecidableEq, Repr

/-- A packet not yet acknowledged (R376): its expiries, and where its timer has started, in the ns of its destination's data periods. -/
structure Unacked where
  p : Packet
  tries : Nat := 0
  sentAt : Option Nat := none
  deriving DecidableEq, Repr

/-- A flow at its source: the next FSEQ and the packets not yet acknowledged (R376, R378). -/
structure Flow where
  seq : Nat := 0
  unacked : List Unacked := []
  deriving DecidableEq, Repr

/-- A flow key at its target (R377, R378): its epoch, the highest FSEQ seen, those received in the duplicate window, the first FSEQ not yet
applied and those applied beyond it; batch error maps and byte counts by tag (R384); `failed` the answers of refused requests that may have to be given again (R380). -/
structure Window where
  key : Nat
  epoch : Nat
  high : Option Nat := none
  seen : List Nat := []
  next : Nat := 0
  applied : List Nat := []
  err : Tab Nat := Tab.empty
  done : Tab Nat := Tab.empty
  failed : List (Nat × Nat × List (BitVec 8)) := []
  deriving DecidableEq, Repr

/-- A circuit, 64 * fibre + channel: next LSEQ and the packets kept for replay (R375), those to be sent again first, free buffers at the far
end (R373), the TIME from which it is free, and whether its link sees no return light (R364). -/
structure Circuit where
  lseq : Nat := 0
  kept : List Packet := []
  replay : List Packet := []
  credits : Nat := 64
  freeAt : Nat := 0
  dark : Bool := false
  deriving DecidableEq, Repr

/-- The fabric block (R362 to R387): the shadow table with its activation TIME; send queues; packets of homes that wait for room in one, and requests of homes that wait for a unit or a
place in their flow (R371, R373, R376); the LSEQ awaited on each circuit that comes in (R375); packets that have come
in, and summary requests to be answered; the TIME of the next slot; and the ns of data periods that the tables before the active one
have given each package (R376). -/
structure Fabric where
  active : Option SlotTab := none
  shadow : Option (SlotTab × Nat) := none
  sendq : Tab (List Packet) := Tab.empty
  backlog : Tab (List Packet) := Tab.empty
  deferred : List Packet := []
  expect : Tab Nat := Tab.empty
  arrivals : List Packet := []
  questions : List Packet := []
  flows : List (Nat × Flow) := []
  windows : List Window := []
  circuits : Tab Circuit := Tab.empty
  units : Tab Nat := Tab.empty
  quota : Tab Nat := Tab.empty
  slotAt : Nat := 0
  served : Tab Nat := Tab.empty
  deriving DecidableEq, Repr

/-- The device's identity (R413): the seed that the PUF yields, kept in the hub's key store, the ML-DSA-87 key pair derived from it, and the device ID.
No register reads it. -/
structure Identity where
  seed : BitVec 256
  secretKey : List (BitVec 8)
  publicKey : List (BitVec 8)
  deviceId : List (BitVec 8)
  deriving DecidableEq, Repr

/-- The hub's registers (R329, R366, R374, R403, R410 to R414); `booted`: the supervisor cores run; `firmHash` and `confHash` what the boot ROM has
hashed, `identity` the key store; `invals` what LOCINV and LOCINVA have yet to free, by context, all or a hash; `refines` the refinements to come, by cycle, context and hash (R429); `tree` the steps of counter trees
whose signals and interrupts are over (R334). -/
structure Hub where
  booted : Bool := false
  fabimg : Word := 0
  fabact : Word := 0
  fabstat : Word := 0
  fabAt : Option Nat := none
  fabdrop : Nat := 0
  rquota : Tab Nat := Tab.empty
  secmap : Word := 0
  secrgnA : Tab Word := Tab.empty
  secrgnB : Tab Word := Tab.empty
  dbgSpace : Nat := 0
  dbgErr : Bool := false
  dbgtgt : Word := 0
  dbgidx : Word := 0
  dbgdata0 : Word := 0
  dbgdata1 : Word := 0
  authLock : Bool := true
  authRes : Nat := 0
  authUsed : Bool := false
  chal : Tab Word := Tab.empty
  sig : Tab (BitVec 8) := Tab.empty
  config : List (BitVec 8) := []
  featoff : BitVec 8 := 0
  featacc : BitVec 8 := 0
  featDone : Bool := false
  bootstat : Nat := 0
  firmHash : List (BitVec 8) := []
  confHash : List (BitVec 8) := []
  identity : Option Identity := none
  gangRunning : Bool := false
  signals : List Signal := []
  signalAt : Nat := 0
  feCache : List (Nat × List (BitVec 8)) := []
  fePorts : List (Nat × Port) := []
  lastQ : Nat := 0
  invals : List (Nat × Option Nat) := []
  refines : List (Nat × Nat × Nat) := []
  tree : List (Nat × Nat × Nat) := []
  deriving DecidableEq, Repr

/-- Events that the supervisor receives. -/
inductive SupEvent where
  | sentinel (fac k : Nat) | slotWrite (fac slot : Nat) | launchError (queue : Nat) | copyFault (task : Nat)
  | contextFatal (ctx cause : Nat) | preempted (ctx : Nat) | mismatch (pkg : Nat) | unreachable (pkg : Nat)
  | signalLost (asid : Nat) | locusWrite (ctx : Nat) | interrupt (ctx : Nat) | eccFree (core : Nat) | notification (fac : Nat)
  deriving DecidableEq, Repr

/-- A location that a SIGW or an AWAIT watches at its home (R300, R316): whose watch it is, the memory key of the location, the condition
and its operand, and whether a value has satisfied it. -/
structure Watch where
  who : Nat × Nat
  key : Nat
  cond : Nat
  b : Word
  met : Bool
  deriving DecidableEq, Repr

/-- The unit whose turn it is: a core (or walk engine) and a quadrant of it. -/
structure Turn where
  core : Nat := 0
  quad : Nat := 0
  deriving DecidableEq, Repr

/-- One package. -/
structure State where
  pkg : Nat
  powered : Bool
  cycle : Nat
  time : Nat
  cur : Turn
  cores : Tab Core
  mem : Tab (BitVec 8)
  facets : Tab Facet
  hub : Hub
  fabric : Fabric
  ctxs : Tab Ctx
  tasks : Tab Task
  nextTask : Nat
  launches : Tab Launch
  nextLaunch : Nat
  queues : Tab SubQ
  harts : Tab Hart
  agenda : List Instr
  watches : List Watch
  events : List SupEvent
  draws : Nat
  tokens : Nat
  hwFault : Option Fault
  deriving DecidableEq, Repr

namespace State

/-- The package right after power-on (R16: the module has no always-on island): nothing runs, every core is free, every
register stands at its reset value. The values that the manual does not give are those of log entries 20 to 29. -/
def reset : State :=
  { pkg := 0, powered := true, cycle := 0, time := 0, cur := {}, cores := Tab.empty, mem := Tab.empty, facets := Tab.empty,
    hub := {}, fabric := {}, ctxs := Tab.empty, tasks := Tab.empty, nextTask := 1, launches := Tab.empty, nextLaunch := 1,
    queues := Tab.empty, harts := Tab.empty, agenda := [], watches := [], events := [], draws := 0, tokens := 1, hwFault := none }

end State
end Sys2Proof.Machine
end

