-- ==== Sys2Proof/Machine/Mem.lean ====
section
/-! DEFINITION. The parts of the package by number, the bytes of memory, and the translation of addresses at their owner
(R24 to R26, R121 to R123, R410, R457). -/

namespace Sys2Proof.Machine

/-! ### Units by number -/

def Core.quad (c : Core) (q : Nat) : Quad :=
  match q with | 0 => c.q0 | 1 => c.q1 | 2 => c.q2 | _ => c.q3

def Core.setQuad (c : Core) (q : Nat) (x : Quad) : Core :=
  match q with
  | 0 => { c with q0 := x } | 1 => { c with q1 := x } | 2 => { c with q2 := x } | _ => { c with q3 := x }

/-- Does a core stand frozen (R404, R405)? -/
def Core.stands (k : Core) : Bool := k.frozen || decide (k.eccFreeze ≠ 0)

def State.core (s : State) (c : Nat) : Core := s.cores.get {} c
def State.setCore (s : State) (c : Nat) (x : Core) : State := { s with cores := s.cores.set {} c x }
def State.updCore (s : State) (c : Nat) (f : Core → Core) : State := s.setCore c (f (s.core c))
def State.quadOf (s : State) (c q : Nat) : Quad := (s.core c).quad q
def State.updQuad (s : State) (c q : Nat) (f : Quad → Quad) : State :=
  s.updCore c (fun k => k.setQuad q (f (k.quad q)))

/-- The core and the quadrant whose turn it is. -/
def State.myCore (s : State) : Core := s.core s.cur.core
def State.me (s : State) : Quad := s.quadOf s.cur.core s.cur.quad
def State.updMe (s : State) (f : Quad → Quad) : State := s.updQuad s.cur.core s.cur.quad f
def State.updMyCore (s : State) (f : Core → Core) : State := s.updCore s.cur.core f

def State.facet (s : State) (f : Nat) : Facet := s.facets.get {} f
def State.updFacet (s : State) (f : Nat) (u : Facet → Facet) : State :=
  { s with facets := s.facets.set {} f (u (s.facet f)) }
def State.ctx (s : State) (c : Nat) : Ctx := s.ctxs.get {} c
def State.updCtx (s : State) (c : Nat) (u : Ctx → Ctx) : State := { s with ctxs := s.ctxs.set {} c (u (s.ctx c)) }
def State.task (s : State) (t : Nat) : Task := s.tasks.get {} t
def State.updTask (s : State) (t : Nat) (u : Task → Task) : State := { s with tasks := s.tasks.set {} t (u (s.task t)) }
/-- The units of a task, in the order of its frames: its cores, then its walk engines. -/
def Task.units (x : Task) : List Nat := x.cores ++ x.walks
/-- A quadrant's place in its task, which a restore on other cores keeps. -/
def State.seat (s : State) (t c u : Nat) : Nat := 4 * (s.task t).units.idxOf c + u
def State.launch (s : State) (l : Nat) : Launch := s.launches.get {} l
def State.updLaunch (s : State) (l : Nat) (u : Launch → Launch) : State :=
  { s with launches := s.launches.set {} l (u (s.launch l)) }
def State.subq (s : State) (q : Nat) : SubQ := s.queues.get {} q
def State.updSubq (s : State) (q : Nat) (u : SubQ → SubQ) : State := { s with queues := s.queues.set {} q (u (s.subq q)) }
def State.hart (s : State) (h : Nat) : Hart := s.harts.get {} h
/-- The supervisor complex has 16 harts (R9): a number past them names none. -/
def State.updHart (s : State) (h : Nat) (u : Hart → Hart) : State := { s with harts := if h < 16 then s.harts.set {} h (u (s.hart h)) else s.harts }

/-- The next value of the draw counter, and the state in which it has been used. -/
def State.drawn (s : State) : State := { s with draws := s.draws + 1 }

def State.event (s : State) (e : SupEvent) : State := { s with events := s.events ++ [e] }

/-- Walk engines follow the 1,536 cores: engine n of facet f is 1536 + 18f + n (R403). -/
def isWalk (c : Nat) : Bool := decide (1536 ≤ c)
def facetOf (c : Nat) : Nat := if c < 1536 then c / 192 else (c - 1536) / 18
def idxInFacet (c : Nat) : Nat := if c < 1536 then c % 192 else (c - 1536) % 18

/-! ### Address fields (R24) -/

def pkgOf (a : Word) : Nat := a.toNat / 2 ^ 58
def homeOf (a : Word) : Nat := a.toNat / 2 ^ 54 % 16
def offOf (a : Word) : Nat := a.toNat % 2 ^ 54

/-! ### Bytes of memory -/

/-- Where a byte of facet `f`'s stacks lies in the table of memory. -/
def stackKey (f addr : Nat) : Nat := f * 2 ^ 48 + addr
/-- Where a byte of a core's scratchpad lies in the table of memory. -/
def spadKey (core off : Nat) : Nat := 2 ^ 52 + core * 2 ^ 19 + off

/-- What an unlisted byte reads as: log entry 12, DESIGN CHOICE 0. -/
def blankByte : BitVec 8 := 0

def State.byteAt (s : State) (key : Nat) : BitVec 8 := s.mem.get blankByte key
def State.setByte (s : State) (key : Nat) (b : BitVec 8) : State := { s with mem := s.mem.set blankByte key b }

def State.bytesAt (s : State) : Nat → Nat → List (BitVec 8)
  | _, 0 => []
  | key, n + 1 => s.byteAt key :: s.bytesAt (key + 1) n

def State.setBytes (s : State) : Nat → List (BitVec 8) → State
  | _, [] => s
  | key, b :: r => (s.setByte key b).setBytes (key + 1) r

/-- The conditions of SIGW (R300): EQ, NE, GEN, LTN. -/
def signalHolds (cond : Nat) (x b : Word) : Bool :=
  match cond with | 0 => x == b | 1 => x != b | 2 => decide (b.toNat ≤ x.toNat) | _ => decide (x.toNat < b.toNat)

/-- A write at a home: every value a watched location takes is tested (R300, R316). -/
def State.poke (s : State) (key : Nat) (b : List (BitVec 8)) : State :=
  let s := s.setBytes key b
  if s.watches.isEmpty then s
  else { s with watches := s.watches.map (fun w =>
    if w.met then w else { w with met := signalHolds w.cond (BitVec.ofNat 64 (leNat (s.bytesAt w.key 8))) w.b }) }

/-- The canonical form of memory. -/
def State.memWf (s : State) : Bool := s.mem.wf blankByte

/-- Capacity of the two stacks of a facet (R13). -/
def stackBytes : Nat := 96000000000

/-! ### Translation at the owner -/

/-- What an access needs of its page: load, store, atomic, or instruction fetch. -/
inductive Need where
  | load | store | atomic | fetch
  deriving DecidableEq, Repr

/-- The outcome of translating one byte's address. -/
inductive Xlat where
  | at (key : Nat)
  | prot (reason : Nat)
  | page (fac off : Nat)
  deriving DecidableEq, Repr

/-- The valid context slot of an ASID (R407). -/
def State.ctxOf (s : State) (asid : Nat) : Option Nat :=
  (s.ctxs.cells.find? (fun c => c.2.en && decide (c.2.asid = asid))).map Prod.fst

/-- The memory key of the level-1 table of an ASID at a facet, or at the hub (facet 8) (R123). -/
def State.rootOf (s : State) (fac asid : Nat) : Option Nat :=
  match s.ctxOf asid with
  | none => none
  | some c =>
    let r := ((s.ctx c).ptroot.get 0 fac).toNat
    let ffac := r / 2 ^ 48 % 16
    if r % 2 = 1 ∧ (if fac < 8 then ffac = fac else ffac < 8) then
      some (stackKey ffac (r % 2 ^ 48 / 2 ^ 18 * 2 ^ 18))
    else none

/-- One entry of a table (R122). Log entry 13: a table that an entry places past the stacks of its facet (R13) reads as memory that nothing has written, so
that its walk finds no valid entry (PROT reason 1); it is an access's own byte past the stacks that is the fault frameBeyondStacks. -/
def State.entryAt (s : State) (table idx : Nat) : Word := BitVec.ofNat 64 (leNat (s.bytesAt (table + 8 * idx) 8))

/-- Is the entry valid, of the right kind and without reserved bits, for a page or table of 2^shift bytes? (R122) Log entry 52: a leaf whose ADDR is not a multiple of its
page's size, for which the check table has no row, counts as an entry with reserved bits set: PROT reason 1. -/
def entryOk (e : Word) (leaf : Bool) (shift : Nat) : Bool :=
  let x := e.toNat
  decide (x % 2 = 1) && decide ((x / 2 % 2 = 1) = leaf) && decide (x / 2 ^ 52 = 0) && decide (x / 2 ^ 10 % 4 = 0)
    && decide (x / 4 % 2 = 0) && decide (x / 2 ^ 8 % 4 ≠ 3) && decide (x / 2 ^ 48 % 16 < 8)
    && decide (x % 2 ^ 48 / 2 ^ 12 * 2 ^ 12 % 2 ^ shift = 0)

def entryKey (e : Word) : Nat := stackKey (e.toNat / 2 ^ 48 % 16) (e.toNat % 2 ^ 48 / 2 ^ 12 * 2 ^ 12)

/-- The walk of R122: the leaf entry of an offset and the log2 size of its page. -/
def State.walk (s : State) (root off : Nat) : Option (Word × Nat) :=
  let e1 := s.entryAt root (off / 2 ^ 39)
  if !entryOk e1 false 12 then none else
  let e2 := s.entryAt (entryKey e1) (off / 2 ^ 30 % 512)
  if entryOk e2 true 30 then some (e2, 30) else
  if !entryOk e2 false 12 then none else
  let e3 := s.entryAt (entryKey e2) (off / 2 ^ 21 % 512)
  if entryOk e3 true 21 then some (e3, 21) else
  if !entryOk e3 false 12 then none else
  let e4 := s.entryAt (entryKey e3) (off / 2 ^ 16 % 32)
  if entryOk e4 true 16 then some (e4, 16) else none

/-- How many tables a walk reads (R122, R126). -/
def State.walkReads (s : State) (root off : Nat) : Nat :=
  let e1 := s.entryAt root (off / 2 ^ 39)
  if !entryOk e1 false 12 then 1 else
  let e2 := s.entryAt (entryKey e1) (off / 2 ^ 30 % 512)
  if entryOk e2 true 30 || !entryOk e2 false 12 then 2 else
  let e3 := s.entryAt (entryKey e2) (off / 2 ^ 21 % 512)
  if entryOk e3 true 21 || !entryOk e3 false 12 then 3 else 4

/-- The slice of a facet's TLB that serves an offset: offset[22:21] XOR ASID[1:0]; the hub has one (R121, R123). -/
def tlbSlice (fac asid off : Nat) : Nat := if fac < 8 then (off / 2 ^ 21 % 4) ^^^ (asid % 4) else 0

def State.tlbFind (s : State) (fac asid off : Nat) : Option TlbEntry :=
  (s.facet fac).tlb.find? (fun e => decide (e.slice = tlbSlice fac asid off) && decide (e.asid = asid) && decide (off / 2 ^ e.shift = e.page))

/-- Is the entry in the set of its slice that `e` goes to (R121)? The set is a free function of the page (log entry 5). -/
def TlbEntry.sameSet (e x : TlbEntry) : Bool :=
  decide (x.slice = e.slice) && decide (Config.tlbSet x.asid x.page x.shift % 1024 = Config.tlbSet e.asid e.page e.shift % 1024)

/-- A new entry; a set that holds 8 gives up an entry of its own choice (R121, log entry 5). -/
def State.tlbFill (s : State) (fac : Nat) (e : TlbEntry) : State :=
  let l := (s.facet fac).tlb
  let ways := (List.range l.length).filter (fun i => (l[i]?).any e.sameSet)
  if ways.length < 8 then s.updFacet fac (fun f => { f with tlb := e :: f.tlb })
  else (s.updFacet fac (fun f => { f with tlb := e :: f.tlb.eraseIdx (ways.getD (Config.tlbVictim s.draws % ways.length) 0) })).drawn

/-- The world of a frame: the lowest-numbered enabled region that contains it decides; else it is secure (R410). -/
def State.frameNs (s : State) (fac addr : Nat) : Bool :=
  match (List.range 16).find? (fun k =>
      let a := (s.hub.secrgnA.get 0 k).toNat
      let b := (s.hub.secrgnB.get 0 k).toNat
      decide (a % 2 = 1) && decide (a / 2 ^ 48 % 16 = fac) && decide (a % 2 ^ 48 / 2 ^ 16 ≤ addr / 2 ^ 16)
        && decide (addr / 2 ^ 16 ≤ b % 2 ^ 48 / 2 ^ 16)) with
  | some k => decide ((s.hub.secrgnB.get 0 k).toNat % 2 = 1)
  | none => false

/-- The checks of a leaf entry, in the order of R122. -/
def State.checkLeaf (s : State) (fac off : Nat) (e : Word) (shift : Nat) (ns : Bool) (need : Need) : Xlat :=
  let x := e.toNat
  let bitN (n : Nat) : Bool := decide (x / 2 ^ n % 2 = 1)
  let key := entryKey e + off % 2 ^ shift
  if ns && (!bitN 6 || !s.frameNs (key / 2 ^ 48) (key % 2 ^ 48)) then .prot 3
  else if bitN 7 then .page fac off
  else match need with
    | .load => if bitN 3 then .at key else .prot 1
    | .fetch => if bitN 5 then .at key else .prot 6
    | .store => if bitN 4 then .at key else .prot 2
    | .atomic => if !bitN 4 then .prot 2 else if fac = 8 then .prot 9 else .at key

/-- Translation of an offset at its owner, facet 0 to 7 or the hub 8 (R121 to R123); the TLB may be filled. -/
def State.translate (s : State) (fac asid off : Nat) (ns : Bool) (need : Need) : State × Xlat :=
  match s.tlbFind fac asid off with
  | some e => (s, s.checkLeaf fac off e.entry e.shift ns need)
  | none =>
    match s.rootOf fac asid with
    | none => (s, .prot 8)
    | some root =>
      match s.walk root off with
      | none => (s, .prot 1)
      | some (e, shift) =>
        let r := s.checkLeaf fac off e shift ns need
        if e.toNat / 2 ^ 7 % 2 = 1 then (s, r)
        else (s.tlbFill fac { asid := asid, page := off / 2 ^ shift, shift := shift, entry := e, slice := tlbSlice fac asid off }, r)

/-! ### Agents and the whole check of an address -/

/-- Is a bank of a core granted to the access (R457)? Home 15: the banks that the agent's task holds there. Home 14: the banks
of the task running on the named core. -/
def State.bankOk (s : State) (core bank task : Nat) : Bool :=
  let b := (s.core core).banks.get {} bank
  decide (b.st ≠ .free) && decide (b.task = task) && decide (task ≠ 0)

def State.peerBankOk (s : State) (core bank : Nat) : Bool :=
  match (s.core core).task with
  | none => false
  | some t => decide ((s.task t).st = .running) && s.bankOk core bank t && decide (((s.core core).banks.get {} bank).st = .held)

/-- Where an address of this package leads an agent (R25, R121, R122, R457). Home 15 from a walk engine is refused with
reason 11 (R296). -/
def State.locate (s : State) (ag : Agent) (a : Word) (need : Need) : State × Xlat :=
  let home := homeOf a
  let off := offOf a
  if home < 9 then s.translate home ag.asid off ag.ns need
  else if home < 14 then (s, .prot 4)
  else if home = 14 then
    let idx := off / 2 ^ 19
    if 192 ≤ idx then (s, .prot 4)
    else
      let c := ag.fac * 192 + idx
      if s.peerBankOk c (off % 2 ^ 19 / 65536) then (s, .at (spadKey c (off % 2 ^ 19))) else (s, .prot 5)
  else if isWalk ag.unitCore then (s, .prot 11)
  else if off / 2 ^ 19 ≠ 0 then (s, .prot 4)
  else if s.bankOk ag.unitCore (off / 65536) ag.task then (s, .at (spadKey ag.unitCore off)) else (s, .prot 5)

/-- Does the address name another package (homes 0 to 13 only, R25)? -/
def State.isRemote (s : State) (a : Word) : Bool := decide (homeOf a < 9) && decide (pkgOf a ≠ s.pkg)

/-- The features in force (R414). -/
def State.feat (s : State) (k : Nat) : Bool := (s.hub.featoff &&& s.hub.featacc).getLsbD k

/-! ### Walks (R121, R123, R126) -/

/-- Walks that a facet, or the hub, runs at once, and requests that it holds waiting on them (R121, R123). -/
def walkCap (fac : Nat) : Nat := if fac < 8 then 128 else 32
def waitCap (fac : Nat) : Nat := if fac < 8 then 4096 else 1024

/-- Requests that wait for the walks of a facet. -/
def Facet.waiters (f : Facet) : Nat := (f.walks.map (·.held)).sum

/-- The log2 size of the page of an offset, 16 where its tables name none (R122). -/
def State.pageShift (s : State) (root off : Nat) : Nat := match s.walk root off with | some (_, shift) => shift | none => 16

/-- Is a walk one of the page of an offset? -/
def State.walksPage (s : State) (root asid off : Nat) (w : Walk) : Bool :=
  decide (w.asid = asid) && (let n := s.pageShift root off; decide (w.page * 65536 / 2 ^ n = off / 2 ^ n))

/-- What a request meets at the TLB of its owner (R121): `none` where it goes on, on a hit or with the answer of its walk; else it waits until the cycle given. A miss joins a walk of its
page or starts one, while there is a waiting place for it and a free walk; it tries again in the next cycle where there is none. A walk takes one read of the owner's memory for each table,
180 cycles each: the DRAM figure of R126 (log entry 86). -/
def State.walkWait (s : State) (fac asid off : Nat) : Option (State × Nat) :=
  if (s.tlbFind fac asid off).isSome then none
  else match s.rootOf fac asid with
  | none => none
  | some root =>
    let f := s.facet fac
    match f.walks.find? (s.walksPage root asid off) with
    | some w =>
      if w.doneAt ≤ s.cycle then none
      else if waitCap fac ≤ f.waiters then some (s, s.cycle + 1)
      else some (s.updFacet fac (fun x => { x with walks := x.walks.map (fun y => if y = w then { w with held := w.held + 1 } else y) }), w.doneAt)
    | none =>
      if f.blanks.any (fun w => s.walksPage root asid off w && decide (s.cycle ≤ w.doneAt + 64)) then none
      else if walkCap fac ≤ f.walks.length ∨ waitCap fac ≤ f.waiters then some (s, s.cycle + 1)
      else
        let t := s.cycle + 180 * s.walkReads root off
        some (s.updFacet fac (fun x => { x with walks := x.walks ++ [{ asid := asid, page := off / 65536, doneAt := t }] }), t)

/-- The stacks end where R13 says; a frame beyond them is a cell the manual does not give. -/
def State.checkKey (s : State) (key : Nat) : State :=
  if key < 2 ^ 52 ∧ stackBytes ≤ key % 2 ^ 48 then { s with hwFault := some .frameBeyondStacks } else s

end Sys2Proof.Machine
end

