-- ==== Sys2Proof/Machine/Access.lean ====
section
/-! DEFINITION. Reads and writes at their home: access counters and notifications (R129 to R131), migration (R132),
sentinels (R134), projection stalls, windows and pulls (R257 to R268), and packets to other packages (R367 to R379). -/

namespace Sys2Proof.Machine

/-! ### Descriptors (R257, R258) -/

/-- Bits of a number: `n` of them from `lo`. -/
def bits (x lo n : Nat) : Nat := x / 2 ^ lo % 2 ^ n

/-- `n` bytes of a payload from byte `i`, as a number. -/
def payNat (b : List (BitVec 8)) (i n : Nat) : Nat := leNat ((b.drop i).take n)

/-- Element width in bits of a queue format code, F19 in its container (R135, R157). -/
def codeWidth (f : Nat) : Nat :=
  if f = 0 ∨ f = 32 ∨ f = 33 then 32 else if f < 4 then 16 else if f < 10 then 8 else if f < 13 then 6
  else if f < 17 then 4 else if f < 19 then 2 else if f = 19 then 1
  else if f = 22 ∨ f = 23 then 6 else if f = 24 ∨ f = 26 ∨ f = 27 ∨ f = 28 ∨ f = 30 then 4 else 8

def descBase (d : Nat) : Nat := bits d 0 64
def descDim (d j : Nat) : Nat := bits d (64 + 32 * j) 32
def descStride (d j : Nat) : Nat := if j = 0 then 0 else bits d (192 + 64 * (j - 1)) 64
def descTile (d j : Nat) : Nat := bits d (384 + 16 * j) 16
def descFmt (d : Nat) : Nat := bits d 448 6
def descNd (d : Nat) : Nat := bits d 454 2 + 1
def descW (d : Nat) : Nat := codeWidth (descFmt d)

/-- Extent of a dimension, 1 for an unused one. -/
def descExt (d j : Nat) : Nat := if j < descNd d then descDim d j else 1
def descTl (d j : Nat) : Nat := if j < descNd d then descTile d j else 1
/-- Tiles along a dimension. -/
def descTiles (d j : Nat) : Nat := cdiv (descExt d j) (descTl d j)
def descTileCount (d : Nat) : Nat := descTiles d 0 * descTiles d 1 * descTiles d 2 * descTiles d 3

/-- Row bytes L1 of the dense copy, and the dense stride of dimension j (R258). -/
def denseRow (d : Nat) : Nat := cdiv (cdiv (descDim d 0 * descW d) 8) 4 * 4
def denseStride (d j : Nat) : Nat :=
  match j with
  | 0 => 0 | 1 => denseRow d | 2 => denseRow d * descExt d 1 | _ => denseRow d * descExt d 1 * descExt d 2
def denseSize (d : Nat) : Nat := denseRow d * descExt d 1 * descExt d 2 * descExt d 3

/-- Is the descriptor legal (R257, R258)? Reserved bits, dimensions, tiles, format; used extents and tiles at least 1, unused zero. -/
def descOk (d : Nat) : Bool :=
  let f := descFmt d
  decide (bits d 458 54 = 0) && (decide (f < 20) || decide (f = 32) || decide (f = 33))
    && (List.range 4).all (fun j =>
      if j < descNd d then decide (1 ≤ descDim d j) && decide (1 ≤ descTile d j)
      else decide (descDim d j = 0) && decide (descTile d j = 0) && decide (descStride d j = 0))
    && decide (descTile d 0 * descW d % 8 = 0)

/-- The tile of a byte of the dense copy (R258): a pad byte goes with its row's last element. -/
def tileOf (d x : Nat) : Nat :=
  let e0 := min (x % denseRow d * 8 / descW d) (descDim d 0 - 1)
  let i1 := x / denseStride d 1 % descExt d 1
  let i2 := x / denseStride d 2 % descExt d 2
  let i3 := x / denseStride d 3
  e0 / descTl d 0 + descTiles d 0 * (i1 / descTl d 1 + descTiles d 1 * (i2 / descTl d 2 + descTiles d 2 * (i3 / descTl d 3)))

/-- The indexes of tile coordinate `t` along dimension `j`. -/
def tileSpan (d j t : Nat) : List Nat :=
  (List.range (descTl d j)).filterMap (fun i => let x := t * descTl d j + i; if x < descExt d j then some x else none)

/-- The rows of a tile: offset in the dense copy, offset from the origin's BASE (modulo 2^64), and bytes. -/
def tileRows (d : Nat) (ostr : Nat → Nat) (tile : Nat) : List (Nat × Nat × Nat) :=
  let t0 := tile % descTiles d 0
  let t1 := tile / descTiles d 0 % descTiles d 1
  let t2 := tile / (descTiles d 0 * descTiles d 1) % descTiles d 2
  let t3 := tile / (descTiles d 0 * descTiles d 1 * descTiles d 2)
  let first := t0 * descTl d 0
  let start := first * descW d / 8
  let len := cdiv (min (descTl d 0) (descDim d 0 - first) * descW d) 8
  (tileSpan d 3 t3).flatMap (fun i3 => (tileSpan d 2 t2).flatMap (fun i2 => (tileSpan d 1 t1).map (fun i1 =>
    (i1 * denseStride d 1 + i2 * denseStride d 2 + i3 * denseStride d 3 + start,
     i1 * ostr 1 + i2 * ostr 2 + i3 * ostr 3 + start, len))))

/-- Lowest and highest byte of the origin extent, as signed offsets from BASE. -/
def originSpan (d : Nat) : Int × Int :=
  let ext (j : Nat) : Int := if j < descNd d ∧ 0 < j then (descDim d j - 1 : Int) * signedOf 64 (descStride d j) else 0
  let lo := min 0 (ext 1) + min 0 (ext 2) + min 0 (ext 3)
  let hi := max 0 (ext 1) + max 0 (ext 2) + max 0 (ext 3)
  (lo, hi + (cdiv (descDim d 0 * descW d) 8 - 1 : Int))

/-! ### Counters and sentinels -/

/-- One request reaches the home of a region (R129): its counter, and at the threshold a notification (R130). -/
def State.count (s : State) (key asid req : Nat) : State :=
  if 2 ^ 52 ≤ key then s else
  let f := key / 2 ^ 48
  let region := key % 2 ^ 48 / 2 ^ 21
  let fac := s.facet f
  let ix := region * 10 + req
  let old := fac.counters.get 0 ix
  let new := min 255 (old + 1)
  let s := s.updFacet f (fun x => { x with counters := x.counters.set 0 ix new })
  if old = new ∨ new ≠ fac.migthr.toNat % 256 ∨ fac.migthr.toNat % 256 = 0 ∨ fac.queued.get false region = true then s
  else if (fac.nqtail + 2 ^ 32 - fac.nqhead) % 2 ^ 32 = 1024 then
    s.updFacet f (fun x => { x with
      queued := x.queued.set false region true,
      nqstat := BitVec.ofNat 64 (2 ^ 32 + min (2 ^ 32 - 1) (x.nqstat.toNat % 2 ^ 32 + 1)) })
  else
    let e := s.time % 2 ^ 32 * 2 ^ 96 + new * 2 ^ 64 + asid * 2 ^ 48 + region * 2 ^ 21 + req * 2 ^ 17
    (s.updFacet f (fun x => { x with
      queued := x.queued.set false region true,
      nqent := x.nqent.set 0 (x.nqtail % 1024) (BitVec.ofNat 128 e),
      nqtail := (x.nqtail + 1) % 2 ^ 32 })).event (.notification f)

/-- One access, whatever its pieces, is one request to each region that it reaches (R129). -/
def State.countAll (s : State) (ks : List (Nat × Nat)) (asid req : Nat) : State :=
  (ks.map (fun k => k.1 / 2 ^ 21)).eraseDups.foldl (fun s r => s.count (r * 2 ^ 21) asid req) s

/-- The requester number of an agent (R129): its facet, 8 for the hub, 9 for another package. -/
def requester (s : State) (ag : Agent) : Nat := if ag.pkg ≠ s.pkg then 9 else ag.fac

/-- Does sentinel `t` of facet `f` watch a write of `n` bytes at `a` by `asid` (R134)? -/
def sentinelHits (t : Sentinel) (asid n : Nat) (a : Word) : Bool :=
  let c := t.ctl.toNat
  decide (c / 2 ^ 16 % 2 = 1) && (decide (c / 2 ^ 17 % 2 = 1) || decide (c % 2 ^ 16 = asid))
    && decide (a.toNat ≤ t.limit.toNat) && decide (t.base.toNat ≤ a.toNat + n - 1) && decide (0 < n)

/-- The record of a hit, in package `pkg` (R134). -/
def sentinelRecord (pkg : Nat) (ag : Agent) (a : Word) : BitVec 128 :=
  BitVec.ofNat 128 (a.toNat * 2 ^ 64 + 2 ^ 63 + (if ag.pkg = pkg then ag.unit % 16 else 6) * 2 ^ 58 + ag.pkg % 64 * 2 ^ 52 + ag.fac % 16 * 2 ^ 48
    + ag.core % 256 * 2 ^ 40 + ag.sub % 256 * 2 ^ 32 + ag.asid % 2 ^ 16 * 2 ^ 16)

/-- Every sentinel of a facet sees a write of the parts `l`, once however many of them it watches; the write goes on (R134). -/
def State.sentinelsAt (s : State) (ag : Agent) (f : Nat) (l : List (Word × Nat)) : State :=
  (List.range 8).foldl (fun s k =>
    let t := (s.facet f).sentinels.get {} k
    match l.find? (fun p => sentinelHits t ag.asid p.2 p.1) with
    | none => s
    | some p =>
      let r := if t.hits.getLsbD 63 then t.hits ||| BitVec.ofNat 128 (2 ^ 62) else sentinelRecord s.pkg ag p.1
      (s.updFacet f (fun x => { x with sentinels := x.sentinels.set {} k { t with hits := r } })).event (.sentinel f k)) s

/-- The sentinels of the home facets of a write (R134). -/
def State.sentinels (s : State) (ag : Agent) (l : List (Word × Nat)) : State :=
  let l := l.filter (fun p => decide (homeOf p.1 < 8) && decide (pkgOf p.1 = s.pkg))
  (l.map (fun p => homeOf p.1)).eraseDups.foldl (fun s f => s.sentinelsAt ag f (l.filter (fun p => decide (homeOf p.1 = f)))) s

/-! ### Packets (R367 to R379) -/

/-- The flow key, without the epoch (R367). -/
def flowKey (p : Packet) : Nat := ((p.spkg * 16 + p.sfac) * 256 + p.score) * 1024 + p.sunit * 64 + p.dpkg

def State.flow (s : State) (k : Nat) : Flow := ((s.fabric.flows.find? (fun x => x.1 = k)).map Prod.snd).getD {}
def State.setFlow (s : State) (k : Nat) (f : Flow) : State :=
  { s with fabric := { s.fabric with flows := (k, f) :: s.fabric.flows.filter (fun x => decide (x.1 ≠ k)) } }

/-- Does some slot of the active table list a transmit channel to the package (R379, R387)? -/
def SlotTab.lists (t : SlotTab) (pkg dst slot : Nat) : Bool :=
  (List.range 128).any (fun f =>
    let e := (t.fibres.get 0 (128 * slot + f)).toNat
    (List.range 8).any (fun k => decide (bits e (8 * k + 7) 1 = 1) && decide ((pkg + bits e (8 * k) 6) % 64 = dst)))

def State.serves (s : State) (dst : Nat) : Bool :=
  match s.fabric.active with
  | none => false
  | some t => (List.range t.nslot).any (fun k => t.lists s.pkg dst k)

/-- A request to a package that no slot of the active table lists is unreachable at once (R379). -/
def State.unreachable (s : State) (dst : Nat) : Bool := s.fabric.active.isSome && !s.serves dst

/-- Reservation units that this package holds at a target (R373): the default quota less those in use. -/
def State.unitsUsed (s : State) (dst : Nat) : Nat := s.fabric.units.get 0 dst
def State.quotaAt (s : State) (dst : Nat) : Nat := s.fabric.quota.get 1024 dst

/-- May a request enter its send queue (R371, R373, R376)? -/
def State.canSend (s : State) (p : Packet) : Bool :=
  decide ((s.fabric.sendq.get [] p.dpkg).length < 4096) && decide (s.fabric.backlog.get [] p.dpkg = []) && decide (s.unitsUsed p.dpkg < s.quotaAt p.dpkg)
    && decide ((s.flow (flowKey p)).unacked.length < 1024)

/-- A packet enters the send queue of its destination, or waits for room in it behind those that do; its unit or home emits it `n` cycles from now (R126, R371, R458). -/
def State.queueIn (s : State) (n : Nat) (p : Packet) : State :=
  let x := s.fabric
  let p := { p with at_ := s.cycle + n }
  if (x.sendq.get [] p.dpkg).length < 4096 ∧ x.backlog.get [] p.dpkg = [] then
    { s with fabric := { x with sendq := x.sendq.set [] p.dpkg (x.sendq.get [] p.dpkg ++ [p]) } }
  else { s with fabric := { x with backlog := x.backlog.set [] p.dpkg (x.backlog.get [] p.dpkg ++ [p]) } }
def State.queue (s : State) (p : Packet) : State := s.queueIn 0 p

/-- A request enters its send queue with the next FSEQ of its flow; it takes a reservation unit (R371, R373, R376). -/
def State.send (s : State) (p : Packet) : State :=
  let k := flowKey p
  let f := s.flow k
  let p := { p with fseq := f.seq, oldest := match f.unacked with | u :: _ => u.p.fseq | [] => f.seq }
  let s := (s.setFlow k { seq := (f.seq + 1) % 2 ^ 32, unacked := f.unacked ++ [{ p := p }] }).queue p
  { s with fabric := { s.fabric with units := s.fabric.units.set 0 p.dpkg (s.fabric.units.get 0 p.dpkg + 1) } }

/-- A request of a home is sent, or waits behind the earlier ones for a unit, for room and for a place in its flow (R371, R373, R376). -/
def State.emit (s : State) (p : Packet) : State :=
  if s.canSend p ∧ !s.fabric.deferred.any (fun x => decide (x.dpkg = p.dpkg)) then s.send p
  else { s with fabric := { s.fabric with deferred := s.fabric.deferred ++ [p] } }

/-- What waits for a send queue to a package enters it as room allows, then the requests of homes that wait to be sent there. -/
def State.refill (s : State) (dst : Nat) : State :=
  let x := s.fabric
  let n := 4096 - (x.sendq.get [] dst).length
  let s := if x.backlog.get [] dst = [] then s else { s with fabric := { x with
    sendq := x.sendq.set [] dst (x.sendq.get [] dst ++ (x.backlog.get [] dst).take n), backlog := x.backlog.set [] dst ((x.backlog.get [] dst).drop n) } }
  let l := s.fabric.deferred
  if l = [] then s else l.foldl State.emit { s with fabric := { s.fabric with deferred := [] } }

/-- The unit number of a packet header (R367). -/
def sunitOf (ag : Agent) : Nat :=
  match ag.unit with | 0 => ag.sub | 1 => 4 + ag.sub | 3 => 12 | 2 => 13 | _ => 14

/-- A packet from an agent to an address of another package. -/
def State.packetTo (s : State) (ag : Agent) (ty : Nat) (a : Word) (btag aux token : Nat) (payload : List (BitVec 8)) : Packet :=
  { ty := ty, spkg := s.pkg, sfac := ag.fac, score := ag.core, sunit := sunitOf ag, dpkg := pkgOf a, home := homeOf a,
    offset := offOf a, asid := ag.asid, ns := ag.ns, btag := btag, aux := aux, fseq := 0,
    epoch := (s.core ag.unitCore).epoch.get 0 (sunitOf ag), lseq := 0, token := token, payload := payload,
    stallmax := (s.task ag.task).stallmax, leaves := ag.fac }

/-- A span cut at 64 KiB boundaries, the smallest page and the size of a bank. -/
def pieces : Nat → Word → Nat → List (Word × Nat)
  | 0, _, _ => []
  | fuel + 1, a, n =>
    if n = 0 then []
    else
      let m := min n (65536 - a.toNat % 65536)
      (a, m) :: pieces fuel (a + BitVec.ofNat 64 m) (n - m)

def spans (a : Word) (n : Nat) : List (Word × Nat) := pieces (n / 65536 + 2) a n

/-! ### Projection slots at their home (R259, R260, R265) -/

/-- The enabled window of a facet, for an ASID and world, that an offset lies in: slot number (4,096 per window) and the offset
of the slot's first byte; its log2 size. -/
def State.slotAt (s : State) (f asid off : Nat) (ns : Bool) : Option (Nat × Nat × Nat) :=
  (List.range 4).findSome? (fun k =>
    let a := ((s.facet f).pwinA.get 0 k).toNat
    let b := ((s.facet f).pwinB.get (BitVec.ofNat 64 (16 * 2 ^ 12)) k).toNat
    let sz := bits b 12 6
    let base := bits a 21 33 * 2 ^ 21
    let i := (off - base) / 2 ^ sz
    if a % 2 = 1 ∧ 16 ≤ sz ∧ sz ≤ 34 ∧ bits b 19 16 = asid ∧ (decide (bits b 18 1 = 1)) = ns ∧ base ≤ off ∧ i ≤ bits b 0 12 then
      some (k * 4096 + i, base + i * 2 ^ sz, sz)
    else none)

def State.slot (s : State) (f k : Nat) : Slot := (s.facet f).slots.get {} k
def State.updSlot (s : State) (f k : Nat) (u : Slot → Slot) : State :=
  s.updFacet f (fun x => { x with slots := x.slots.set {} k (u (x.slots.get {} k)) })

def slotCode : SlotSt → Nat | .free => 0 | .live => 1 | .done => 2 | .severed => 3 | .pending => 4

/-- The 128-byte record of a slot (R260). -/
def slotRecord (x : Slot) : Nat :=
  x.ldesc + x.obase.toNat * 2 ^ 512
    + ((x.ostr.getD 0 0).toNat + (x.ostr.getD 1 0).toNat * 2 ^ 64 + (x.ostr.getD 2 0).toNat * 2 ^ 128) * 2 ^ 576
    + x.link * 2 ^ 768 + slotCode x.st * 2 ^ 780 + x.ntm1 * 2 ^ 784 + x.pulled * 2 ^ 800 + x.stime % 2 ^ 32 * 2 ^ 832

/-- The world of a request from a facet, or from the hub's front end (8): a block that SECMAP assigns to the non-secure world issues only
non-secure requests (R410). -/
def State.worldOf (s : State) (f : Nat) (ns : Bool) : Bool := ns || s.hub.secmap.getLsbD (if f < 8 then f else 11)

/-- An agent that stands for the home of a facet, or for an engine of the platform. -/
def homeAgent (s : State) (f asid : Nat) (ns : Bool) : Agent :=
  { unit := 5, pkg := s.pkg, fac := f, core := 0, sub := 0, unitCore := 0, task := 0, asid := asid, ns := s.worldOf f ns, instant := true }

/-- Bytes written by a home into pages of its own facet; `none` where a page is not writable. DESIGN CHOICE, log entry 130: a page that is present later counts as one
(R460 names only a page that is unmapped or read-only). -/
def State.homePut (s : State) (f asid : Nat) (ns : Bool) : List (Word × Nat) → List (BitVec 8) → Option State
  | [], _ => some s
  | (a, n) :: r, b =>
    match s.translate f asid a.toNat ns .store with
    | (s, .at key) => ((s.checkKey key).poke key (b.take n)).homePut f asid ns r (b.drop n)
    | _ => none

/-- The sentinels see it as they see every writer (R134). -/
def State.homeWrite (s : State) (f asid off : Nat) (ns : Bool) (b : List (BitVec 8)) : Option State :=
  (s.homePut f asid ns (spans (BitVec.ofNat 64 off) b.length) b).map (fun s =>
    s.sentinels (homeAgent s f asid ns) [(BitVec.ofNat 64 (s.pkg * 2 ^ 58 + f * 2 ^ 54 + off), b.length)])

/-- The link of a projection is released at its origin (R262), if the entry still is that of the slot at `addr`. -/
def State.dropLink (s : State) (f k : Nat) (addr : Word) : State :=
  if ((s.facet f).links.get {} k).rslot = addr then s.updFacet f (fun x => { x with links := x.links.set {} k {} }) else s

/-- A slot releases its link: in this package at once, elsewhere by a packet (R266, R267; AUX 2, log entry 33). -/
def State.releaseLink (s : State) (f asid : Nat) (ns : Bool) (x : Slot) : State :=
  if pkgOf x.obase = s.pkg then s.dropLink (homeOf x.obase) x.link x.addr
  else s.emit (s.packetTo (homeAgent s f asid ns) 12 x.obase 0 2 0 (leBytes 2 x.link ++ leBytes 8 x.addr.toNat))

/-- Why a pull or a renewal finds no live entry (R266): it has expired (1), or it is another's (2); 0 where it is live. -/
def Link.why (l : Link) (addr : Word) : Nat := if l.rslot ≠ addr then 2 else if l.v then 0 else 1

/-- The record of a slot in memory is brought up to date; a failure is for the caller. -/
def State.writeRecord (s : State) (f asid off : Nat) (ns : Bool) (k : Nat) : Option State := s.homeWrite f asid off ns (leBytes 128 (slotRecord (s.slot f k)))

/-- The slot becomes SEVERED for a reason (R266). -/
def State.sever (s : State) (f asid off : Nat) (ns : Bool) (k reason : Nat) : State :=
  let s := s.updSlot f k (fun x => { x with st := .severed, reason := reason })
  (s.writeRecord f asid off ns k).getD s

/-- A write of the home into a LIVE slot has failed (R460): SEVERED with reason 4, its link released, an event. -/
def State.breakSlot (s : State) (f asid off : Nat) (ns : Bool) (k : Nat) : State :=
  (((s.releaseLink f asid ns (s.slot f k)).sever f asid off ns k 4)).event (.slotWrite f k)

/-- A home brings the record of a slot in memory up to date; where a page refuses that, a LIVE slot is severed. -/
def State.showSlot (s : State) (f asid off : Nat) (ns : Bool) (k : Nat) : State :=
  match s.writeRecord f asid off ns k with
  | some s => s
  | none => if (s.slot f k).st = .live then s.breakSlot f asid off ns k else s

/-- The outcome of an access at its home; `walk`: it waits for a page-table walk up to a cycle (R121). -/
inductive AccRes where
  | ok (bytes : List (BitVec 8))
  | prot (reason : Nat) (at_ : Word)
  | page (fac off : Nat)
  | sever (reason link : Nat) (at_ : Word)
  | stall (fac link : Nat) (at_ : Word)
  | pull (fac slot : Nat)
  | walk (till : Nat)
  | wait
  | remote
  deriving DecidableEq, Repr

structure Acc where
  st : State
  res : AccRes

/-- The rows of a tile are written into the slot's data (R265); `none` where a page of the slot refuses (R460). -/
def State.fillTile (s : State) (f asid off : Nat) (ns : Bool) : List (Nat × List (BitVec 8)) → Option State
  | [] => some s
  | (o, b) :: r =>
    match s.homeWrite f asid (off + 4096 + o) ns b with
    | some s => s.fillTile f asid off ns r
    | none => none

/-- Bytes of the origin at its home: 0 where a page is present later, 2 where it refuses. -/
def State.originBytes (s : State) (f asid : Nat) (ns : Bool) : List (Word × Nat) → Except Nat (List (BitVec 8))
  | [] => .ok []
  | (a, n) :: r =>
    match (s.translate f asid a.toNat ns .load).2 with
    | .at key => (s.originBytes f asid ns r).map (fun b => s.bytesAt key n ++ b)
    | .page _ _ => .error 0
    | .prot _ => .error 2

/-- The tile has arrived: it is written, its bit set, PULLED counts it; a full slot is DONE and its link released. A write that fails severs the slot,
and the tile is discarded (R265, R460). -/
def State.tileArrives (s : State) (f asid off : Nat) (ns : Bool) (k tile : Nat) (rows : List (Nat × List (BitVec 8))) : State :=
  let map := (s.slot f k).bitmap ||| 2 ^ tile
  match (s.fillTile f asid off ns rows).bind (fun s => s.homeWrite f asid (off + 2048 + tile / 8) ns [BitVec.ofNat 8 (map / 2 ^ (tile / 8 * 8))]) with
  | none => s.breakSlot f asid off ns k
  | some s =>
    let s := s.updSlot f k (fun x => { x with bitmap := map, pulled := x.pulled + 1 })
    let x := s.slot f k
    if x.ntm1 + 1 ≤ x.pulled then
      ((s.releaseLink f asid ns x).updSlot f k (fun x => { x with st := .done })).showSlot f asid off ns k
    else s.showSlot f asid off ns k

/-- The rows of a tile as its origin serves them (R265): offset in the dense copy, and bytes. -/
def State.serveRows (s : State) (f asid base : Nat) (ns : Bool) : List (Nat × Nat × Nat) → Except Nat (List (Nat × List (BitVec 8)))
  | [] => .ok []
  | (lo, oo, n) :: r =>
    match s.originBytes f asid ns (spans (BitVec.ofNat 64 ((base + oo) % 2 ^ 54)) n) with
    | .ok b => (s.serveRows f asid base ns r).map (fun l => (lo, b) :: l)
    | .error e => .error e

/-- The memory of a tile's rows at the origin, as far as it translates. -/
def State.rowKeys (s : State) (f asid base : Nat) (ns : Bool) (rows : List (Nat × Nat × Nat)) : List (Nat × Nat) :=
  rows.flatMap (fun r => (spans (BitVec.ofNat 64 ((base + r.2.1) % 2 ^ 54)) r.2.2).filterMap (fun p =>
    match (s.translate f asid p.1.toNat ns .load).2 with
    | .at key => some (key, p.2)
    | _ => none))

/-- A pull at the origin's home: the link counts it (R263), the regions count the request (R129), and the rows; or the SEVER reason, or 0 where it
waits for a page. One that has been accepted is served whatever has become of its link (R271). -/
def State.pullAtOrigin (s : State) (f k : Nat) (addr : Word) (base ldesc : Nat) (ostr : List Word) (tile req : Nat) (accepted : Bool) :
    State × Except Nat (List (Nat × List (BitVec 8))) :=
  let l := (s.facet f).links.get {} k
  if l.why addr ≠ 0 && !accepted then (s, .error (l.why addr))
  else
    let rows := tileRows ldesc (fun j => (ostr.getD (j - 1) 0).toNat) tile
    match s.serveRows f l.asid base l.ns rows with
    | .error e => (s, .error e)
    | .ok b =>
      let s := s.countAll (s.rowKeys f l.asid base l.ns rows) l.asid req
      (if l.why addr = 0 then s.updFacet f (fun y => { y with links := y.links.set {} k { l with pulled := l.pulled + 1 } }) else s, .ok b)

/-- What a pull request carries (log entry 33): link, tile, slot address, local descriptor, origin strides. -/
def pullPayload (x : Slot) (tile : Nat) : List (BitVec 8) :=
  leBytes 2 x.link ++ leBytes 2 tile ++ leBytes 8 x.addr.toNat ++ leBytes 64 x.ldesc ++ (List.range 3).flatMap (fun j => leBytes 8 (x.ostr.getD j 0).toNat)

/-- A tile is pulled from the origin (R265): at once where the origin lies in this package, else by a pull request. A pull that
finds no live link severs the slot with reason 1 or 2; an origin that cannot be reached, with reason 3. -/
def State.pullTile (s : State) (f asid off : Nat) (ns : Bool) (k tile : Nat) : State :=
  let x := s.slot f k
  if pkgOf x.obase = s.pkg then
    match s.pullAtOrigin (homeOf x.obase) x.link x.addr (offOf x.obase) x.ldesc x.ostr tile f (decide (bits x.asked tile 1 = 1)) with
    | (s, .error r) => if r = 0 then s.updSlot f k (fun y => { y with asked := y.asked ||| 2 ^ tile }) else s.sever f asid off ns k r
    | (s, .ok rows) => s.tileArrives f asid off ns k tile rows
  else if s.unreachable (pkgOf x.obase) then s.sever f asid off ns k 3
  else if bits x.sent tile 1 = 1 then s
  else
    let s := s.updSlot f k (fun y => { y with asked := y.asked ||| 2 ^ tile })
    let p := s.packetTo (homeAgent s f asid ns) 8 x.obase 0 0 ((k * 2 ^ 14 + tile) * 8 + f) (pullPayload x tile)
    if s.canSend p then (s.send p).updSlot f k (fun y => { y with sent := y.sent ||| 2 ^ tile }) else s

/-- What an access of `n` bytes from `off` in facet `f` meets in the projection windows (R260, R265): nothing (`ok`), a wait,
a refusal, or SEVER. A load that misses a tile pulls it first. `fuel` bounds the tiles one access can touch. -/
def State.windowCheck (s : State) (ag : Agent) (f off n : Nat) (a : Word) (write : Bool) : Nat → Acc
  | 0 => ⟨s, .ok []⟩
  | fuel + 1 =>
    match s.slotAt f ag.asid off ag.ns with
    | none => ⟨s, .ok []⟩
    | some (k, base, _) =>
      let x := s.slot f k
      match x.st with
      | .free | .done => ⟨s, .ok []⟩
      | .pending => ⟨s, if ag.fills then .ok [] else .wait⟩
      | .live | .severed =>
        if write && decide (x.st = .live) && decide (off < base + 4096 + denseSize x.ldesc) then ⟨s, .prot 12 a⟩
        else
          let missing := ((List.range n).map (fun i => off + i)).filter (fun o =>
            decide (base + 4096 ≤ o) && decide (o < base + 4096 + denseSize x.ldesc)
              && decide (bits x.bitmap (tileOf x.ldesc (o - base - 4096)) 1 = 0))
          match missing with
          | [] => ⟨s, .ok []⟩
          | o :: _ =>
            let at_ := BitVec.ofNat 64 (a.toNat - a.toNat % 2 ^ 54 + o)
            if x.st = .severed then ⟨s, .sever x.reason x.link at_⟩
            else
              let s' := s.pullTile f ag.asid base ag.ns k (tileOf x.ldesc (o - base - 4096))
              let y := s'.slot f k
              if y.st = .live ∧ y.bitmap = x.bitmap then ⟨s', .pull f k⟩
              else s'.windowCheck ag f off n a write fuel

/-- The lowest live link of a facet that covers a byte of the span (R262). -/
def State.linkOver (s : State) (f asid off n : Nat) (ns : Bool) : Option Nat :=
  ((s.facet f).links.cells.find? (fun c =>
    c.2.v && decide (c.2.asid = asid) && decide (c.2.ns = ns) && decide (off ≤ c.2.hi) && decide (c.2.lo < off + n))).map Prod.fst

/-- Is the page of an offset being migrated (R132)? -/
def State.isMoving (s : State) (f asid off : Nat) : Bool :=
  match (s.facet f).moving with
  | some m => decide (m.asid = asid) && decide (off / 2 ^ m.shift = m.page)
  | none => false

/-- What a piece of an access meets at the TLB of its home: nothing, or a walk. -/
def State.awaits (s : State) (ag : Agent) (a : Word) : Option (State × Nat) :=
  if ag.instant ∨ 9 ≤ homeOf a then none else s.walkWait (homeOf a) ag.asid (offOf a)

/-- One piece of an access: the walk that it waits for, translation and checks, projection stalls and windows, migration; a frozen core's scratchpad waits (R404). `ok []` when it may be performed. -/
def State.accept (s : State) (ag : Agent) (a : Word) (n : Nat) (need : Need) : Acc × Nat :=
  if s.isRemote a then (⟨s, if s.feat 6 then .remote else .prot 4 a⟩, 0)
  else
    let f := homeOf a
    match s.awaits ag a with
    | some (s, t) => (⟨s, .walk t⟩, 0)
    | none =>
    match s.locate ag a need with
    | (s, .prot r) => (⟨s, .prot r a⟩, 0)
    | (s, .page fac off) => (⟨s, .page fac off⟩, 0)
    | (s, .at key) =>
      if 8 ≤ f then (⟨s, if f = 14 ∧ (s.core (ag.fac * 192 + offOf a / 2 ^ 19)).stands then .wait else .ok []⟩, key)
      else if s.isMoving f ag.asid (offOf a) then (⟨s, .wait⟩, 0)
      else
        let write := decide (need = .store) || decide (need = .atomic)
        match (if write then s.linkOver f ag.asid (offOf a) n ag.ns else none) with
        | some l => (⟨s, .stall f l a⟩, 0)
        | none => (s.windowCheck ag f (offOf a) n a write (n + 2), key)

/-- Every piece is admitted before any is performed; the memory keys of the pieces. -/
def State.acceptAll (s : State) (ag : Agent) (need : Need) : List (Word × Nat) → Acc × List (Nat × Nat)
  | [] => (⟨s, .ok []⟩, [])
  | (a, n) :: r =>
    match s.accept ag a n need with
    | (⟨s, .ok _⟩, key) =>
      let (acc, ks) := s.acceptAll ag need r
      (acc, (key, n) :: ks)
    | (acc, _) => (acc, [])

/-- A byte of a list replaced, where it lies in it. -/
def putByte (b : List (BitVec 8)) (first at_ : Nat) (u : Nat → Nat) : List (BitVec 8) :=
  if at_ < first then b else b.modify (at_ - first) (fun x => BitVec.ofNat 8 (u x.toNat))

/-- What a read gives of a slot's record: STATE and PULLED as they stand (R260). -/
def State.live (s : State) (ag : Agent) (p : Word × Nat) (b : List (BitVec 8)) : List (BitVec 8) :=
  if 8 ≤ homeOf p.1 then b
  else match s.slotAt (homeOf p.1) ag.asid (offOf p.1) ag.ns with
    | none => b
    | some (k, base, _) =>
      let x := s.slot (homeOf p.1) k
      let off := offOf p.1
      if x.st = .free ∨ base + 128 ≤ off then b
      else putByte (putByte (putByte b off (base + 97) (fun y => y % 16 + slotCode x.st * 16 + y / 128 * 128)) off (base + 100) (fun _ => x.pulled % 256))
        off (base + 101) (fun y => x.pulled / 256 % 128 + y / 128 * 128)

/-- The bytes of a read, piece by piece. -/
def State.got (s : State) (ag : Agent) : List (Word × Nat) → List (Nat × Nat) → List (BitVec 8)
  | p :: r, k :: ks => s.live ag p (s.bytesAt k.1 k.2) ++ s.got ag r ks
  | _, _ => []

/-- A request read of `n` bytes at `a`, as one request at each home it touches. -/
def State.read (s : State) (ag : Agent) (a : Word) (n : Nat) : Acc :=
  match s.acceptAll ag .load (spans a n) with
  | (⟨s, .ok _⟩, ks) =>
    let s' := (ks.foldl (fun s k => s.checkKey k.1) s).countAll ks ag.asid (requester s ag)
    ⟨s', .ok (s.got ag (spans a n) ks)⟩
  | (acc, _) => acc

/-- The same for an instruction fetch, which needs X (R122). -/
def State.readCode (s : State) (ag : Agent) (a : Word) (n : Nat) : Acc :=
  match s.acceptAll ag .fetch (spans a n) with
  | (⟨s, .ok _⟩, ks) =>
    let s' := (ks.foldl (fun s k => s.checkKey k.1) s).countAll ks ag.asid (requester s ag)
    ⟨s', .ok (s.got ag (spans a n) ks)⟩
  | (acc, _) => acc

/-- The bytes of a write, piece by piece. -/
def State.put (s : State) : List (Nat × Nat) → List (BitVec 8) → State
  | [], _ => s
  | (k, n) :: r, b => ((s.checkKey k).poke k (b.take n)).put r (b.drop n)

/-- A write of bytes at `a`. -/
def State.write (s : State) (ag : Agent) (a : Word) (b : List (BitVec 8)) : Acc :=
  match s.acceptAll ag .store (spans a b.length) with
  | (⟨s, .ok _⟩, ks) =>
    ⟨((s.countAll ks ag.asid (requester s ag)).put ks b).sentinels ag [(a, b.length)], .ok []⟩
  | (acc, _) => acc

/-- An atomic on 8 bytes: the new value is a function of the old one, or no write at all (R117). -/
def State.atomically (s : State) (ag : Agent) (a : Word) (f : Word → Option Word) : Acc :=
  match s.acceptAll ag .atomic (spans a 8) with
  | (⟨s, .ok _⟩, ks) =>
    let s := (ks.foldl (fun s k => s.checkKey k.1) s).countAll ks ag.asid (requester s ag)
    let old := ks.flatMap (fun k => s.bytesAt k.1 k.2)
    match f (BitVec.ofNat 64 (leNat old)) with
    | some v => ⟨(s.put ks (leBytes 8 v.toNat)).sentinels ag [(a, 8)], .ok old⟩
    | none => ⟨s, .ok old⟩
  | (acc, _) => acc

/-- The new value of an atomic (R117); ACAS writes only on success. -/
def atomicNew (op : Nat) (b cmp old : Word) : Option Word :=
  match op with
  | 0x14 => some (old + b)
  | 0x15 => some (old &&& b)
  | 0x16 => some (old ||| b)
  | 0x17 => some (old ^^^ b)
  | 0x18 => some (if old.sle b then old else b)
  | 0x19 => some (if b.sle old then old else b)
  | 0x1A => some (if old.ule b then old else b)
  | 0x1B => some (if b.ule old then old else b)
  | 0x1C => some b
  | _ => if old = cmp then some b else none

end Sys2Proof.Machine
end

