-- ==== Sys2Proof/Machine/Ops.lean ====
section
/-! DEFINITION. The named operations over the machine: registers and results in flight (R42 to R47, R75 to R78), the loop
end test (R97, R98), waits (R288), stop records and context-fatal faults (R401, R402), and taking an exception and returning
from it (R393, R394). -/

namespace Sys2Proof.Machine

/-! ### Registers of a quadrant -/

/-- g0 reads zero (R44). -/
def Quad.gr (q : Quad) (k : Nat) : Word := if k = 0 then 0 else q.g.get 0 k
/-- A write to g0 is discarded (R45). -/
def Quad.setG (q : Quad) (k : Nat) (x : Word) : Quad := if k = 0 then q else { q with g := q.g.set 0 k x }
def Quad.br (q : Quad) (k : Nat) : Word := q.b.get 0 k
/-- Latch 4 stands for none. -/
def Quad.setB (q : Quad) (k : Nat) (x : Word) : Quad := if 4 ≤ k then q else { q with b := q.b.set 0 k x }
def Quad.vr (q : Quad) (k : Nat) : VReg := q.v.get 0 k
def Quad.setV (q : Quad) (k : Nat) (x : VReg) : Quad := { q with v := q.v.set 0 k x }
def Quad.mr (q : Quad) (k : Nat) : BitVec 32 := q.m.get 0 k
def Quad.setM (q : Quad) (k : Nat) (x : BitVec 32) : Quad := { q with m := q.m.set 0 k x }
/-- p0 reads one (R48, R73). -/
def Quad.pr (q : Quad) (k : Nat) : Bool := decide (k = 0) || q.p.getLsbD k
/-- A write to p0 is discarded (R73). -/
def Quad.setP (q : Quad) (k : Nat) (x : Bool) : Quad :=
  if k = 0 then q else { q with p := putField q.p k 1 (bit x) }
def Quad.nest (q : Quad) (k : Nat) : Nest := q.n.get {} k
def Quad.setNest (q : Quad) (k : Nat) (x : Nest) : Quad := { q with n := q.n.set {} k x }
def Quad.einf (q : Quad) (k : Nat) : Word := q.einfo.get 0 k

/-- The splitter stands for a cycle and tries the same word again. -/
def Quad.poll (q : Quad) : Quad := { q with cyc := q.cyc + 1 }

/-! ### Results in flight -/

/-- A result lands: its register (a v register under its mask) and its latch are written. A pending read writes nothing. -/
def Quad.land (q : Quad) (p : Pend) : Quad :=
  if p.eng = 3 then q else
  let q := match p.dst with
    | .none => q
    | .g k => q.setG k (BitVec.ofNat 64 p.val)
    | .v k => q.setV k ((q.vr k &&& ~~~(BitVec.ofNat 1024 p.mask)) ||| BitVec.ofNat 1024 (p.val &&& p.mask))
    | .m k => q.setM k (BitVec.ofNat 32 p.val)
    | .p _ => q
  q.setB p.latch (BitVec.ofNat 64 p.val)

/-- Insertion by landing cycle, after those that land no later: of two that land together the later-issued stands last (R43). -/
def insertPend (p : Pend) : List Pend → List Pend
  | [] => [p]
  | x :: r => if p.land < x.land then p :: x :: r else x :: insertPend p r

def sortPend (l : List Pend) : List Pend := l.foldl (fun acc p => insertPend p acc) []

/-- Every result whose cycle has come lands. -/
def Quad.landDue (q : Quad) (t : Nat) : Quad :=
  (sortPend (q.pend.filter (fun p => decide (p.land ≤ t)))).foldl Quad.land
    { q with pend := q.pend.filter (fun p => decide (t < p.land)) }

/-- Every result in flight lands, and every snapshot entry that has come back and whose engine has not issued since (R77). DESIGN CHOICE, log entry 125:
a voluntary switch in a handler leaves the interrupted code's entries in the buffer until the return (R78). -/
def Quad.settle (q : Quad) : Quad :=
  (sortPend (q.pend ++ (if q.snapBack then q.snap else []))).foldl Quad.land { q with pend := [], snap := if q.snapBack then [] else q.snap }

/-- The registers and latches that a word reads and writes. -/
structure Use where
  reads : List Dst := []
  latches : List Nat := []
  writes : List Dst := []
  wlatch : Nat := 4

/-- The engine of a result: 0 multiply, 1 memory, 2 vector, 3 a pending read. -/
def engOf (e : Nat) : Nat := if e = 4 then 0 else if e = 5 then 2 else e

/-- Does a word of engine `eng` wait for `p` (R42)? Not for a result of its own engine, but for the memory engine's own (R42); a write waits for the reads that are still to be made. -/
def waitsFor (eng : Nat) (u : Use) (p : Pend) : Bool :=
  let e := engOf p.eng
  if e = 3 then (u.writes.contains p.dst && decide (p.dst ≠ .none)) || (decide (p.latch < 4) && decide (u.wlatch = p.latch))
  else (decide (e ≠ eng) || decide (eng = 1))
    && ((decide (p.dst ≠ .none) && (u.reads.contains p.dst || u.writes.contains p.dst))
      || (decide (p.latch < 4) && (u.latches.contains p.latch || decide (u.wlatch = p.latch))))

/-- The first cycle from `t` on in which the interlocks of R42 let the word read and write. -/
def Quad.clear (q : Quad) (eng : Nat) (u : Use) (t : Nat) : Nat :=
  (q.pend.filter (waitsFor eng u)).foldl (fun t p => max t p.land) t

/-- Where the result of a memory operation goes: register and latch (R46). -/
def memDst : MemOp → Dst × Nat
  | .load _ _ d _ => (d, 2)
  | .atomic _ _ _ d _ => (if d = 0 then .none else .g d, if d = 0 then 4 else 2)
  | .vld d => (.v d, 4)
  | .vgath d _ _ _ => (.v d, 4)
  | .lkup d => (if d = 0 then .none else .g d, 2)
  | .tstat d => (if d = 0 then .none else .g d, 2)
  | _ => (.none, 4)

/-- Does a younger word with uses `u` wait for a register and a latch that are yet to be written? -/
def Use.meets (u : Use) (o : Dst × Nat) : Bool :=
  (decide (o.1 ≠ Dst.none) && (u.reads.contains o.1 || u.writes.contains o.1))
    || (decide (o.2 < 4) && (u.latches.contains o.2 || decide (u.wlatch = o.2)))

/-- Does a memory entry that waits in its queue hold back a younger word: by what it will write, or by what it has yet to read (R42)? -/
def MemEntry.holds (e : MemEntry) (u : Use) : Bool :=
  u.meets (memDst e.op) || e.reads.any (fun d => u.writes.contains d) || e.latches.contains u.wlatch

/-- Is a register still owed by an engine whose answer has no cycle yet? -/
def Quad.owesEngine (q : Quad) (u : Use) : Bool := q.owed.any (fun o => u.meets (o.dst, o.latch))

/-- Is a register still owed by an engine, or by a memory entry that waits in its queue, or has such an entry yet to read it? -/
def Quad.owesMem (q : Quad) (u : Use) : Bool := q.owesEngine u || q.memQ.any (fun e => e.holds u)

/-- The same for a queued word, which waits for the older ones only: those before number `n` (R42). -/
def Quad.owesMemTo (q : Quad) (n : Nat) (u : Use) : Bool := q.owesEngine u || q.memQ.any (fun e => decide (e.seq < n) && e.holds u)

/-- Does a queued vector word write what `u` reads, or read or write what `u` writes? -/
def VecEntry.holds (e : VecEntry) (u : Use) : Bool :=
  e.writes.any (fun d => u.reads.contains d || u.writes.contains d) || e.reads.any (fun d => u.writes.contains d)
    || (decide (e.wlatch < 4) && (u.latches.contains e.wlatch || decide (u.wlatch = e.wlatch)))
    || e.latches.contains u.wlatch

/-- Does a word still waiting in the vector queue hold back a younger one? -/
def Quad.owesVec (q : Quad) (u : Use) : Bool := q.vecQ.any (fun e => e.holds u)

def Quad.owes (q : Quad) (u : Use) : Bool := q.owesMem u || q.owesVec u

/-- The first words after a return start the clocks of the snapshot entries (R77): the multiply entries at the first word, the
vector entries at the first vector word. -/
def Quad.thaw (q : Quad) (eng t : Nat) : Quad :=
  if !q.snapBack then q
  else
    let go := q.snap.filter (fun p => decide (p.eng = 0) || decide (eng = 2))
    { q with
      pend := q.pend ++ go.map (fun p => { p with eng := p.eng + (if p.eng = 0 then 4 else 3), land := t + p.land })
      snap := q.snap.filter (fun p => !(decide (p.eng = 0) || decide (eng = 2))) }

/-- A read by another engine makes a returned snapshot entry land at once (R77). -/
def Quad.landRead (q : Quad) (eng : Nat) (u : Use) : Quad :=
  let hit (p : Pend) : Bool := decide (3 < p.eng) && decide (engOf p.eng ≠ eng)
    && ((decide (p.dst ≠ .none) && u.reads.contains p.dst) || (decide (p.latch < 4) && u.latches.contains p.latch))
  let inSnap (p : Pend) : Bool := q.snapBack && decide (p.eng ≠ eng)
    && ((decide (p.dst ≠ .none) && u.reads.contains p.dst) || (decide (p.latch < 4) && u.latches.contains p.latch))
  (q.pend.filter hit ++ q.snap.filter inSnap).foldl Quad.land
    { q with pend := q.pend.filter (fun p => !hit p), snap := q.snap.filter (fun p => !inSnap p) }

/-- The cycle, its own or a later one, in which a word at the splitter may issue (R42): every result in flight of another engine that it needs has landed by then. -/
def Quad.readyAt (q : Quad) (u : Use) (eng : Nat := 0) : Nat := (q.landRead eng u).clear eng u q.cyc

/-- A word at the splitter issues (R39, R75): what has landed by then is in the registers, and the first word after a return starts the clocks of the multiply entries (R77). Log entry 93: R77 lets a READ by another engine land a returned snapshot entry at once; of a WRITE by another engine to the register of a
returned vector entry that no vector word has started yet the manual says nothing: the write is made at once, and the older entry lands over it later. -/
def Quad.begin (q : Quad) (u : Use) (eng : Nat := 0) : Quad :=
  ((q.landRead eng u).thaw 0 q.cyc).landDue q.cyc

/-- The scalar pipeline writes a register with latency 1: of a product landing in the same cycle the later word's value is
kept (R43). -/
def Quad.writeG (q : Quad) (k : Nat) (x : Word) : Quad :=
  let drop (p : Pend) : Pend :=
    if engOf p.eng = 0 ∧ p.dst = .g k ∧ p.land = q.cyc + 1 then { p with dst := .none } else p
  ({ q with pend := q.pend.map drop }).setG k x

/-! ### Moving to the next word: the loop end test (R97, R98) -/

/-- The advance of a nest: the lowest dimension that has not reached its last index, if any; else all are done. -/
def nestPos : List Nat → List Nat → Nat → Option Nat
  | b :: bs, i :: is, j => if i + 1 < b then some j else nestPos bs is (j + 1)
  | _, _, _ => none

/-- The amount by which a nest's address moves when dimension `j` steps (R97). -/
def nestDelta (bounds : List Nat) (strides : List Int) (j : Nat) : Int :=
  strides.getD j 0 - ((List.range j).map (fun i => (bounds.getD i 0 - 1 : Int) * strides.getD i 0)).foldl (· + ·) 0

/-- The indexes after dimension `j` steps; none steps when the nest is done. -/
def nestStep (idx : List Nat) (pos : Option Nat) : List Nat :=
  match pos with
  | none => idx.map (fun _ => 0)
  | some j => (List.range idx.length).map (fun i => if i < j then 0 else if i = j then idx.getD i 0 + 1 else idx.getD i 0)

/-- The consecutive registers that a LOOPN advances. -/
def Quad.bump (q : Quad) (first : Nat) (delta : Int) : Nat → Quad
  | 0 => q
  | n + 1 => (q.writeG (first + n) (q.gr (first + n) + BitVec.ofInt 64 delta)).bump first delta n

/-- The registers of an advance, read and written as those of a word (R42, R97). -/
def advUse (first cnt : Nat) : Use :=
  let l := (List.range cnt).map (fun i => Dst.g (first + i))
  { reads := l, writes := l }

/-- May the registers be advanced in cycle `t`: has every word of another engine, the end word itself included, read and written them (R42)? -/
def Quad.advFree (q : Quad) (t : Nat) (x : Nat × Nat × Int) : Bool :=
  !q.owes (advUse x.1 x.2.1) && decide (q.clear 0 (advUse x.1 x.2.1) t ≤ t)

/-- The registers advance. -/
def Quad.advanceNow (q : Quad) (x : Nat × Nat × Int) : Quad := (q.landRead 0 (advUse x.1 x.2.1)).bump x.1 x.2.2 x.2.1

/-- The registers of a LOOPN level advance at the end of its last word, or once the words of other engines let them (R42, R97). -/
def Quad.advance (q : Quad) (first : Nat) (delta : Int) (cnt : Nat) : Quad :=
  if cnt = 0 then q
  else if q.adv.isEmpty && q.advFree q.cyc (first, cnt, delta) then q.advanceNow (first, cnt, delta)
  else { q with adv := q.adv ++ [(first, cnt, delta)] }

/-- The end word has left its queue in its own cycle: its advances are in time. -/
def Quad.catchUp (q : Quad) : Quad :=
  if q.adv.all (q.advFree q.doneAt) then { (q.adv.foldl Quad.advanceNow { q with adv := [], cyc := q.doneAt }) with cyc := q.cyc } else q

/-- An advance that waits: no later word issues before it (R42). -/
def Quad.advTurn (q : Quad) : Quad :=
  match q.adv with
  | [] => q
  | x :: r =>
    if q.owes (advUse x.1 x.2.1) then q.poll
    else if q.cyc < q.readyAt (advUse x.1 x.2.1) then { q with cyc := q.readyAt (advUse x.1 x.2.1) }
    else
      let q := ({ q.landDue q.cyc with adv := r } : Quad).advanceNow x
      if r = [] then q.poll else q

/-- Does the word of `len` bytes at `a` hold the body's last address? -/
def atLast (a : Word) (len : Nat) (l : Loop) : Bool := decide ((l.last - a).toNat < len)

/-- The end test, innermost level first; the next word's address (R97). -/
def Quad.endTest (q : Quad) (a : Word) (len : Nat) : Nat → Quad
  | 0 => { q with pc := a + BitVec.ofNat 64 len }
  | fuel + 1 =>
    match q.loops with
    | [] => { q with pc := a + BitVec.ofNat 64 len }
    | l :: rest =>
      if !atLast a len l then { q with pc := a + BitVec.ofNat 64 len }
      else if l.nest then
        let st := l.strides.map (fun x => x.toInt)
        let pos := nestPos l.bounds l.idx 0
        let q := q.advance l.first (nestDelta l.bounds st (pos.getD l.k)) l.cnt
        match pos with
        | none => ({ q with loops := rest }).endTest a len fuel
        | some _ => { q with loops := { l with idx := nestStep l.idx pos } :: rest, pc := l.start }
      else if l.count ≤ 1 then ({ q with loops := rest }).endTest a len fuel
      else { q with loops := { l with count := l.count - 1 } :: rest, pc := l.start }

/-- The word at the splitter has executed: the wait is over, the loop test is made, the next word follows after `bubbles`. -/
def Quad.retire (q : Quad) (bubbles : Nat) : Quad :=
  let q := q.endTest q.pc q.wlen 5
  { q with cyc := q.cyc + 1 + bubbles, wait := none, inject := none, words := q.words + q.wlen / 4, doneAt := q.cyc }

/-- Is the address inside the body? -/
def inBody (l : Loop) (a : Word) : Bool := decide (l.start.toNat ≤ a.toNat) && decide (a.toNat ≤ l.last.toNat)

/-- Levels popped by a branch out of the innermost body (R98). Log entry 94: "every further level whose body does not contain the target" is read as the levels from the
innermost outwards up to the first that holds the target, which stays with all those below it. -/
def popOut (target : Word) : List Loop → List Loop
  | [] => []
  | l :: r => if inBody l target then l :: r else popOut target r

/-- Control passes to `target` after two bubbles (R75). -/
def Quad.goto (q : Quad) (target : Word) : Quad :=
  { q with pc := target, cyc := q.cyc + 3, wait := none, inject := none, words := q.words + q.wlen / 4, doneAt := q.cyc }

/-- A taken BR (R98): it pops the innermost level when it stands inside that body and leaves it, and every further level
whose body does not hold the target. -/
def Quad.branch (q : Quad) (target : Word) : Quad :=
  match q.loops with
  | [] => q.goto target
  | l :: _ =>
    if inBody l q.pc && !inBody l target then ({ q with loops := popOut target q.loops }).goto target
    else q.goto target

/-! ### The unit whose turn it is -/

def State.retire (s : State) (bubbles : Nat := 0) : State := s.updMe (fun q => q.retire bubbles)
def State.poll (s : State) : State := s.updMe Quad.poll

/-- A splitter word of engine `eng` runs `k` once no engine owes it a register; until then it stands: for a cycle where the result it needs has no cycle yet, else up to that
cycle (R42). -/
def State.issueOf (s : State) (eng : Nat) (u : Use) (k : State → State) : State :=
  if s.me.owes u then s.poll
  else if s.me.cyc < s.me.readyAt u eng then s.updMe (fun q => { q with cyc := q.readyAt u eng })
  else k (s.updMe (fun q => q.begin u eng))

/-- A word of the scalar pipeline (E = 0): products are exposed to it (R43). -/
def State.issue (s : State) (u : Use) (k : State → State) : State := s.issueOf 0 u k

/-- A word of E = 3, 4 or 5, whose registers the splitter reads and writes: it is of another engine than the scalar pipeline, and waits for products too
(R42, R200; log entry 96). -/
def State.steer (s : State) (u : Use) (k : State → State) : State := s.issueOf 7 u k

def State.taskAt (s : State) (c : Nat) : Nat := (s.core c).task.getD 0
def State.myTask (s : State) : Task := s.task (s.taskAt s.cur.core)

/-- An agent of a core's task (R102, R134): unit 0 a quadrant, 1 a copy channel, 2 a walk engine, 3 the matrix output, 4 near-bank. -/
def State.agentOf (s : State) (c unit sub : Nat) : Agent :=
  let t := s.task (s.taskAt c)
  let x := s.ctx t.ctx
  { unit := if isWalk c then 2 else unit, pkg := s.pkg, fac := facetOf c, core := idxInFacet c, sub := sub, unitCore := c,
    task := s.taskAt c, asid := x.asid, ns := s.worldOf (facetOf c) x.ns }

def State.agent (s : State) : Agent := s.agentOf s.cur.core 0 s.cur.quad

/-- The CYCLE count of a task on a core: the core cycles it has run, those of a freeze apart (R391, R404). -/
def State.cycleCount (s : State) (c : Nat) (now : Nat) : Word :=
  let t := s.task (s.taskAt c)
  let k := s.core c
  BitVec.ofNat 64 (t.cycles + ((if k.stands then k.stopAt else now) - t.cycleBase) - k.lost)

/-! ### Stop records and context-fatal faults (R401, R402) -/

/-- The 256 bytes of a stop record. -/
def stopBytes (pkg fac core k walk asid own first : Nat) (pc epc e0 e1 e2 e3 cycles : Word) (time n : Nat)
    (entries : List (Nat × Nat)) : List (BitVec 8) :=
  leBytes 8 (pkg * 2 ^ 58 + fac * 2 ^ 54 + core % 2048 * 2 ^ 43 + k * 2 ^ 40 + walk * 2 ^ 32 + asid) ++ leBytes 8 (own * 256 + first)
    ++ leBytes 8 pc.toNat ++ leBytes 8 epc.toNat ++ leBytes 8 e0.toNat ++ leBytes 8 e1.toNat ++ leBytes 8 e2.toNat
    ++ leBytes 8 e3.toNat ++ leBytes 8 cycles.toNat ++ leBytes 8 time ++ leBytes 8 n
    ++ ((List.range 10).flatMap (fun i => match entries[i]? with
        | some (p, a) => leBytes 8 p ++ leBytes 8 a
        | none => leBytes 16 0))
    ++ leBytes 8 0

/-- A stop record is written; a write that fails sets STOPLOST (R402). -/
def State.putStop (s : State) (cx u : Nat) (b : List (BitVec 8)) : State :=
  let x := s.ctx cx
  let a := x.stopbase + BitVec.ofNat 64 (256 * u)
  let r := s.write (homeAgent s (homeOf a) x.asid x.ns) a b
  match r.res with
  | .ok _ => r.st
  | _ => r.st.updCtx cx (fun x => { x with stoplost := true })

/-- The pattern of an instruction in the layout of R53. -/
def patternOf (i : Instr) : Nat :=
  match encode i with
  | [w] => w
  | [p, w] => p + 2 ^ 32 * w
  | _ => 0

/-- What the faulting quadrant's record reports in place of its CSRs: unit, cause, EPC and EINFO. -/
structure Report where
  core : Nat
  k : Nat
  cause : Nat
  epc : Word
  e0 : Word
  e1 : Word
  e2 : Word
  e3 : Word
  useInfo : Bool

/-- The record of an engine of a core (R402): what stands for its PC, and its entries. -/
def State.stopEngine (s : State) (cx : Nat) (r : Report) (c u progress : Nat) (l : List (Nat × Nat)) : State :=
  let x := s.ctx cx
  s.putStop cx (8 * c + u) (stopBytes s.pkg (facetOf c) c u 0 x.asid (if r.core = c ∧ r.k = u then r.cause else 0) x.firstCause (BitVec.ofNat 64 progress) 0 0 0 0 0
    (s.cycleCount c s.cycle) s.time l.length l)

/-- The copies of a context on a core. -/
def State.jobsOfCtx (s : State) (cx c : Nat) : List Job :=
  (List.range 8).flatMap (fun ch => (((s.core c).chans.get {} ch).q).filter (fun j => decide ((s.task j.task).ctx = cx)))

/-- The record of the copy engine. -/
def State.stopCopy (s : State) (cx : Nat) (r : Report) (c : Nat) : State :=
  let jobs := s.jobsOfCtx cx c
  s.stopEngine cx r c 5 (jobs.headD { kind := .copy }).done (jobs.map (fun j => (j.pattern, j.wordAt.toNat)))

/-- The matrix commands of a core, those that run first; and the near-bank command among those that run, or at the head. -/
def Core.commands (k : Core) : List (Nat × Nat) := (k.mrun.map (·.cmd) ++ k.mq).map (fun m => (patternOf m.word, m.wordAt.toNat))
def isMnb : Instr → Bool
  | .mnb _ _ _ => true
  | _ => false
def Core.nearBank (k : Core) : Option (Nat × MCmd) :=
  ((k.mrun.find? (fun r => isMnb r.cmd.word)).map (fun r => (r.row, r.cmd))).or ((k.mq.head?.filter (fun m => isMnb m.word)).map (fun m => (m.row, m)))

/-- The records of every unit of one core that runs the context (R402). -/
def State.stopCore (s : State) (cx : Nat) (r : Report) (c : Nat) : State :=
  let x := s.ctx cx
  let k := s.core c
  let cyc := s.cycleCount c s.cycle
  let own (u : Nat) : Nat := if r.core = c ∧ r.k = u then r.cause else 0
  let walkNo := if isWalk c then idxInFacet c else 0
  let coreNo := if isWalk c then 0 else c
  let rec1 (s : State) (u : Nat) : State :=
    let q := k.quad u
    let mine := decide (r.core = c) && decide (r.k = u) && r.useInfo
    let no := if isWalk c then 12288 + 18 * facetOf c + idxInFacet c else 8 * c + u
    s.putStop cx no (stopBytes s.pkg (facetOf c) coreNo u walkNo x.asid (own u) x.firstCause q.pc
      (if mine then r.epc else q.epc) (if mine then r.e0 else q.einf 0) (if mine then r.e1 else q.einf 1)
      (if mine then r.e2 else q.einf 2) (if mine then r.e3 else q.einf 3) cyc s.time
      (q.memImg.length + q.memQ.length + q.vecImg.length + q.vecQ.length)
      ((q.memImg ++ q.memQ).map (fun e => (e.pat, e.wordAt.toNat)) ++ (q.vecImg ++ q.vecQ).map (fun e => (patternOf e.word, e.wordAt.toNat))))
  if isWalk c then rec1 s 0
  else
    let s := ((List.range 4).filter (fun u => !(k.quad u).idle)).foldl rec1 s
    let s := (s.stopEngine cx r c 4 k.prog1 k.commands).stopCopy cx r c
    match k.nearBank with
    | some (row, m) => s.stopEngine cx r c 6 row [(patternOf m.word, m.wordAt.toNat)]
    | none => s

/-- A core without a task: quadrants idle, engines empty; the tag table, the dictionary RAM and the error count stay, and so do copies of tasks
that are away (R317). -/
def Core.vacate (k : Core) (now : Nat) : Core :=
  { task := none, preload := k.preload, banks := k.banks, tags := k.tags, dict := k.dict, dictPrev := k.dictPrev,
    ecccnt := k.ecccnt, eccFreeze := k.eccFreeze, frozen := k.frozen, stopAt := k.stopAt, dbgAt := k.dbgAt, lastKernel := k.lastKernel, freeAt := now, epoch := k.epoch, epochDue := k.epochDue,
    chans := k.chans, issue := k.issue, burst := k.burst }

/-- Banks that a task holds, parks or pins on a core return to the pool (R312, R313). -/
def Core.releaseBanks (k : Core) (t : Nat) : Core :=
  { k with banks := (List.range 8).foldl (fun b i => if (b.get {} i).task = t then b.set {} i {} else b) k.banks }

/-- A channel without the jobs of a task; a chain at the head takes its records with it. -/
def Chan.without (x : Chan) (t : Nat) : Chan :=
  let mine (j : Job) : Bool := decide (j.task = t)
  if x.q.head?.any mine then { q := x.q.filter (fun j => !mine j), park := x.park } else { x with q := x.q.filter (fun j => !mine j) }

/-- The copy engine without the jobs of a task. -/
def Core.dropJobs (k : Core) (t : Nat) : Core :=
  { k with chans := k.chans.keys.foldl (fun m ch => m.set {} ch ((m.get {} ch).without t)) k.chans }

/-- Everything a task held returns: its cores, walk engines, banks everywhere, and frames (R312, R313, R352). -/
def State.freeTask (s : State) (t : Nat) : State :=
  let x := s.task t
  let s := (s.cores.keys).foldl (fun s c =>
    s.updCore c (fun k =>
      let k := (k.releaseBanks t).dropJobs t
      let k := if k.preload = some t then { k with preload := none } else k
      if k.task = some t then { (k.vacate (s.cycle + 16)) with lastKernel := x.kernel } else k)) s
  { s.updCtx x.ctx (fun c => { c with frames := c.frames.filter (fun f => !x.frames.contains f) }) with
    watches := s.watches.filter (fun w => decide (w.who.1 ≠ t)) }

/-! ### Frames (R352, R353) -/

def State.frameAddr (s : State) (t i : Nat) : Word :=
  let x := s.task t
  let c := s.ctx x.ctx
  c.fpbase + BitVec.ofNat 64 (c.fpsz * x.frames.getD i 0)

/-- The context-save engine's agent for an address. -/
def State.saver (s : State) (t : Nat) (a : Word) : Agent :=
  let x := s.ctx (s.task t).ctx
  homeAgent s (homeOf a) x.asid x.ns

/-- Bytes of a frame: whether they could be written (R357). -/
def State.frameWrite (s : State) (t : Nat) (a : Word) (b : List (BitVec 8)) : State × Bool :=
  let r := s.write (s.saver t a) a b
  match r.res with
  | .ok _ => (r.st, true)
  | _ => (r.st, false)

/-- Banks of core c that a task parks, as a mask. -/
def Core.parkedMask (k : Core) (t : Nat) : Nat :=
  ((List.range 8).map (fun b => if (k.banks.get {} b) = { st := .parked, task := t } then 2 ^ b else 0)).foldl (· + ·) 0

/-- The header's first 64 bytes (R353), of the frame whose banks are those of core c and which was last saved from core `saved`. -/
def Task.header (x : Task) (lnum c saved parked : Nat) (inprog : Bool) : List (BitVec 8) :=
  leBytes 64 (x.tdesc.toNat * 2 ^ 448 + x.inst * 2 ^ 416 + x.node * 2 ^ 400 + lnum * 2 ^ 368 + x.tails.get 0 c * 2 ^ 360 + parked * 2 ^ 352
    + x.banks.get 0 c * 2 ^ 344 + x.cause * 2 ^ 336 + saved % 2048 * 2 ^ 325 + 4 * bit x.cerr + 2 * bit inprog + bit x.valid)

/-- The headers of a task's frames are brought up to date; false where one cannot be written. -/
def State.writeHeaders (s : State) (t : Nat) (inprog : Bool) : State × Bool :=
  let x := s.task t
  (List.range x.frames.length).foldl (fun (p : State × Bool) i =>
    let c := x.cores.getD i 0
    let r := p.1.frameWrite t (p.1.frameAddr t i) (x.header (p.1.launch x.launch).num c (x.savedFrom.getD i c) ((p.1.core c).parkedMask t) inprog)
    (r.1, p.2 && r.2)) (s, true)

/-- A task is killed (R313): its frame is invalid, its banks and cores are released, it is never counted as complete. -/
def State.killTask (s : State) (t : Nat) : State :=
  if (s.task t).st = .done ∨ (s.task t).st = .killed then s
  else
    let s := ((s.updTask t (fun x => { x with valid := false })).writeHeaders t false).1
    let s := s.freeTask t
    s.updTask t (fun x => { x with st := .killed, valid := false, cores := [], walks := [], frames := [], images := Tab.empty,
                                   waitFor := .none, stage := 0 })

/-- A context-fatal fault raises the halt line (R401): every unit of the context stops and writes its record, its tasks
are killed, the supervisor receives one event with the first cause. -/
def State.contextFatal (s : State) (cx : Nat) (r : Report) : State :=
  let s := s.updCtx cx (fun x => { x with firstCause := r.cause, halted := true })
  let mine := s.cores.keys.filter (fun c => match (s.core c).task with
    | some t => decide ((s.task t).ctx = cx)
    | none => false)
  let copies := s.cores.keys.filter (fun c => !mine.contains c && s.jobsOfCtx cx c ≠ [])
  let s := copies.foldl (fun s c => s.stopCopy cx r c) (mine.foldl (fun s c => s.stopCore cx r c) s)
  let ts := (s.tasks.cells.filter (fun c => decide (c.2.ctx = cx))).map Prod.fst
  (ts.foldl (fun s t => s.killTask t) s).event (.contextFatal cx r.cause)

/-! ### Taking an exception (R393) and returning from one (R394) -/

def Quad.settleList (q : Quad) (l : List Pend) : Quad := (sortPend l).foldl Quad.land q

/-- Entries of an earlier return land first (R77); the multiply unit's results in flight at a trap go to the snapshot buffer (R76). -/
def Quad.snapMultiply (q : Quad) : Quad :=
  let back (p : Pend) : Bool := decide (3 < p.eng)
  let q := if q.snapBack then ({ q with snap := [], snapBack := false, pend := q.pend.filter (fun p => !back p) }).settleList
      (q.snap ++ q.pend.filter back) else q
  let t := q.cyc
  let q := q.landDue t
  { q with
    snap := q.snap ++ ((q.pend.filter (fun p => decide (p.eng = 0))).map (fun (p : Pend) => { p with land := p.land - t }))
    pend := q.pend.filter (fun p => !decide (p.eng = 0)) }

/-- The vector unit's results in flight go to the snapshot buffer; offsets from the cycle after the last vector word (R76). -/
def Quad.snapVector (q : Quad) : Quad :=
  let q := q.landDue q.cyc
  { q with
    snap := q.snap ++ ((q.pend.filter (fun p => decide (p.eng = 2))).map (fun (p : Pend) => { p with land := p.land - q.vcyc }))
    pend := q.pend.filter (fun p => !decide (p.eng = 2)) }

/-- Does the head of the vector queue wait for a result that the snapshot buffer holds, or for an older entry of the memory queue image (R76)? -/
def Quad.vecHeld (q : Quad) : Bool :=
  match q.vecQ with
  | [] => true
  | e :: _ => q.snap.any (fun p => (decide (p.dst ≠ .none) && (e.reads.contains p.dst || e.writes.contains p.dst))
      || (decide (p.latch < 4) && (e.latches.contains p.latch || decide (e.wlatch = p.latch))))
      || q.memImg.any (fun m => decide (m.seq < e.seq) && m.holds { reads := e.reads, latches := e.latches, writes := e.writes, wlatch := e.wlatch })

/-- The quadrant enters its handler (R393): saved latches, cause, EPC and EINFO, in the handler at TRAPVEC; the vector words that have
not issued are the vector queue image. -/
def Quad.enterHandler (q : Quad) (cause : Nat) (epc e0 e1 e2 e3 : Word) : Quad :=
  let q := q.snapVector
  { q with
    lsave := q.b
    cause := BitVec.ofNat 64 cause
    epc := epc
    einfo := (((Tab.empty.set 0 0 e0).set 0 1 e1).set 0 2 e2).set 0 3 e3
    inh := true
    pc := q.trapvec
    vecImg := q.vecQ
    vecQ := []
    seqMark := q.seq
    advImg := q.adv
    adv := []
    trapWait := none
    wait := none
    ask := none
    answer := none
    got := []
    inject := none
    cond := none
    arrived := none
    cyc := q.cyc + 1 }

/-- UNCORR (R395, R405): context-fatal wherever it is met. -/
def causeUNCORR : Nat := 0x30

/-- TAKING AN EXCEPTION: a quadrant takes a precise trap. In the handler already, or without one, it is context-fatal; a walk
engine has none (R297); an uncorrectable error of DRAM that it has read is so too (R405). Vector words already queued issue first, up to one that waits for a result in the snapshot buffer (R76). -/
def State.takeTrap (s : State) (drain : Bool) (c qn cause : Nat) (epc e0 e1 e2 e3 : Word) : State :=
  let q := s.quadOf c qn
  let cx := (s.task (s.taskAt c)).ctx
  if cause = causeUNCORR then
    s.contextFatal cx { core := c, k := qn, cause := causeUNCORR, epc := 0, e0 := 0, e1 := 0, e2 := 0, e3 := 0, useInfo := false }
  else if q.inh then
    s.contextFatal cx { core := c, k := qn, cause := 0x33, epc := q.epc, e0 := BitVec.ofNat 64 cause, e1 := q.einf 1, e2 := q.einf 2,
                        e3 := q.einf 3, useInfo := true }
  else if q.trapvec = 0 ∨ isWalk c then
    s.contextFatal cx { core := c, k := qn, cause := cause, epc := epc, e0 := e0, e1 := e1, e2 := e2, e3 := e3, useInfo := true }
  else
    s.updQuad c qn (fun q =>
      let q := q.snapMultiply
      if !drain || q.vecHeld then q.enterHandler cause epc e0 e1 e2 e3
      else { q with trapWait := some { cause := cause, epc := some epc, e0 := e0, e1 := e1, e2 := e2, e3 := e3 } }.poll)

def State.trapAt (s : State) (c qn cause : Nat) (epc e0 e1 e2 e3 : Word) : State := s.takeTrap true c qn cause epc e0 e1 e2 e3

/-- A trap that waits for the vector words is tried again. -/
def State.trapTurn (s : State) : State :=
  s.updMe (fun q =>
    match q.trapWait with
    | none => q
    | some r => if q.vecHeld then q.enterHandler r.cause (r.epc.getD q.pc) r.e0 r.e1 r.e2 r.e3 else q.poll)

/-- A trap of the unit whose turn it is. -/
def State.trap (s : State) (cause : Nat) (epc e0 e1 e2 e3 : Word) : State :=
  s.trapAt s.cur.core s.cur.quad cause epc e0 e1 e2 e3

/-- Cause codes (R395). -/
def causeILL : Nat := 0x10
def causeDICTU : Nat := 0x11
def causeALIGN : Nat := 0x12
def causePROT : Nat := 0x13
def causeWAITX : Nat := 0x14
def causeSTAGE : Nat := 0x15
def causeBRKPT : Nat := 0x16
def causeWATCH : Nat := 0x17
def causeSWT : Nat := 0x18
def causeSEVER : Nat := 0x19
def causeBATCH : Nat := 0x1A
def causeFMT : Nat := 0x1C

def allOnes : Word := BitVec.allOnes 64

/-- The pattern at the current word, as EINFO1 of ILL reports it (R72): the expanded or displaced pattern, or the words in memory
as fetched. -/
def State.curPattern (s : State) : Word :=
  match s.me.inject with
  | some (p, _) => BitVec.ofNat 64 p
  | none => BitVec.ofNat 64 s.me.inst

/-- The dictionary index of the instruction at the splitter, if it has been expanded from a dictionary word. -/
def State.expandedFrom (s : State) : Option Nat :=
  match s.me.inject with
  | some (_, i) => i
  | none => none

/-- The dictionary index that EINFO2 of ILL reports, also of a dictionary word that the unit may not execute; all ones for a word that is no dictionary word (R72). -/
def State.curIndex (s : State) : Word :=
  match s.expandedFrom, s.me.inject with
  | some i, _ => BitVec.ofNat 64 i
  | none, none => if s.me.inst / 2 ^ 29 = 7 then BitVec.ofNat 64 (s.me.inst / 2 ^ 21 % 2 ^ 8) else allOnes
  | none, some _ => allOnes

/-- The illegal-encoding trap (R71, R72): precise at the word. An instruction expanded from a dictionary word that would raise another subcause reports 0x0A
(R54, R72; log entry 46). -/
def State.ill (s : State) (sub : Nat) : State :=
  s.trap causeILL s.me.pc (if s.expandedFrom.isNone then BitVec.ofNat 64 sub else 0x0A) s.curPattern s.curIndex 0

/-- Return from a handler (R394), as far as the quadrant itself goes: the queue images, latches, mode and skip bits, the snapshot
entries, and EPC or the displaced pattern. The words of the images follow the handler's in fetch order (R42). -/
def Quad.leave (q : Quad) : Quad :=
  let low := ((q.memQ ++ q.memImg).map (·.seq) ++ (q.vecQ ++ q.vecImg).map (·.seq)).foldl min q.seqMark
  let up (n : Nat) : Nat := if n < q.seqMark then q.seq + (n - low) else n
  { q with
    b := q.lsave
    pc := q.epc
    inject := if q.disp then some ((q.einf 1).toNat, none) else none
    memQ := (q.memQ ++ (if q.mskip then q.memImg.drop 1 else q.memImg)).map (fun e => { e with seq := up e.seq })
    memImg := []
    seq := q.seq + (q.seqMark - low)
    vecQ := (q.vecQ ++ q.vecImg).map (fun e => { e with seq := up e.seq })
    vecImg := []
    adv := q.advImg ++ q.adv
    advImg := []
    disp := false
    cskip := false
    xskip := false
    mskip := false
    inh := false
    snapBack := true
    wait := none
    words := q.words + q.wlen / 4
    cyc := q.cyc + 3 }

/-! ### Waits (R288) -/

/-- The wait that the word at the splitter stands in, from its issue on, with what WAITX reports. `limit` counts 64-cycle units, 0 for none. -/
def State.waitOf (s : State) (limit : Nat) (e0 e1 e2 : Word) : Wait :=
  { since := (s.me.wait.map (·.since)).getD s.me.cyc, upto := (s.me.wait.map (·.upto)).getD s.tokens, limit := 64 * limit
    e0 := e0, e1 := e1, e2 := e2, e3 := BitVec.ofNat 64 limit, ended := (s.me.wait.map (·.ended)).getD false }

/-- Has the limit of a wait run out? -/
def Wait.over (w : Wait) (now : Nat) : Bool := decide (w.limit ≠ 0) && decide (w.since + w.limit ≤ now)

/-- A wait stands for a cycle. -/
def State.stand (s : State) (limit : Nat) (e0 e1 e2 : Word) : State :=
  s.updMe (fun q => { q with wait := some (s.waitOf limit e0 e1 e2) }.poll)

/-- A wait whose condition fails: it stands for a cycle, or its limit has run out, and the step that follows takes WAITX (R251, R288, R385). -/
def State.hold (s : State) (limit : Nat) (e0 e1 e2 : Word) : State :=
  let w := s.waitOf limit e0 e1 e2
  if w.over s.me.cyc then
    { s.updMe (fun q => { q with wait := some w }) with agenda := s.agenda ++ [.waitLimitExpiry s.cur.core s.cur.quad] }
  else s.stand limit e0 e1 e2

/-- The end of a step: one that has met a cell beyond the stacks is a fault of the model, whatever it was. -/
def settled (s : State) : Host.Outcome State Fault Refusal :=
  match s.hwFault with
  | some f => .fault f
  | none => .next s

end Sys2Proof.Machine
end

