-- ==== Sys2Proof/Machine/Operands.lean ====
section
/-! DEFINITION. Every operand form: source selectors and destinations (R44, R45), guards (R48), captured nests (R94), and what
they make of a word's interlocks (R42). -/

namespace Sys2Proof.Machine

/-- A source selector: g0 to g47, or a latch (R44). -/
def Quad.src (q : Quad) (a : BitVec 6) : Word :=
  if a.toNat < 48 then q.gr a.toNat else q.br (a.toNat - 48)

/-- The registers and latches that source selectors read. -/
def srcRegs (l : List (BitVec 6)) : List Dst :=
  l.filterMap (fun a => if 0 < a.toNat ∧ a.toNat < 48 then some (.g a.toNat) else none)
def srcLatches (l : List (BitVec 6)) : List Nat :=
  l.filterMap (fun a => if 48 ≤ a.toNat ∧ a.toNat < 52 then some (a.toNat - 48) else none)

/-- The g register that a destination field names; none for g0 (R45). -/
def gDst (d : BitVec 6) : Dst := if d = 0 then .none else .g d.toNat
def gDsts (d : BitVec 6) : List Dst := if d = 0 then [] else [.g d.toNat]

/-- The interlocks of a word that reads selectors `l` and writes `d` and latch `wl` (4 for none). -/
def useOf (l : List (BitVec 6)) (d : BitVec 6) (wl : Nat) : Use :=
  { reads := srcRegs l, latches := srcLatches l, writes := gDsts d, wlatch := wl }

/-- A guard: bit 3 the sense, bits 2:0 the predicate (R48). -/
def Quad.guard (q : Quad) (g : BitVec 4) : Bool := q.pr (g.toNat % 8) != decide (8 ≤ g.toNat)

/-- A branch's guard, its predicate and sense in fields of their own (R48, R58). -/
def Quad.branchGuard (q : Quad) (p : BitVec 3) (sense : BitVec 1) : Bool := q.pr p.toNat != decide (sense = 1)

/-- The address of a 19-bit word offset from the current word (R58). -/
def Quad.relative (q : Quad) (o : BitVec 19) : Word := q.pc + (sext64 o <<< 2)

/-- The dimensions n0 to nk as they stand (R94). -/
def Quad.dims (q : Quad) (k : Nat) : List Dim :=
  (List.range (k + 1)).map (fun j => { bound := (q.nest j).bound.toNat, stride := (q.nest j).stride.toInt })

/-- The product of the bounds. -/
def dimProduct (l : List Dim) : Nat := (l.map (·.bound)).foldl (· * ·) 1

/-- The offset of step `t` of a nest walk, dimension 0 innermost (R97, R205, R243). -/
def dimOffset : List Dim → Nat → Int
  | [], _ => 0
  | x :: r, t => if x.bound = 0 then 0 else (t % x.bound : Int) * x.stride + dimOffset r (t / x.bound)

end Sys2Proof.Machine
end

