-- ==== Sys2Proof/Machine/Flags.lean ====
section
/-! DEFINITION. Every flag computation: the relations of CMP and CMPI (R87), truth tables (R88), the images of STATUS, RNDMODE
and MSTATUS (R392, R149, R155, R217), the member image (R291), and the sticky conversion flags (R155, R156). -/

namespace Sys2Proof.Machine

/-- The relation of a condition code between a and y (R87). -/
def condHolds (c : Nat) (a y : Word) : Bool :=
  match c with
  | 0 => a == y
  | 1 => a != y
  | 2 => a.slt y
  | 3 => a.sle y
  | 4 => a.ult y
  | 5 => a.ule y
  | 6 => (a &&& y) != 0
  | _ => (a &&& y) == 0

/-- A truth table of two inputs: bit a*2+b (R88, R178). -/
def truth (tt : BitVec 4) (a b : Bool) : Bool := tt.getLsbD (2 * bit a + bit b)

/-- STATUS (R392): the world and the grant are those of the context. -/
def State.statusOf (s : State) (c qn : Nat) : Word :=
  let q := s.quadOf c qn
  let x := s.ctx (s.task (s.taskAt c)).ctx
  BitVec.ofNat 64 (bit q.inh + 2 * bit x.svg + 4 * bit x.ns + 16 * bit q.mskip + 32 * bit q.xskip + 64 * bit q.cskip
    + 128 * bit q.disp)

/-- RNDMODE (R149). -/
def Quad.rndmode (q : Quad) : Word := BitVec.ofNat 64 (q.rmode % 8 + 64 * bit q.cvnanz + 128 * bit q.cvsat)

/-- The commands in the queue, 0 to 16: those that have not started, and not the reload of a restore (R196, R217, R228). -/
def Core.queued (k : Core) : Nat := (k.mq.filter (fun m => !m.took && !m.reload)).length

/-- MSTATUS with its STATE field (R155, R217). -/
def Core.mstatus (k : Core) : Word :=
  BitVec.ofNat 64 (bit k.satov + 2 * bit k.cvnanz + 4 * bit k.cvsat + 2 ^ 17 * (k.wb0.k - 1) + 2 ^ 24 * k.wb0.fmt
    + 2 ^ 29 * (k.wb1.k - 1) + 2 ^ 36 * k.wb1.fmt + 2 ^ 41 * bit k.abuf + 2 ^ 42 * bit k.halt + 2 ^ 43 * k.queued)

/-- The MEMBER image (R291). -/
def Member.image (m : Member) : Word :=
  BitVec.ofNat 64 (m.role + 2 ^ 6 * m.mnum + 2 ^ 12 * m.midx + 2 ^ 18 * m.rsz + 2 ^ 24 * m.tsz)

/-- The reset contents of CQFMTk (R157). -/
def cqDefault (k : Nat) : Word := if k < 2 then 2 + 2 * 64 else 32 + 32 * 64
def Core.cqf (k : Core) (i : Nat) : Word := if (k.cqfmt.keys).contains i then k.cqfmt.get 0 i else cqDefault i
def Core.setCqf (k : Core) (i : Nat) (x : Word) : Core :=
  { k with cqfmt := if x = 0 then ⟨Tab.place (Tab.drop k.cqfmt.cells i) i x⟩ else k.cqfmt.set 0 i x }
/-- A write of CQFMTi by a quadrant: of those of one cycle, that of the highest-numbered quadrant stays (R160). -/
def Core.setCqfBy (k : Core) (now qn i : Nat) (x : Word) : Core :=
  let last := k.cqfBy.get 0 i
  if last / 4 = now + 1 ∧ qn < last % 4 then k else { k.setCqf i x with cqfBy := k.cqfBy.set 0 i (4 * (now + 1) + qn) }
def Core.cqSrc (k : Core) (i : Nat) : Nat := (k.cqf i).toNat % 64
def Core.cqSink (k : Core) (i : Nat) : Nat := (k.cqf i).toNat / 64 % 64
def Core.cqMode (k : Core) (i : Nat) : Nat := (k.cqf i).toNat / 2 ^ 12 % 8

/-- When a flag was last set, one more than the cycle. -/
def stamp (old now : Nat) (set : Bool) : Nat := if set then now + 1 else old

/-- A W1C write in cycle `now`: a flag set in the same cycle is left set (R156). -/
def w1c (flag : Bool) (setAt now : Nat) (one : Bool) : Bool := flag && (!one || decide (setAt = now + 1))

/-- Conversion flags of an engine stick (R155, R156). -/
def Core.flag (k : Core) (now : Nat) (sat nan : Bool) : Core :=
  { k with cvsat := k.cvsat || sat, cvnanz := k.cvnanz || nan, cvsatAt := stamp k.cvsatAt now sat, cvnanzAt := stamp k.cvnanzAt now nan }
def Quad.flag (q : Quad) (now : Nat) (sat nan : Bool) : Quad :=
  { q with cvsat := q.cvsat || sat, cvnanz := q.cvnanz || nan, cvsatAt := stamp q.cvsatAt now sat, cvnanzAt := stamp q.cvnanzAt now nan }

/-- SATOV of the accumulators (R155). -/
def Core.overflow (k : Core) (now : Nat) (o : Bool) : Core := { k with satov := k.satov || o, satovAt := stamp k.satovAt now o }

/-- Quadrant u has been served by a shared queue or a semaphore (R23, R41). -/
def Core.serve (k : Core) (u : Nat) : Core := { k with order := k.order.filter (fun x => decide (x ≠ u)) ++ [u] }

/-- Marker formats need feature 1 (R414). -/
def isMarker (f : Nat) : Bool := f = 3 || f = 7 || f = 12 || f = 14 || f = 29 || f = 30

end Sys2Proof.Machine
end

