-- ==== Sys2Proof/Machine/Scalar.lean ====
section
/-! DEFINITION. The meanings of the integer words of E = 0 (R79 to R90): arithmetic, constants, addresses, compares, predicates
and SEL. -/

namespace Sys2Proof.Machine

/-! ### Shared forms -/

/-- The destination in force: with n = 1 the register write is suppressed (R45). -/
def dstOf (d : BitVec 6) (n : BitVec 1) : BitVec 6 := if n = 1 then 0 else d

/-- A one-cycle word (R75): it reads sources `l`, its result goes to `d` and to b0 (R46). -/
def State.alu (s : State) (l : List (BitVec 6)) (d : BitVec 6) (f : Quad → Word) : State :=
  s.issue (useOf l d 0) (fun s => s.updMe (fun q => ((q.writeG d.toNat (f q)).setB 0 (f q)).retire 0))

/-- A two-operand word of the RR layout. -/
def State.aluRR (s : State) (d : BitVec 6) (n : BitVec 1) (a b : BitVec 6) (f : Word → Word → Word) : State :=
  s.alu [a, b] (dstOf d n) (fun q => f (q.src a) (q.src b))

/-- A word of the RI layout; the immediate is sign-extended (R79). -/
def State.aluRI (s : State) (d : BitVec 6) (n : BitVec 1) (a : BitVec 6) (i : Word) (f : Word → Word → Word) : State :=
  s.alu [a] (dstOf d n) (fun q => f (q.src a) i)

/-- A word of the multiply unit: its result lands three cycles after its issue, in `d` and b1 (R43, R46, R75). -/
def State.mulUnit (s : State) (d : BitVec 6) (n : BitVec 1) (a b : BitVec 6) (f : Word → Word → Word) : State :=
  s.issue (useOf [a, b] (dstOf d n) 1) (fun s => s.updMe (fun q =>
    ({ q with pend := q.pend ++ [({ eng := 0, dst := gDst (dstOf d n), latch := 1, val := (f (q.src a) (q.src b)).toNat, mask := 0,
                                    land := q.cyc + 3 } : Pend)] }).retire 0))

/-! ### Word arithmetic -/

/-- ROL (R79). -/
def rolWord (a b : Word) : Word := a.rotateLeft (b.toNat % 64)

/-- MULH and MULHN (R79): the high half of the 128-bit product. -/
def mulHigh (a b : Word) : Word := (a.signExtend 128 * b.signExtend 128).extractLsb' 64 64
def mulHighN (a b : Word) : Word := (a.setWidth 128 * b.setWidth 128).extractLsb' 64 64

/-- DIV, DIVN, REM, REMN (R81). The most negative number divided by -1 gives itself, remainder 0, as the 64-bit signed operations do. -/
def divWord (a b : Word) : Word := if b = 0 then allOnes else a.sdiv b
def divWordN (a b : Word) : Word := if b = 0 then allOnes else a / b
def remWord (a b : Word) : Word := if b = 0 then a else a.srem b
def remWordN (a b : Word) : Word := if b = 0 then a else a % b

/-- CLZ and POPC (R79). -/
def clzWord (a : Word) : Word := if a = 0 then 64 else BitVec.ofNat 64 (63 - a.toNat.log2)
def popcWord (a : Word) : Word := BitVec.ofNat 64 ((List.range 64).countP (fun i => a.getLsbD i))

/-- EXT (R82): the width by f[1:0], signed where f[2] = 1. -/
def extWord (f : BitVec 4) (a : Word) : Word :=
  let w := if f.toNat % 4 = 0 then 8 else if f.toNat % 4 = 1 then 16 else 32
  if f.getLsbD 2 then sext64 (a.setWidth w) else zext64 (a.setWidth w)

/-- HSET and HGET (R86): the low bit and the width of the address field. -/
def fieldLow (f : BitVec 4) : Nat := if f.toNat = 0 then 58 else 54
def fieldWidth (f : BitVec 4) : Nat := if f.toNat = 0 then 6 else if f.toNat = 1 then 4 else 10
def hsetWord (f : BitVec 4) (a b : Word) : Word := putField a (fieldLow f) (fieldWidth f) b.toNat
def hgetWord (f : BitVec 4) (a : Word) : Word := BitVec.ofNat 64 (bits a.toNat (fieldLow f) (fieldWidth f))

/-! ### Integer words (R79 to R82) -/

/-- NOP (R64): nothing but its issue slot. -/
def execNop (s : State) : Host.Outcome State Fault Refusal := .next (s.issue {} (fun s => s.retire))

def execAdd (d : BitVec 6) (n : BitVec 1) (a b : BitVec 6) (s : State) : Host.Outcome State Fault Refusal :=
  .next (s.aluRR d n a b (fun x y => x + y))
def execAddi (d : BitVec 6) (n : BitVec 1) (a : BitVec 6) (i : BitVec 10) (s : State) : Host.Outcome State Fault Refusal :=
  .next (s.aluRI d n a (sext64 i) (fun x y => x + y))
def execSub (d : BitVec 6) (n : BitVec 1) (a b : BitVec 6) (s : State) : Host.Outcome State Fault Refusal :=
  .next (s.aluRR d n a b (fun x y => x - y))
def execAnd (d : BitVec 6) (n : BitVec 1) (a b : BitVec 6) (s : State) : Host.Outcome State Fault Refusal :=
  .next (s.aluRR d n a b (fun x y => x &&& y))
def execAndi (d : BitVec 6) (n : BitVec 1) (a : BitVec 6) (i : BitVec 10) (s : State) : Host.Outcome State Fault Refusal :=
  .next (s.aluRI d n a (sext64 i) (fun x y => x &&& y))
def execOr (d : BitVec 6) (n : BitVec 1) (a b : BitVec 6) (s : State) : Host.Outcome State Fault Refusal :=
  .next (s.aluRR d n a b (fun x y => x ||| y))
def execOri (d : BitVec 6) (n : BitVec 1) (a : BitVec 6) (i : BitVec 10) (s : State) : Host.Outcome State Fault Refusal :=
  .next (s.aluRI d n a (sext64 i) (fun x y => x ||| y))
def execXor (d : BitVec 6) (n : BitVec 1) (a b : BitVec 6) (s : State) : Host.Outcome State Fault Refusal :=
  .next (s.aluRR d n a b (fun x y => x ^^^ y))
def execXori (d : BitVec 6) (n : BitVec 1) (a : BitVec 6) (i : BitVec 10) (s : State) : Host.Outcome State Fault Refusal :=
  .next (s.aluRI d n a (sext64 i) (fun x y => x ^^^ y))
def execAndn (d : BitVec 6) (n : BitVec 1) (a b : BitVec 6) (s : State) : Host.Outcome State Fault Refusal :=
  .next (s.aluRR d n a b (fun x y => x &&& ~~~y))

/-- Shifts use the six low bits of the count (R80). -/
def execShl (d : BitVec 6) (n : BitVec 1) (a b : BitVec 6) (s : State) : Host.Outcome State Fault Refusal :=
  .next (s.aluRR d n a b (fun x y => x <<< (y.toNat % 64)))
def execShli (d : BitVec 6) (n : BitVec 1) (a : BitVec 6) (i : BitVec 6) (s : State) : Host.Outcome State Fault Refusal :=
  .next (s.aluRI d n a (zext64 i) (fun x y => x <<< (y.toNat % 64)))
def execShr (d : BitVec 6) (n : BitVec 1) (a b : BitVec 6) (s : State) : Host.Outcome State Fault Refusal :=
  .next (s.aluRR d n a b (fun x y => x >>> (y.toNat % 64)))
def execShri (d : BitVec 6) (n : BitVec 1) (a : BitVec 6) (i : BitVec 6) (s : State) : Host.Outcome State Fault Refusal :=
  .next (s.aluRI d n a (zext64 i) (fun x y => x >>> (y.toNat % 64)))
def execSar (d : BitVec 6) (n : BitVec 1) (a b : BitVec 6) (s : State) : Host.Outcome State Fault Refusal :=
  .next (s.aluRR d n a b (fun x y => x.sshiftRight (y.toNat % 64)))
def execSari (d : BitVec 6) (n : BitVec 1) (a : BitVec 6) (i : BitVec 6) (s : State) : Host.Outcome State Fault Refusal :=
  .next (s.aluRI d n a (zext64 i) (fun x y => x.sshiftRight (y.toNat % 64)))
def execRol (d : BitVec 6) (n : BitVec 1) (a b : BitVec 6) (s : State) : Host.Outcome State Fault Refusal :=
  .next (s.aluRR d n a b rolWord)

def execMul (d : BitVec 6) (n : BitVec 1) (a b : BitVec 6) (s : State) : Host.Outcome State Fault Refusal :=
  .next (s.mulUnit d n a b (fun x y => x * y))
def execMulh (d : BitVec 6) (n : BitVec 1) (a b : BitVec 6) (s : State) : Host.Outcome State Fault Refusal :=
  .next (s.mulUnit d n a b mulHigh)
def execMulhn (d : BitVec 6) (n : BitVec 1) (a b : BitVec 6) (s : State) : Host.Outcome State Fault Refusal :=
  .next (s.mulUnit d n a b mulHighN)
def execDiv (d : BitVec 6) (n : BitVec 1) (a b : BitVec 6) (s : State) : Host.Outcome State Fault Refusal :=
  .next (s.mulUnit d n a b divWord)
def execDivn (d : BitVec 6) (n : BitVec 1) (a b : BitVec 6) (s : State) : Host.Outcome State Fault Refusal :=
  .next (s.mulUnit d n a b divWordN)
def execRem (d : BitVec 6) (n : BitVec 1) (a b : BitVec 6) (s : State) : Host.Outcome State Fault Refusal :=
  .next (s.mulUnit d n a b remWord)
def execRemn (d : BitVec 6) (n : BitVec 1) (a b : BitVec 6) (s : State) : Host.Outcome State Fault Refusal :=
  .next (s.mulUnit d n a b remWordN)

def execMin (d : BitVec 6) (n : BitVec 1) (a b : BitVec 6) (s : State) : Host.Outcome State Fault Refusal :=
  .next (s.aluRR d n a b (fun x y => if x.sle y then x else y))
def execMax (d : BitVec 6) (n : BitVec 1) (a b : BitVec 6) (s : State) : Host.Outcome State Fault Refusal :=
  .next (s.aluRR d n a b (fun x y => if y.sle x then x else y))
def execMinn (d : BitVec 6) (n : BitVec 1) (a b : BitVec 6) (s : State) : Host.Outcome State Fault Refusal :=
  .next (s.aluRR d n a b (fun x y => if x.ule y then x else y))
def execMaxn (d : BitVec 6) (n : BitVec 1) (a b : BitVec 6) (s : State) : Host.Outcome State Fault Refusal :=
  .next (s.aluRR d n a b (fun x y => if y.ule x then x else y))

def execClz (d : BitVec 6) (n : BitVec 1) (a : BitVec 6) (s : State) : Host.Outcome State Fault Refusal :=
  .next (s.alu [a] (dstOf d n) (fun q => clzWord (q.src a)))
def execPopc (d : BitVec 6) (n : BitVec 1) (a : BitVec 6) (s : State) : Host.Outcome State Fault Refusal :=
  .next (s.alu [a] (dstOf d n) (fun q => popcWord (q.src a)))
def execExt (d : BitVec 6) (n : BitVec 1) (a : BitVec 6) (f : BitVec 4) (s : State) : Host.Outcome State Fault Refusal :=
  .next (s.alu [a] (dstOf d n) (fun q => extWord f (q.src a)))

/-! ### Constants and addresses (R83 to R86) -/

def execLi (d : BitVec 6) (i : BitVec 17) (s : State) : Host.Outcome State Fault Refusal :=
  .next (s.alu [] d (fun _ => sext64 i))
/-- LIH reads its destination (R83). -/
def execLih (d : BitVec 6) (i : BitVec 16) (s : State) : Host.Outcome State Fault Refusal :=
  .next (s.alu [d] d (fun q => (q.gr d.toNat <<< 16) ||| zext64 i))
def execLea (d : BitVec 6) (n : BitVec 1) (a b : BitVec 6) (f : BitVec 4) (s : State) : Host.Outcome State Fault Refusal :=
  .next (s.aluRR d n a b (fun x y => x + (y <<< f.toNat)))
def execHset (d : BitVec 6) (n : BitVec 1) (a b : BitVec 6) (f : BitVec 4) (s : State) : Host.Outcome State Fault Refusal :=
  .next (s.aluRR d n a b (hsetWord f))
def execHget (d : BitVec 6) (n : BitVec 1) (a : BitVec 6) (f : BitVec 4) (s : State) : Host.Outcome State Fault Refusal :=
  .next (s.alu [a] (dstOf d n) (fun q => hgetWord f (q.src a)))

/-! ### Compares, predicates, SEL (R87 to R90) -/

/-- What a word that reads `l` and writes the predicates `ps` reads and writes. -/
def predUse (l : List (BitVec 6)) (ps : List Nat) : Use :=
  { useOf l 0 4 with writes := (ps.filter (fun k => decide (k ≠ 0))).map Dst.p }

/-- A word that writes the predicates `ps`, or a nest register: no g register, no latch. -/
def State.predWord (s : State) (l : List (BitVec 6)) (ps : List Nat) (f : Quad → Quad) : State :=
  s.issue (predUse l ps) (fun s => s.updMe (fun q => (f q).retire 0))

def execCmp (c p : BitVec 3) (a b : BitVec 6) (s : State) : Host.Outcome State Fault Refusal :=
  .next (s.predWord [a, b] [p.toNat] (fun q => q.setP p.toNat (condHolds c.toNat (q.src a) (q.src b))))
def execCmpi (c p : BitVec 3) (a : BitVec 6) (i : BitVec 10) (s : State) : Host.Outcome State Fault Refusal :=
  .next (s.predWord [a] [p.toNat] (fun q => q.setP p.toNat (condHolds c.toNat (q.src a) (sext64 i))))
def execPlog (d : BitVec 3) (t : BitVec 4) (a b : BitVec 3) (s : State) : Host.Outcome State Fault Refusal :=
  .next (s.predWord [] [d.toNat] (fun q => q.setP d.toNat (truth t (q.pr a.toNat) (q.pr b.toNat))))
def execSel (d : BitVec 6) (n : BitVec 1) (a b : BitVec 6) (g : BitVec 4) (s : State) : Host.Outcome State Fault Refusal :=
  .next (s.alu [a, b] (dstOf d n) (fun q => if q.guard g then q.src a else q.src b))

/-- The eight predicates as a number; bit 0 reads 1 (R89). -/
def Quad.predImage (q : Quad) : Word := BitVec.ofNat 64 (((List.range 8).map (fun k => bit (q.pr k) * 2 ^ k)).foldl (· + ·) 0)
def Quad.setPreds (q : Quad) (x : Word) : Quad := (List.range 8).foldl (fun q k => q.setP k (x.getLsbD k)) q

def execMovpGet (d : BitVec 6) (s : State) : Host.Outcome State Fault Refusal :=
  .next (s.alu [] d (fun q => q.predImage))
def execMovpSet (a : BitVec 6) (s : State) : Host.Outcome State Fault Refusal :=
  .next (s.predWord [a] (List.range 8) (fun q => q.setPreds (q.src a)))

end Sys2Proof.Machine
end

