-- ==== Sys2Proof/Machine/Control.lean ====
section
/-! DEFINITION. The meanings of branches, calls, nest registers and hardware loops (R91 to R100). -/

namespace Sys2Proof.Machine

/-! ### Branches (R91, R92, R98) -/

/-- A taken BR passes control to its target; one whose guard fails takes its slot and the end test (R49, R98). -/
def execBr (p : BitVec 3) (sense : BitVec 1) (o : BitVec 19) (s : State) : Host.Outcome State Fault Refusal :=
  .next (s.issue {} (fun s => s.updMe (fun q =>
    if q.branchGuard p sense then q.branch (q.relative o) else q.retire 0)))

/-- A taken CALL or linking JR: the link goes to `d` and b0; as the last word of the innermost body it makes the end test in its
own execution, and the link is the address with which the test goes on. Log entry 30: where the inner of two levels that end at the word is done and the outer is not,
that is the outer level's start. -/
def Quad.linkTo (q : Quad) (d : Nat) (target : Word) : Quad :=
  let link := (q.endTest q.pc q.wlen 5).pc
  (((q.writeG d link).setB 0 link).endTest q.pc q.wlen 5).goto target

/-- CALL (R91); guarded off it writes nothing, and waits for no register (R49). -/
def execCall (p : BitVec 3) (sense : BitVec 1) (o : BitVec 19) (s : State) : Host.Outcome State Fault Refusal :=
  .next (if s.me.branchGuard p sense then s.issue { writes := [.g 47], wlatch := 0 } (fun s => s.updMe (fun q => q.linkTo 47 (q.relative o)))
    else s.issue {} (fun s => s.retire))

/-- JR (R92): the target is read before the link is written; a misaligned target traps and writes no link (R35). With d = 0 as the
last word of the innermost body it acts as a taken BR does (R98). -/
def execJr (d a : BitVec 6) (s : State) : Host.Outcome State Fault Refusal :=
  .next (s.issue (useOf [a] d (if d = 0 then 4 else 0)) (fun s =>
    let t := s.me.src a
    if t.toNat % 4 ≠ 0 then s.trap causeALIGN s.me.pc t 0 0 0
    else s.updMe (fun q =>
      if d ≠ 0 then q.linkTo d.toNat t
      else match q.loops with
        | l :: _ => if atLast q.pc q.wlen l then q.branch t else q.goto t
        | [] => q.goto t)))

/-! ### Nest registers (R93) -/

def execNsetReg (k : BitVec 3) (a b : BitVec 6) (s : State) : Host.Outcome State Fault Refusal :=
  .next (s.predWord [a, b] [] (fun q =>
    q.setNest k.toNat { bound := (q.src a).setWidth 24, stride := (q.src b).setWidth 32 }))
def execNsetImm (k : BitVec 3) (b : BitVec 9) (i : BitVec 10) (s : State) : Host.Outcome State Fault Refusal :=
  .next (s.predWord [] [] (fun q => q.setNest k.toNat { bound := b.setWidth 24, stride := i.signExtend 32 }))
def execNget (d : BitVec 6) (sel : BitVec 1) (k : BitVec 3) (s : State) : Host.Outcome State Fault Refusal :=
  .next (s.alu [] d (fun q => if sel = 0 then zext64 (q.nest k.toNat).bound else sext64 (q.nest k.toNat).stride))

/-! ### Hardware loops (R95 to R97) -/

/-- The level is pushed and the body entered, without a bubble. -/
def Quad.enter (q : Quad) (l : Loop) : Quad :=
  { q with loops := l :: q.loops, pc := q.pc + 4, cyc := q.cyc + 1, wait := none, inject := none, words := q.words + q.wlen / 4,
           doneAt := q.cyc }

/-- LOOP and LOOPN: the two checks in their order, then the body is entered, or skipped after two bubbles (R97). -/
def State.loopWord (s : State) (l : List (BitVec 6)) (e : Nat) (mk : Quad → Loop) (empty : Quad → Bool) : State :=
  s.issue (useOf l 0 4) (fun s =>
    let q := s.me
    let last := q.pc + BitVec.ofNat 64 (4 * e)
    if 4 ≤ q.loops.length then s.ill 0x01
    else if q.loops.head?.any (fun x => decide (x.last.toNat < last.toNat)) then s.ill 0x0B
    else if empty q then s.updMe (fun q => q.goto (last + 4))
    else s.updMe (fun q => q.enter (mk q)))

def countedLoop (q : Quad) (e count : Nat) : Loop :=
  { start := q.pc + 4, last := q.pc + BitVec.ofNat 64 (4 * e), nest := false, k := 0, first := 0, cnt := 0, count := count,
    bounds := [], strides := [], idx := [], buf := Tab.empty }

def execLoop (c : BitVec 12) (e : BitVec 10) (s : State) : Host.Outcome State Fault Refusal :=
  .next (s.loopWord [] e.toNat (fun q => countedLoop q e.toNat c.toNat) (fun _ => decide (c = 0)))
def execLoopReg (a : BitVec 6) (e : BitVec 10) (s : State) : Host.Outcome State Fault Refusal :=
  .next (s.loopWord [a] e.toNat (fun q => countedLoop q e.toNat (q.src a).toNat) (fun q => decide (q.src a = 0)))

/-- LOOPN (R96, R97): the bounds and strides are captured; the field holds end - 1. -/
def execLoopn (k : BitVec 3) (e : BitVec 6) (f : BitVec 6) (c : BitVec 3) (s : State) : Host.Outcome State Fault Refusal :=
  .next (s.loopWord [] (e.toNat + 1)
    (fun q =>
      let ns := (List.range (k.toNat + 1)).map q.nest
      { start := q.pc + 4, last := q.pc + BitVec.ofNat 64 (4 * (e.toNat + 1)), nest := true, k := k.toNat, first := f.toNat,
        cnt := c.toNat, count := 0, bounds := ns.map (fun x => x.bound.toNat), strides := ns.map (·.stride),
        idx := ns.map (fun _ => 0), buf := Tab.empty })
    (fun q => (List.range (k.toNat + 1)).any (fun j => decide ((q.nest j).bound = 0))))

end Sys2Proof.Machine
end

