-- ==== Sys2Proof/Machine/Memory.lean ====
section
/-! DEFINITION. The memory engine of a quadrant: its queues (R105 to R108), how an entry is performed at its home or sent to another
package (R109 to R118, R121 to R128, R456), remote-store batches (R381 to R386), and the memory traps (R124, R133). Each of the two queues is
performed in its order; an entry goes before an older one of the other queue where R105 to R107, R110, R118 and R456 let it (log entry 31). -/

namespace Sys2Proof.Machine

/-- What comes of an attempt to perform an entry. -/
inductive Perf where
  | done (val lat : Nat)
  | retry
  | pull (fac slot : Nat)
  | stall (fac link : Nat) (at_ : Word) (lane : Nat)
  | trap (cause : Nat) (e0 e1 e2 : Word)
  | page (fac off : Nat)
  | walk (till : Nat)
  deriving DecidableEq, Repr

/-- EINFO2 of a memory trap: ASID, kind, lane, and the link of a stall (R124, R264). -/
def memInfo (asid kind lane link : Nat) : Word := BitVec.ofNat 64 (asid + kind * 2 ^ 16 + lane * 2 ^ 20 + link * 2 ^ 32)

/-- The kinds of R124. -/
def kindCode : MemOp → Nat
  | .load .. => 0 | .store .. => 1 | .atomic .. => 2 | .vld _ => 3 | .vst .. => 4 | .vgath .. => 5 | .vscat .. => 6 | _ => 8

def isStoreKind (kind : Nat) : Bool := decide (kind = 1 ∨ kind = 4 ∨ kind = 6)

/-- The range of a watchpoint: its first byte and size (R133). -/
def watchRange (w : Word) : Nat × Nat :=
  let f := w.toNat / 8
  let t := ((List.range 61).find? (fun i => decide (f / 2 ^ i % 2 = 0))).getD 61
  let size := 2 ^ (t + 3)
  (w.toNat / size * size, size)

/-- The lowest watchpoint that an access of `n` bytes hits (R133; that EINFO1 names the lowest of several is a DESIGN CHOICE, log entry 128). -/
def Quad.watchHit (q : Quad) (a : Word) (n kind : Nat) : Option Nat :=
  (List.range 4).find? (fun k =>
    let w := q.watch.get 0 k
    let (lo, size) := watchRange w
    let on := if kind = 2 then w.toNat / 2 % 4 ≠ 0 else if isStoreKind kind then w.toNat / 4 % 2 = 1 else w.toNat / 2 % 2 = 1
    decide on && decide (a.toNat < lo + size) && decide (lo < a.toNat + n))

/-- Minimum cycles from the queue to a value (R126), with DRAM figures: which lines the home-side cache holds is not specified. The value of another package comes with its reply, whose
home and path have taken their time (R458). -/
def State.latency (s : State) (ag : Agent) (a : Word) : Nat :=
  let h := homeOf a
  if s.isRemote a then 0 else if h = 15 then 6 else if h = 14 then 40
  else if h < 8 then (if h = ag.fac then 180 else 300)
  else match (s.translate 8 ag.asid (offOf a) ag.ns .load).2 with
    | .at key => if key / 2 ^ 48 = ag.fac then 300 else 420
    | _ => 300

/-- A refusal at a home, as the attempt's outcome. -/
def perfOf (asid kind lane : Nat) (a : Word) : AccRes → Perf
  | .prot r at_ => .trap causePROT at_ (BitVec.ofNat 64 r) (memInfo asid kind lane 0)
  | .page f off => .page f off
  | .sever r l at_ => .trap causeSEVER at_ (BitVec.ofNat 64 r) (memInfo asid kind lane l)
  | .stall f l at_ => .stall f l at_ lane
  | .pull f k => .pull f k
  | .walk t => .walk t
  | .wait => .retry
  | .ok _ => .done 0 0
  | .remote => .trap causePROT a 4 (memInfo asid kind lane 0)

/-- What the answer to a refused request carries besides its status: the link and its facet, and the address (log entry 32). -/
def refusal (link fac : Nat) (at_ : Word) : List (BitVec 8) := leBytes 2 link ++ leBytes 1 fac ++ leBytes 8 at_.toNat

/-- A load request carries its size less one in AUX. A reply's status: 0 performed, 64 + r SEVER with reason r, 128 a present-later page, 48 an
uncorrectable error of the memory (R405), else the PROT reason (log entry 32). -/
def perfOfStatus (asid kind lane : Nat) (a : Word) (r : Reply) : Perf :=
  let at_ := if r.bytes.length = 11 then BitVec.ofNat 64 (payNat r.bytes 3 8) else a
  let link := payNat r.bytes 0 2
  if r.status = 128 then .page (homeOf a) (offOf a)
  else if r.status = 48 then .trap causeUNCORR at_ 0 (memInfo asid kind lane 0)
  else if 64 ≤ r.status then .trap causeSEVER at_ (BitVec.ofNat 64 (r.status - 64)) (memInfo asid kind lane link)
  else .trap causePROT at_ (BitVec.ofNat 64 r.status) (memInfo asid kind lane link ||| BitVec.ofNat 64 (payNat r.bytes 2 1 * 2 ^ 44))

def State.newToken (s : State) : State := { s with tokens := s.tokens + 1 }

/-- A non-posted request of the memory engine to another package (R367, R379, R458): sent once, then awaited. -/
def State.askMem (s : State) (ag : Agent) (ty : Nat) (a : Word) (aux kind lane : Nat) (payload : List (BitVec 8)) :
    State × Except Perf (List (BitVec 8)) :=
  let q := s.me
  match q.memTok with
  | none =>
    let p := s.packetTo ag ty a 0 aux s.tokens payload
    if s.unreachable (pkgOf a) then (s, .error (.trap causePROT a 15 (memInfo ag.asid kind lane 0)))
    else if s.canSend p then ((s.send p).newToken.updMe (fun q => { q with memTok := some s.tokens }), .error .retry)
    else (s, .error .retry)
  | some _ =>
    match q.memReply with
    | none => (s, .error .retry)
    | some r =>
      let s := s.updMe (fun q => { q with memTok := none, memReply := none })
      if r.status = 0 then (s, .ok r.bytes) else (s, .error (perfOfStatus ag.asid kind lane a r))

/-! ### The quadrant's own stores (R106) -/

/-- Runs of contiguous enabled lanes of a VST, lowest first: first lane and length (R369). -/
def laneRuns (mask : BitVec 32) : List (Nat × Nat) :=
  (List.range 32).filterMap (fun i =>
    if mask.getLsbD i && !(decide (0 < i) && mask.getLsbD (i - 1)) then
      some (i, ((List.range (32 - i)).takeWhile (fun j => mask.getLsbD (i + j))).length)
    else none)

/-- The address of a lane of a gather or scatter (R115). -/
def laneAddr (base : Word) (idx : VReg) (size l : Nat) : Word := base + (sext64 (lane idx l) <<< size)

/-- The bytes that a store writes, by runs. -/
def MemEntry.runs (e : MemEntry) (from_ : Nat) : List (Word × List (BitVec 8)) :=
  match e.op with
  | .store size v => [(e.addr, leBytes (2 ^ size) v.toNat)]
  | .vst v mask => (laneRuns mask).map (fun r =>
      (e.addr + BitVec.ofNat 64 (4 * r.1), (leBytes 128 v.toNat).drop (4 * r.1) |>.take (4 * r.2)))
  | .vscat v idx size => ((List.range 32).drop from_).map (fun l => (laneAddr e.addr idx size l, leBytes (2 ^ size) (lane v l).toNat))
  | _ => []

/-- The spans that an entry reads or writes. -/
def MemEntry.parts (e : MemEntry) (from_ : Nat) : List (Word × Nat) :=
  match e.op with
  | .load size .. => [(e.addr, 2 ^ size)]
  | .atomic .. => [(e.addr, 8)]
  | .vld _ => [(e.addr, 128)]
  | .vgath _ idx size _ => ((List.range 32).drop from_).map (fun l => (laneAddr e.addr idx size l, 2 ^ size))
  | _ => (e.runs from_).map (fun r => (r.1, r.2.length))

/-- Do two spans share a byte? -/
def meets (a b : Word × Nat) : Bool := decide (a.1.toNat < b.1.toNat + b.2) && decide (b.1.toNat < a.1.toNat + a.2)

/-- Does an entry go by lanes, whose progress PROG2 counts (R116)? -/
def MemEntry.byLanes (e : MemEntry) : Bool := match e.op with | .vgath .. | .vscat .. => true | _ => false

/-- The first lane of an entry that is yet to be performed: PROG2 counts those of the oldest entry that goes by lanes (R116). -/
def Quad.laneFrom (q : Quad) (e : MemEntry) : Nat := if (q.memQ.find? (·.byLanes)).any (fun x => decide (x.seq = e.seq)) then q.prog2 else 0

/-- The posted packets of a quadrant that have not been acknowledged. -/
def State.unackedOf (s : State) (ag : Agent) : List Packet :=
  let flow := ((s.pkg * 16 + ag.fac) * 256 + ag.core) * 16 + sunitOf ag
  (s.fabric.flows.filter (fun f => decide (f.1 / 64 = flow))).flatMap (fun f => f.2.unacked.map (·.p))

/-- The quadrant's own stores before number `n` that are not visible yet: those that wait in the store queue, and those to other packages that have not been
acknowledged (R103, R381). -/
def State.ownStores (s : State) (ag : Agent) (n : Nat) : List (List (Word × List (BitVec 8))) :=
  ((s.me.memQ.filter (fun e => decide (e.seq < n) && isStoreKind (kindCode e.op))).map (fun e => e.runs (s.me.laneFrom e)))
  ++ ((s.unackedOf ag).filter (fun p => decide (p.ty = 1))).map (fun p => [(BitVec.ofNat 64 (p.dpkg * 2 ^ 58 + p.home * 2 ^ 54 + p.offset), p.payload)])

/-- A byte as a store leaves it: of two lanes that name it the higher one's stays (R115). -/
def storedByte (st : List (Word × List (BitVec 8))) (a : Nat) : Option (BitVec 8) :=
  st.reverse.findSome? (fun r => if r.1.toNat ≤ a then r.2[a - r.1.toNat]? else none)

/-- What a load of `n` bytes meets among those stores: nothing; one store that holds all its bytes, which it takes from there; else it waits (R106). -/
def forwarded (stores : List (List (Word × List (BitVec 8)))) (a : Word) (n : Nat) : Except Unit (Option (List (BitVec 8))) :=
  match stores.filter (fun st => st.any (fun r => meets (r.1, r.2.length) (a, n))) with
  | [] => .ok none
  | [st] =>
    match (List.range n).mapM (fun i => storedByte st (a.toNat + i)) with
    | some b => .ok (some b)
    | none => .error ()
  | _ => .error ()

/-- Is a posted atomic of the quadrant to a home not acknowledged yet: a load of that home, behind it in the load queue, waits (R105)? -/
def State.atomicsTo (s : State) (ag : Agent) (a : Word) : Bool :=
  (s.unackedOf ag).any (fun p => decide (p.ty = 2) && decide (p.dpkg = pkgOf a) && decide (p.home = homeOf a))

/-- A read of `n` bytes by entry number `num` of the quadrant's memory engine. -/
def State.tryRead (s : State) (num : Nat) (ag : Agent) (kind lane : Nat) (a : Word) (n : Nat) : State × Except Perf (List (BitVec 8)) :=
  let chk := (s.acceptAll ag .load (spans a n)).1
  let watched : Except Perf (List (BitVec 8)) → Except Perf (List (BitVec 8)) := fun x =>
    match s.me.watchHit a n kind with
    | some k => .error (.trap causeWATCH a (BitVec.ofNat 64 k) (memInfo ag.asid kind lane 0))
    | none => x
  let own (k : State × Except Perf (List (BitVec 8))) : State × Except Perf (List (BitVec 8)) :=
    match watched (.ok []), forwarded (s.ownStores ag num) a n with
    | .error e, _ => (s, .error e)
    | _, .ok (some b) => (s, .ok b)
    | _, .error _ => (s, .error .retry)
    | _, .ok none => k
  match chk.res with
  | .ok _ =>
    let r := chk.st.read ag a n
    own (match r.res with
      | .ok b => (r.st, .ok b)
      | x => (r.st, .error (perfOf ag.asid kind lane a x)))
  | .remote =>
    if s.me.memTok.isSome then s.askMem ag 4 a (n - 1) kind lane []
    else if s.atomicsTo ag a then (s, .error .retry)
    else own (s.askMem ag 4 a (n - 1) kind lane [])
  | x => (chk.st, .error (perfOf ag.asid kind lane a x))

/-! ### Remote stores and their batches (R381, R382) -/

/-- Room for `k` packets of one flow to one package (R371, R373, R376). -/
def State.room (s : State) (p : Packet) (k : Nat) : Bool :=
  decide ((s.fabric.sendq.get [] p.dpkg).length + k ≤ 4096) && decide (s.fabric.backlog.get [] p.dpkg = []) && decide (s.unitsUsed p.dpkg + k ≤ s.quotaAt p.dpkg)
    && decide ((s.flow (flowKey p)).unacked.length + k ≤ 1024)

/-- A batch as BOPEN leaves it (R384). -/
def freshBatch : Batch :=
  { st := .open }

/-- A sent count stops at 0xFFFFF and then sets error class 15 (R382, R385). -/
def Batch.sent (b : Batch) (dst n : Nat) : Batch :=
  { b with
    peers := if b.peers.contains dst then b.peers else b.peers ++ [dst]
    issued := min 0xFFFFF (b.issued + n)
    err := if 0xFFFFF < b.issued + n then b.err ||| 2 ^ 15 else b.err }

/-- Posted packets with the current batch tag: all of them enter the send queue, or the entry waits. A closed batch is opened
first, a closing one awaited (R381). An unreachable peer is error class 5 of the batch (R379). -/
def State.post (s : State) (ag : Agent) (ty aux : Nat) (parts : List (Word × List (BitVec 8))) (n : Nat) : State × Perf :=
  match parts with
  | [] => (s, .done 0 0)
  | (a, _) :: _ =>
    let q := s.me
    let t := q.batchTag
    let b := q.batches.get {} t
    let dst := pkgOf a
    if b.st = .closing then (s, .retry)
    else
      let b := if b.st = .closed then freshBatch else b
      let keep (s : State) (b : Batch) : State := s.updMe (fun q => { q with batches := q.batches.set {} t b })
      if s.unreachable dst then
        let b := b.sent dst n
        (keep s { b with err := b.err ||| 2 ^ 5, badPeers := b.badPeers ||| 2 ^ dst }, .done 0 0)
      else
        let pk (x : Word × List (BitVec 8)) : Packet := s.packetTo ag ty x.1 t aux 0 x.2
        if s.room (pk (a, [])) parts.length then
          (keep ((parts.map pk).foldl State.send s) (b.sent dst n), .done 0 0)
        else (s, .retry)

/-- Is an earlier posted store of this quadrant, or posted atomic where `atomics` asks for it, still unacknowledged? (R107, R110, R118) -/
def State.postedLeft (s : State) (ag : Agent) (atomics : Bool) : Bool :=
  (s.unackedOf ag).any (fun p => decide (p.ty = 1) || (atomics && decide (p.ty = 2)))

/-- BCLOSE of one batch (R384): one summary request to each peer; `none` where one of them finds no room. -/
def State.closeBatch (s : State) (ag : Agent) (t : Nat) : Option State :=
  let b := s.me.batches.get {} t
  if b.st ≠ .open then some s
  else if b.peers = [] then some (s.updMe (fun q => { q with batches := q.batches.set {} t { b with st := .closed } }))
  else
    let live := b.peers.filter (fun p => !s.unreachable p)
    let dead := b.peers.filter (fun p => s.unreachable p)
    let pk (p : Nat) : Packet := { s.packetTo ag 10 (BitVec.ofNat 64 (p * 2 ^ 58)) t 0 s.tokens [] with dpkg := p }
    if live.all (fun p => s.room (pk p) 1) then
      let s := ((live.map pk).foldl State.send s).newToken
      let b := { b with
        st := if live = [] then .closed else .closing, waiting := live
        err := if dead = [] then b.err else b.err ||| 2 ^ 5
        badPeers := b.badPeers ||| (dead.map (fun p => 2 ^ p)).foldl (· ||| ·) 0 }
      some (s.updMe (fun q => { q with batches := q.batches.set {} t b }))
    else none

/-- The implicit close of R386: `none` while it waits; at its end the merged error (0 for none) and what EINFO1 and EINFO2 report. An error
that a save has kept is reported by the first one after it (R423). -/
def State.implicitClose (s : State) (ag : Agent) : State × Option (Nat × Nat × Nat) :=
  let q := s.me
  let opened := (List.range 4).filter (fun t =>
    let b := q.batches.get {} t
    decide (b.st = .open) && decide (b.peers ≠ []) && !q.implicit.contains t)
  match opened with
  | t :: _ =>
    match s.closeBatch ag t with
    | none => (s, none)
    | some s => (s.updMe (fun q => { q with implicit := q.implicit ++ [t] }), none)
  | [] =>
    if (List.range 4).any (fun t => decide ((q.batches.get {} t).st = .closing)) then (s, none)
    else
      let bs := q.implicit.map (fun t => (t, q.batches.get {} t))
      let bad := bs.filter (fun x => decide (x.2.err ≠ 0))
      let err : Nat := (bad.map (fun x => x.2.err)).foldl (· ||| ·) 0
      let tags := (bad.map (fun x => 2 ^ (16 + x.1))).foldl (· + ·) 0
      let peers := (bad.map (fun x => x.2.badPeers)).foldl (· ||| ·) 0
      let lost := (bad.map (fun x => x.2.issued - x.2.done)).foldl (· + ·) 0
      let old := q.kept.getD (0, 0, 0)
      let s := s.updMe (fun q => { q with
        implicit := [], kept := none, batches := q.implicit.foldl (fun m t => m.set {} t freshBatch) q.batches })
      (s, some ((if err = 0 then 0 else err + tags) ||| old.1, peers ||| old.2.1, lost + old.2.2))

/-- Repeats the implicit close while it makes progress by itself; at most four batches are closed. -/
def State.closing (s : State) (ag : Agent) : Nat → State × Option (Nat × Nat × Nat)
  | 0 => s.implicitClose ag
  | n + 1 =>
    match s.implicitClose ag with
    | (s', none) => if s'.me.implicit.length = s.me.implicit.length then (s', none) else s'.closing ag n
    | r => r

/-! ### Performing an entry -/

/-- A write by the memory engine: all its parts are admitted, then watched, then performed together; to another package they are posted. -/
def State.tryWrite (s : State) (ag : Agent) (kind lane : Nat) (parts : List (Word × List (BitVec 8))) : State × Perf :=
  match parts with
  | [] => (s, .done 0 0)
  | (a, _) :: _ =>
    let chk := s.acceptAll ag .store (parts.flatMap (fun p => spans p.1 p.2.length))
    let watch := parts.findSome? (fun p => (s.me.watchHit p.1 p.2.length kind).map (fun k => (p.1, k)))
    match chk.1.res, watch with
    | .ok _, some (w, k) => (s, .trap causeWATCH w (BitVec.ofNat 64 k) (memInfo ag.asid kind lane 0))
    | .remote, some (w, k) => (s, .trap causeWATCH w (BitVec.ofNat 64 k) (memInfo ag.asid kind lane 0))
    | .ok _, none =>
      let s := (chk.1.st.countAll chk.2 ag.asid (requester s ag)).put chk.2 (parts.flatMap (fun p => p.2))
      (s.sentinels ag (parts.map (fun p => (p.1, p.2.length))), .done 0 0)
    | .remote, none => s.post ag 1 0 parts (parts.map (fun p => p.2.length)).sum
    | x, _ => (chk.1.st, perfOf ag.asid kind lane a x)

/-- The old value of an atomic, local or by a request to its home (R117, R118). -/
def State.tryAtomic (s : State) (ag : Agent) (op : Nat) (a b cmp : Word) (posted : Bool) : State × Except Perf (List (BitVec 8)) :=
  let chk := (s.acceptAll ag .atomic (spans a 8)).1
  let watched := s.me.watchHit a 8 2
  match chk.res, watched with
  | .ok _, some k => (s, .error (.trap causeWATCH a (BitVec.ofNat 64 k) (memInfo ag.asid 2 0 0)))
  | .remote, some k => (s, .error (.trap causeWATCH a (BitVec.ofNat 64 k) (memInfo ag.asid 2 0 0)))
  | .ok _, none =>
    let r := chk.st.atomically ag a (atomicNew op b cmp)
    match r.res with
    | .ok o => (r.st, .ok o)
    | x => (r.st, .error (perfOf ag.asid 2 0 a x))
  | .remote, none =>
    let payload := leBytes 8 b.toNat ++ (if op = 0x1D then leBytes 8 cmp.toNat else [])
    if posted then
      match s.post ag 2 op [(a, payload)] 8 with
      | (s, .done _ _) => (s, .ok [])
      | (s, x) => (s, .error x)
    else s.askMem ag 3 a op 2 0 payload
  | x, _ => (chk.st, .error (perfOf ag.asid 2 0 a x))

/-- A loaded value, extended (R109). -/
def extended (size : Nat) (sg : Bool) (b : List (BitVec 8)) : Nat :=
  if sg then wrapNat 64 (signedOf (8 * 2 ^ size) (leNat b)) else leNat b

/-- A result lands no earlier than what an older word still owes the same register or latch (R42). -/
def Quad.landAfter (q : Quad) (d : Dst) (latch t : Nat) : Nat :=
  (q.pend.filter (fun p => (decide (p.dst = d) && decide (d ≠ .none)) || (decide (p.latch = latch) && decide (latch < 4)))).foldl
    (fun t p => max t p.land) t

/-- A lane of a gather has been read, in quarter `t` of the cycles from `now` on: it is on its way to its register, behind the lanes before it. -/
def Quad.laneLand (q : Quad) (d l v now lat : Nat) : Quad :=
  { q with pend := q.pend ++ [{ eng := 1, dst := .v d, latch := 4, val := v * 2 ^ (32 * l), mask := (2 ^ 32 - 1) * 2 ^ (32 * l), land := q.landAfter (.v d) 4 (now + lat) }] }

/-- Lanes of a gather from PROG2 on, in cycle `now`; each lane done is counted (R115, R116). Scratchpad lanes go at 4 a cycle, the others one a cycle, each at its latency (R126): `t` counts
quarters of a cycle. At the end: the cycles that the queue was busy. -/
def State.gather (s : State) (num : Nat) (ag : Agent) (now d : Nat) (base : Word) (idx : VReg) (size : Nat) (sg : Bool) : Nat → Nat → State × Perf
  | t, 0 => (s.updMe (fun q => { q with prog2 := 0 }), .done (cdiv t 4) ((s.me.landAfter (.v d) 4 now) - now))
  | t, fuel + 1 =>
    let l := 31 - fuel
    if l < s.me.prog2 then s.gather num ag now d base idx size sg t fuel
    else
      let a := laneAddr base idx size l
      let s := s.updMe (fun q => { q with prog2 := l })
      if a.toNat % 2 ^ size ≠ 0 then (s, .trap causeALIGN a (BitVec.ofNat 64 (2 ^ size)) (memInfo ag.asid 5 l 0))
      else
        match s.tryRead num ag 5 l a (2 ^ size) with
        | (s, .error e) => (s, e)
        | (s, .ok b) =>
          let v := if sg then wrapNat 32 (signedOf (8 * 2 ^ size) (leNat b)) else leNat b
          let near := decide (homeOf a = 15)
          let at_ := if near then t / 4 else cdiv t 4
          (s.updMe (fun q => q.laneLand d l v now (at_ + s.latency ag a))).gather num ag now d base idx size sg (if near then t + 1 else 4 * at_ + 4) fuel

/-- Lanes of a scatter from PROG2 on, in ascending order (R115, R116). -/
def State.scatter (s : State) (ag : Agent) (val : VReg) (base : Word) (idx : VReg) (size : Nat) : Nat → State × Perf
  | 0 => (s.updMe (fun q => { q with prog2 := 0 }), .done 0 0)
  | fuel + 1 =>
    let l := 31 - fuel
    if l < s.me.prog2 then s.scatter ag val base idx size fuel
    else
      let a := laneAddr base idx size l
      let s := s.updMe (fun q => { q with prog2 := l })
      if a.toNat % 2 ^ size ≠ 0 then (s, .trap causeALIGN a (BitVec.ofNat 64 (2 ^ size)) (memInfo ag.asid 6 l 0))
      else
        match s.tryWrite ag 6 l [(a, leBytes (2 ^ size) (lane val l).toNat)] with
        | (s, .done _ _) => s.scatter ag val base idx size fuel
        | r => r

/-! The tag table (R127, R128). -/

/-- The slots of the banks that the task holds on its core. -/
def State.slotGranted (s : State) (slot : Nat) : Bool := s.bankOk s.cur.core (slot / 128) (s.taskAt s.cur.core)

def State.tagFind (s : State) (asid : Nat) (a : Word) : List Nat :=
  (List.range 1024).filter (fun k =>
    let e := s.myCore.tags.get {} k
    e.v && decide (e.asid = asid) && decide (e.line = a.toNat / 512))

def clearTags (tags : Tab TagEntry) (l : List Nat) : Tab TagEntry := l.foldl (fun t k => t.set {} k {}) tags

/-- The image that TSTAT returns (R128). Log entry 95: of an entry with V = 0 the manual gives no ASID: OWN reads 0. -/
def tagImage (e : TagEntry) (asid : Nat) : Nat :=
  let own := decide (e.asid = asid) && e.v
  2 ^ 63 * bit e.v + 2 ^ 62 * bit own + (if own then e.line else 0)

/-- A slot number that is too large or lies in no granted bank (R128). -/
def State.badSlot (s : State) (x : Word) : Bool := decide (1024 ≤ x.toNat) || !s.slotGranted x.toNat

/-- STL, MARK and FENCE at gang scope close the batches first (R386): what is left to do when they are closed. -/
def State.afterClose (s : State) (ag : Agent) (gang : Bool) (k : State → State × Perf) : State × Perf :=
  if !gang then k s
  else match s.closing ag 5 with
    | (s, none) => (s, .retry)
    | (s, some (err, peers, lost)) =>
      if err = 0 then k s
      else (s, .trap causeBATCH (BitVec.ofNat 64 err) (BitVec.ofNat 64 peers) (BitVec.ofNat 64 lost))

/-! ### The two queues (R38, R105, R107) -/

/-- Entries of the load queue and of the store queue (R38). -/
def inLoads : MemOp → Bool
  | .store .. | .vst .. | .vscat .. | .batch .. => false
  | .off store => !store
  | _ => true
def inStores : MemOp → Bool
  | .store .. | .vst .. | .vscat .. | .batch .. | .sync .. => true
  | .off store => store
  | _ => false

def MemEntry.inQueue (e : MemEntry) (stores : Bool) : Bool := if stores then inStores e.op else inLoads e.op

/-- The place of the head of a queue among the entries. -/
def Quad.headOf (q : Quad) (stores : Bool) : Option Nat :=
  (List.range q.memQ.length).find? (fun i => (q.memQ[i]?).any (fun e => e.inQueue stores))

/-- Is an entry performed after every earlier one: a release, an atomic, MARK and FENCE (R107, R110, R118), and what PROG2 counts (R115)? -/
def MemEntry.lastOf (e : MemEntry) : Bool :=
  match e.op with
  | .sync .. | .atomic .. | .vgath .. | .vscat .. => true
  | .store .. => decide (e.rel < 4)
  | _ => false

/-- Is an entry performed only once every earlier load has been: a release, an atomic, MARK and FENCE (R107, R110, R118)? -/
def MemEntry.releases (e : MemEntry) : Bool := e.lastOf && !e.byLanes

/-- Does no later access go before this one: an acquire, MARK and FENCE (R107, R110, R118)? -/
def MemEntry.firstOf (e : MemEntry) : Bool :=
  match e.op with
  | .sync .. => true
  | .load _ _ _ acquire => acquire
  | .atomic _ _ _ d _ => decide (d ≠ 0)
  | _ => false

/-- The alignment that an entry needs (R109, R114, R115, R117). -/
def MemEntry.aligned (e : MemEntry) (from_ : Nat) : Bool :=
  match e.op with
  | .load size .. | .store size _ => decide (e.addr.toNat % 2 ^ size = 0)
  | .atomic .. => decide (e.addr.toNat % 8 = 0)
  | .vld _ => decide (e.addr.toNat % 4 = 0)
  | .vst _ mask => decide (mask = 0) || decide (e.addr.toNat % 4 = 0)
  | .vgath _ _ size _ | .vscat _ _ size => (e.parts from_).all (fun p => decide (p.1.toNat % 2 ^ size = 0))
  | _ => true

def MemEntry.need (e : MemEntry) : Need :=
  if kindCode e.op = 2 then .atomic else if isStoreKind (kindCode e.op) then .store else .load

/-- Has a waiting entry passed every check that it can fail (R456)? One of another package is checked there; one that closes batches may raise BATCH (R386). -/
def State.passed (s : State) (e : MemEntry) : Bool :=
  let l := e.parts (s.me.laneFrom e)
  !e.waits && e.aligned (s.me.laneFrom e) && !(decide (e.rel = 3)) && l.all (fun p => (s.me.watchHit p.1 p.2 (kindCode e.op)).isNone)
    && (match e.op with
      | .tins slot => !s.badSlot slot
      | .tstat _ => !s.badSlot e.addr
      | _ => true)
    && (match (s.acceptAll s.agent e.need (l.flatMap (fun p => spans p.1 p.2))).1.res with
      | .ok _ | .pull _ _ => true
      | .remote => isStoreKind (kindCode e.op)
      | _ => false)

/-- Does a store write bytes that a load reads? -/
def MemEntry.overwrites (e x : MemEntry) : Bool :=
  isStoreKind (kindCode e.op) && decide (kindCode x.op ∈ [0, 3, 5]) && (x.parts 0).any (fun p => (e.parts 0).any (fun r => meets p r))

/-- The loads whose value has not returned: each may still be discarded, and is performed when it returns (R456). -/
def Quad.inFlight (q : Quad) (now : Nat) : List MemEntry := (q.flying.filter (fun x => decide (now < x.2))).map Prod.fst

/-- May an entry be performed while older ones of the other queue are not, and loads have not returned (R105, R107, R110, R118, R456)? A store does not go before an older load of its
bytes (R104), and PROG2 counts the lanes of one entry. -/
def State.mayGo (s : State) (older : List MemEntry) (e : MemEntry) : Bool :=
  older.all (fun x =>
    match x.op with
    | .off _ => true
    | _ => !e.lastOf && !x.firstOf && s.passed x && !e.overwrites x)
  && (s.me.inFlight s.cycle).all (fun x => !e.releases && !(e.byLanes && x.byLanes) && !e.overwrites x)

/-! ### Entries, performed -/

/-- The store entries behind one that go with it in its packet: each is plain, ready, and writes one run of bytes, which goes on where the last one ends inside the same
aligned 256-byte block (R369). `a` is that end, `older` the entries before them; log entry 118. -/
def State.joiners (s : State) (block : Nat) : Nat → List MemEntry → List MemEntry → List MemEntry
  | _, _, [] => []
  | a, older, e :: r =>
    if !inStores e.op then s.joiners block a (older ++ [e]) r
    else match e.runs 0 with
      | [(x, b)] =>
        if !e.waits && decide (e.rel = 4) && e.aligned 0 && decide (e.since ≤ max s.cycle s.me.cyc) && decide (x.toNat = a) && decide (a / 256 = block)
            && decide ((a + b.length - 1) / 256 = block) && (s.me.watchHit x b.length (kindCode e.op)).isNone && s.mayGo older e then
          e :: s.joiners block (a + b.length) (older ++ [e]) r
        else []
      | _ => []

/-- A store or a VST is performed. To another package its bytes and those of the entries that join it leave in one packet (R369), and these entries are done with it. -/
def State.storeEntry (s : State) (ag : Agent) (kind : Nat) (e : MemEntry) : State × Perf :=
  match e.runs 0 with
  | [(a, b)] =>
    let upTo := s.me.memQ.takeWhile (fun x => decide (x.seq ≤ e.seq))
    let js := if s.isRemote a then
      s.joiners (a.toNat / 256) (a.toNat + b.length) upTo (s.me.memQ.dropWhile (fun x => decide (x.seq ≤ e.seq))) else []
    match s.tryWrite ag kind 0 [(a, b ++ js.flatMap (fun j => j.runs 0 |>.flatMap Prod.snd))] with
    | (s, .done v n) => (s.updMe (fun q => { q with memQ := q.memQ.filter (fun x => !js.any (fun j => decide (j.seq = x.seq))) }), .done v n)
    | r => r
  | l => s.tryWrite ag kind 0 l

/-- One entry, tried at its home in cycle `now`. -/
def State.perform (s : State) (now : Nat) (e : MemEntry) : State × Perf :=
  let ag := s.agent
  let misaligned (n : Nat) : State × Perf := (s, .trap causeALIGN e.addr (BitVec.ofNat 64 n) (memInfo ag.asid (kindCode e.op) 0 0))
  match e.op with
  | .load size sg _ _ =>
    if e.addr.toNat % 2 ^ size ≠ 0 then misaligned (2 ^ size)
    else match s.tryRead e.seq ag 0 0 e.addr (2 ^ size) with
      | (s, .ok b) => (s, .done (extended size sg b) (s.latency ag e.addr))
      | (s, .error x) => (s, x)
  | .store size _ =>
    if e.addr.toNat % 2 ^ size ≠ 0 then misaligned (2 ^ size)
    else if e.rel < 4 ∧ s.postedLeft ag true then (s, .retry)
    else s.afterClose ag (decide (e.rel = 3)) (fun s => s.storeEntry ag 1 e)
  | .atomic op b cmp d _ =>
    if e.addr.toNat % 8 ≠ 0 then misaligned 8
    else if s.postedLeft ag true ∧ s.me.memTok = none then (s, .retry)
    else match s.tryAtomic ag op e.addr b cmp (decide (d = 0)) with
      | (s, .ok o) => (s, .done (leNat o) (s.latency ag e.addr))
      | (s, .error x) => (s, x)
  | .vld _ =>
    if e.addr.toNat % 4 ≠ 0 then misaligned 128
    else match s.tryRead e.seq ag 3 0 e.addr 128 with
      | (s, .ok b) => (s, .done (leNat b) (s.latency ag e.addr + (if 14 ≤ homeOf e.addr ∧ e.addr.toNat % 128 ≠ 0 then 1 else 0)))
      | (s, .error x) => (s, x)
  | .vst _ mask =>
    if mask = 0 then (s, .done 0 0)
    else if e.addr.toNat % 4 ≠ 0 then misaligned 128
    else s.storeEntry ag 4 e
  | .vgath d idx size sg => s.gather e.seq ag now d e.addr idx size sg 0 32
  | .vscat v idx size => s.scatter ag v e.addr idx size 32
  | .lkup _ =>
    let hits := (s.tagFind ag.asid e.addr).filter s.slotGranted
    (s, .done (hits.headD (2 ^ 64 - 1)) 2)
  | .tins slot =>
    if s.badSlot slot then (s, .trap causePROT slot 5 (memInfo ag.asid 8 0 0))
    else
      let l := s.tagFind ag.asid e.addr
      (s.updMyCore (fun k => { k with
        tags := (clearTags k.tags l).set {} slot.toNat { v := true, asid := ag.asid, line := e.addr.toNat / 512 } }), .done 0 2)
  | .tinv => (let l := s.tagFind ag.asid e.addr; s.updMyCore (fun k => { k with tags := clearTags k.tags l }), .done 0 2)
  | .tstat _ =>
    if s.badSlot e.addr then (s, .trap causePROT e.addr 5 (memInfo ag.asid 8 0 0))
    else (s, .done (tagImage (s.myCore.tags.get {} e.addr.toNat) ag.asid) 2)
  | .sync gang fence =>
    if s.postedLeft ag fence then (s, .retry) else s.afterClose ag gang (fun s => (s, .done 0 0))
  | .batch op t =>
    let b := s.me.batches.get {} t
    let openIt (s : State) : State × Perf :=
      if b.st = .closing then (s, .retry)
      else (s.updMe (fun q => { q with batches := q.batches.set {} t (freshBatch), batchTag := t }), .done 0 0)
    match op with
    | 0 => openIt s
    | 1 => match s.closeBatch ag t with
      | some s => (s, .done 0 0)
      | none => (s, .retry)
    | _ => if b.st = .open then (s.updMe (fun q => { q with batchTag := t }), .done 0 0) else openIt s
  | .off _ => (s, .done 0 0)

/-! ### The turn of the memory engine -/

/-- The value of a performed entry is on its way to its register and latch (R42); the lanes of a gather are already. A load is kept until its value has returned (R456). -/
def Quad.memLand (q : Quad) (e : MemEntry) (val t : Nat) : Quad :=
  let (d, latch) := memDst e.op
  if d = .none ∧ latch = 4 then q
  else if e.byLanes then { q with flying := q.flying ++ [(e, t)] }
  else
    let mask := match e.op with | .vld _ => 2 ^ 1024 - 1 | _ => 0
    let land := q.landAfter d latch t
    { q with
      pend := q.pend ++ [{ eng := 1, dst := d, latch := latch, val := val, mask := mask, land := land }]
      flying := match e.op with
        | .load .. | .vld _ | .lkup _ | .tstat _ => q.flying ++ [(e, land)]
        | _ => q.flying }

/-- The words whose wait may yield (R289). -/
def yieldWord : Instr → Bool
  | .qres .. | .qacq .. | .hand .. | .smwait .. | .sigw .. | .sigwCond .. | .stwt .. | .twall .. | .twany .. | .drain .. => true
  | _ => false

/-- The word that a quadrant stands at. -/
def Quad.word (q : Quad) : Instr := match decodePattern q.inst with | .instr i => i | .illegal x => .illegalEncoding (BitVec.ofNat 8 x)

def Quad.mayYield (q : Quad) : Bool := q.wait.isSome && yieldWord q.word
def Quad.atTend (q : Quad) : Bool := q.ended || decide (q.word = .tend)

/-- Does every non-idle quadrant of a plain task stand at a switch point, and one of them at AWAIT or YIELD (R316)? -/
def State.allStand (s : State) (t : Nat) : Bool :=
  let x := s.task t
  let qs := (x.cores.flatMap (fun c => (List.range 4).map (fun u => s.quadOf c u))).filter (fun q => !q.idle)
  !x.team && qs.any (fun q => q.cond.isSome) && qs.all (fun q => q.cond.isSome || q.atTend || (decide (x.ythr ≠ 0) && q.mayYield))

/-- Beyond every cycle. -/
def never : Nat := 0x4000000000000000

/-- The task of the current core is to be suspended (R125, R351): the step that follows does it. A task that is not running, or is being
saved, or stands at its switch points, is not (R351); nor is a task whose walk engine waits (R297). -/
def State.suspendFor (s : State) (cause : SuspCause) (w : WaitFor) : State :=
  let x := s.task (s.taskAt s.cur.core)
  if x.st ≠ .running ∨ x.stage ≠ 0 ∨ isWalk s.cur.core then s
  else if s.allStand (s.taskAt s.cur.core) then s
  else
    let s := s.updTask (s.taskAt s.cur.core) (fun t => { t with waitFor := w })
    { s with agenda := s.agenda ++ [.taskSuspend s.cur.core cause] }

/-- A memory trap (R124): the entry and all behind it become the queue image; EPC is the next word to steer. -/
def State.memTrap (s : State) (e : MemEntry) (cause : Nat) (e0 e1 e2 : Word) : State :=
  let s := s.updMe (fun q => { q with memImg := q.memQ, memQ := [], memStall := none, storeStall := none, memTok := none, memReply := none })
  s.trap cause s.me.pc e0 e1 e2 e.wordAt

/-! ### Registers of a memory word (R38, R42, R49) -/

/-- The predicate that a guard reads; p0 is constant. -/
def guardReg (g : BitVec 4) : List Dst := if g.toNat % 8 = 0 then [] else [.p (g.toNat % 8)]

def loadUse (l : List (BitVec 6)) (d : BitVec 6) : Use := useOf l d 2
def storeUse (l : List (BitVec 6)) (g : BitVec 4) : Use := { useOf l 0 4 with reads := srcRegs l ++ guardReg g }
def atomicUse (op : Nat) (d a b : BitVec 6) (g : BitVec 4) : Use :=
  let l := [a, b] ++ (if op = 0x1D then [d] else [])
  { useOf l d (if d = 0 then 4 else 2) with reads := srcRegs l ++ guardReg g }
def vectorUse (a : BitVec 6) (rs ws : List Dst) : Use := { reads := srcRegs [a] ++ rs, latches := srcLatches [a], writes := ws }

/-- What a word of the memory engine reads and writes (R42, R46). -/
def memUse : Instr → Use
  | .ldB d a _ | .ldBn d a _ | .ldH d a _ | .ldHn d a _ | .ldW d a _ | .ldWn d a _ | .ldD d a _ | .lda d a _ _ _ _ => loadUse [a] d
  | .ldx d a b _ _ => loadUse [a, b] d
  | .stB v a g _ | .stH v a g _ | .stW v a g _ | .stD v a g _ | .stl v a g _ _ _ => storeUse [v, a] g
  | .vld v a _ => vectorUse a [] [.v v.toNat]
  | .vst v a g k m _ => vectorUse a (.v v.toNat :: (if k = 1 then [.m m.toNat] else []) ++ guardReg g) []
  | .vgath d a i _ _ => vectorUse a [.v i.toNat] [.v d.toNat]
  | .vscat v a g i _ => vectorUse a ([.v v.toNat, .v i.toNat] ++ guardReg g) []
  | .aadd d a b g _ => atomicUse 0x14 d a b g
  | .aand d a b g _ => atomicUse 0x15 d a b g
  | .aor d a b g _ => atomicUse 0x16 d a b g
  | .axor d a b g _ => atomicUse 0x17 d a b g
  | .amin d a b g _ => atomicUse 0x18 d a b g
  | .amax d a b g _ => atomicUse 0x19 d a b g
  | .aminn d a b g _ => atomicUse 0x1A d a b g
  | .amaxn d a b g _ => atomicUse 0x1B d a b g
  | .aswp d a b g _ => atomicUse 0x1C d a b g
  | .acas d a b g _ => atomicUse 0x1D d a b g
  | .lkup d a | .tstat d a => loadUse [a] d
  | .tins a b => useOf [a, b] 0 4
  | .tinv a => useOf [a] 0 4
  | _ => {}

/-- A load of 2^size bytes at a scaled offset (R109, R110). -/
def loadOp (q : Quad) (d a : BitVec 6) (size : Nat) (sg acquire : Bool) (o : Word) : MemOp × Word × Nat :=
  (.load size sg (gDst d) acquire, q.src a + (o <<< size), 4)

/-- A store of 2^size bytes under its guard (R49, R109, R110). -/
def storeOp (q : Quad) (v a : BitVec 6) (g : BitVec 4) (size rel : Nat) (o : Word) : MemOp × Word × Nat :=
  if q.guard g then (.store size (q.src v), q.src a + (o <<< size), rel) else (.off true, 0, 4)

/-- An atomic: b is its operand, d the register of the old value and of the value that ACAS compares with (R117). -/
def atomicOp (q : Quad) (op : Nat) (d a b : BitVec 6) (g : BitVec 4) (c : BitVec 2) : MemOp × Word × Nat :=
  if q.guard g then (.atomic op (q.src b) (q.gr d.toNat) d.toNat c.toNat, q.src a, 4) else (.off false, 0, 4)

/-- The operation of a word of the memory engine with what it reads, its address and its release scope (R109 to R120, R128, R384). -/
def memOp (q : Quad) : Instr → MemOp × Word × Nat
  | .ldB d a o => loadOp q d a 0 true false (sext64 o)
  | .ldBn d a o => loadOp q d a 0 false false (sext64 o)
  | .ldH d a o => loadOp q d a 1 true false (sext64 o)
  | .ldHn d a o => loadOp q d a 1 false false (sext64 o)
  | .ldW d a o => loadOp q d a 2 true false (sext64 o)
  | .ldWn d a o => loadOp q d a 2 false false (sext64 o)
  | .ldD d a o => loadOp q d a 3 false false (sext64 o)
  | .lda d a z _ g o => loadOp q d a z.toNat (decide (g = 1)) true (sext64 o)
  | .ldx d a b z g => loadOp q d a z.toNat (decide (g = 1)) false (q.src b)
  | .stB v a g o => storeOp q v a g 0 4 (sext64 o)
  | .stH v a g o => storeOp q v a g 1 4 (sext64 o)
  | .stW v a g o => storeOp q v a g 2 4 (sext64 o)
  | .stD v a g o => storeOp q v a g 3 4 (sext64 o)
  | .stl v a g z c o => storeOp q v a g z.toNat c.toNat (sext64 o)
  | .vld v a o => (.vld v.toNat, q.src a + (sext64 o <<< 7), 4)
  | .vst v a g k m o =>
    if q.guard g then (.vst (q.vr v.toNat) (if k = 1 then q.mr m.toNat else BitVec.allOnes 32), q.src a + (sext64 o <<< 7), 4) else (.off true, 0, 4)
  | .vgath d a i z g => (.vgath d.toNat (q.vr i.toNat) z.toNat (decide (g = 1)), q.src a, 4)
  | .vscat v a g i z => if q.guard g then (.vscat (q.vr v.toNat) (q.vr i.toNat) z.toNat, q.src a, 4) else (.off true, 0, 4)
  | .aadd d a b g c => atomicOp q 0x14 d a b g c
  | .aand d a b g c => atomicOp q 0x15 d a b g c
  | .aor d a b g c => atomicOp q 0x16 d a b g c
  | .axor d a b g c => atomicOp q 0x17 d a b g c
  | .amin d a b g c => atomicOp q 0x18 d a b g c
  | .amax d a b g c => atomicOp q 0x19 d a b g c
  | .aminn d a b g c => atomicOp q 0x1A d a b g c
  | .amaxn d a b g c => atomicOp q 0x1B d a b g c
  | .aswp d a b g c => atomicOp q 0x1C d a b g c
  | .acas d a b g c => atomicOp q 0x1D d a b g c
  | .mark c => (.sync (decide (c = 3)) false, 0, 4)
  | .fence c => (.sync (decide (c = 3)) true, 0, 4)
  | .lkup d a => (.lkup d.toNat, q.src a, 4)
  | .tins a b => (.tins (q.src b), q.src a, 4)
  | .tinv a => (.tinv, q.src a, 4)
  | .tstat d a => (.tstat d.toNat, q.src a, 4)
  | .bopen t => (.batch 0 t.toNat, 0, 4)
  | .bclose t => (.batch 1 t.toNat, 0, 4)
  | .bsel t => (.batch 2 t.toNat, 0, 4)
  | _ => (.off false, 0, 4)

/-- Has an older word yet to write what an entry reads, or to read or write what it writes (R42)? Two results of the memory engine itself land in their order. -/
def Quad.blocked (q : Quad) (older : List MemEntry) (e : MemEntry) : Bool :=
  let u := memUse e.word
  older.any (fun x => x.holds { u with writes := [], wlatch := 4 } || x.reads.any (fun d => u.writes.contains d) || x.latches.contains u.wlatch)
    || q.owesEngine u
    || (q.vecQ ++ (if e.seq < q.seqMark then q.vecImg else [])).any (fun v => decide (v.seq < e.seq) && v.holds u)

/-- An entry reads its registers, in cycle `t0` or when the last result in flight that it needs lands; until then no younger word writes what it reads. While an older word
blocks it, it waits (R42). -/
def Quad.readEntry (q : Quad) (older : List MemEntry) (e : MemEntry) (t0 : Nat) : Quad × MemEntry :=
  let u := memUse e.word
  if q.blocked older e then (q, { e with op := (memOp q e.word).1, waits := true, reads := u.reads, latches := u.latches })
  else
    let q := q.landRead 1 u
    let t := q.clear 1 u t0
    let (op, addr, rel) := memOp (q.landDue t) e.word
    let hold : List Pend := if t ≤ t0 then [] else
      u.reads.map (fun d => { eng := 3, dst := d, latch := 4, val := 0, mask := 0, land := t })
        ++ u.latches.map (fun l => { eng := 3, dst := .none, latch := l, val := 0, mask := 0, land := t })
    let q := q.landDue t0
    ({ q with pend := q.pend ++ hold }, { e with op := op, addr := addr, rel := rel, since := t, waits := false, reads := [], latches := [] })

/-- The waiting entries that older words no longer block read their registers, oldest first. -/
def Quad.readEntries (q : Quad) (t0 : Nat) : List MemEntry → List MemEntry → Quad
  | done, [] => { q with memQ := done }
  | done, e :: r =>
    if e.waits then
      match q.readEntry done e t0 with
      | (q, e) => q.readEntries t0 (done ++ [e]) r
    else q.readEntries t0 (done ++ [e]) r

def Quad.readWaiting (q : Quad) (t0 : Nat) : Quad :=
  if q.memQ.any (·.waits) then q.readEntries t0 [] q.memQ else q

/-! ### The turn of the memory engine -/

def Quad.memTime (q : Quad) (stores : Bool) : Nat := if stores then q.storeAt else q.memAt
def Quad.setMemTime (q : Quad) (stores : Bool) (t : Nat) : Quad := if stores then { q with storeAt := t } else { q with memAt := t }
def Quad.memSince (q : Quad) (stores : Bool) : Option Nat := if stores then q.storeStall else q.memStall
def Quad.setMemSince (q : Quad) (stores : Bool) (x : Option Nat) : Quad := if stores then { q with storeStall := x } else { q with memStall := x }

/-- The oldest entry is held by a page or a tile: a switch away waits for it no longer (R351). -/
def Quad.pageHead (q : Quad) : Quad := { q with memQ := q.memQ.modify 0 (fun e => { e with paged := true }) }

/-- The entry at place `i` is performed: what R105 to R107 let go before the older ones has no other outcome while these wait. 3,760 cycles on a pull suspend a load (R265); STALLMAX
cycles on a linked range refuse a store with reason 7 (R264). After a returning atomic or an acquire nothing is performed before its value is there (R110, R118), and a gather keeps its
queue busy for its lanes (R115). -/
def State.tryEntry (s : State) (stores : Bool) (i now : Nat) (e : MemEntry) : State :=
  let since := (s.me.memSince stores).getD now
  let again (s : State) : State := s.updMe (fun q => q.setMemTime stores (now + 1))
  let held (s : State) : State := s.updMe (fun q => (q.setMemTime stores (now + 1)).setMemSince stores (some since))
  match s.perform now e with
  | (s, .done v lat) =>
    s.updMe (fun q =>
      let q := ({ q with memQ := q.memQ.eraseIdx i, flying := q.flying.filter (fun x => decide (now < x.2)) } : Quad).memLand e v (now + lat)
      let q := (q.setMemTime stores (now + 1)).setMemSince stores none
      if e.byLanes then q.setMemTime stores (now + max 1 v)
      else if e.firstOf then { q with memAt := max q.memAt (now + lat), storeAt := max q.storeAt (now + lat) } else q)
  | (s, .retry) => again s
  | (s, .walk t) => s.updMe (fun q => q.setMemTime stores (max (now + 1) t))
  | (s', .pull f k) =>
    if since + 3760 < now ∧ kindCode e.op ∈ [0, 3, 5] ∧ i = 0 ∧ s.allStand (s.taskAt s.cur.core) then (held s').updMe Quad.pageHead
    else if since + 3760 < now ∧ kindCode e.op ∈ [0, 3, 5] ∧ i = 0 then
      let s := (held s').updTask (s.taskAt s.cur.core) (fun t => if t.st = .running ∧ t.stage = 0 then { t with waitFor := .tile f k } else t)
      { s with agenda := s.agenda ++ [.pullWaitTimeout s.cur.core s.cur.quad] }
    else held s'
  | (s', .stall _ l at_ ln) =>
    let lim := s.myTask.stallmax
    if lim ≠ 0 ∧ since + lim < now ∧ i = 0 then
      s'.memTrap e causePROT at_ 7 (memInfo s.agent.asid (kindCode e.op) ln l)
    else held s'
  | (s', .trap c e0 e1 e2) => if i = 0 then s'.memTrap e c e0 e1 e2 else again s
  | (s', .page f off) =>
    if i = 0 then
      ((again s').updMe Quad.pageHead).suspendFor .page (.page f s.agent.asid off)
    else again s

/-- The head of the load queue or of the store queue is tried: waiting entries read their registers, and an entry that may not yet go before the older ones of the other queue waits. -/
def State.memTurn (s : State) (stores : Bool) : State :=
  let s := s.updMe (fun q => q.readWaiting s.cycle)
  match s.me.headOf stores with
  | none => s
  | some i =>
    match s.me.memQ[i]? with
    | none => s
    | some e =>
      let now := max s.cycle (max e.since (s.me.memTime stores))
      let again (s : State) : State := s.updMe (fun q => q.setMemTime stores (now + 1))
      if e.waits || !s.mayGo (s.me.memQ.take i) e then again s else s.tryEntry stores i now e

/-- A word of E = 1 (and BOPEN, BSEL, BCLOSE): it waits at the splitter for a place in its queue, and in its queue for its registers (R38, R39, R42); guarded off, it takes
its place and does nothing (R49). The head of an empty queue is tried at once. -/
def State.memWord (s : State) (i : Instr) : State :=
  let q := s.me
  let op := (memOp q i).1
  let count (stores : Bool) : Nat := (q.memQ.filter (fun e => e.inQueue stores)).length
  if (inLoads op && decide (16 ≤ count false)) || (inStores op && decide (16 ≤ count true)) then s.poll
  else
    let e : MemEntry := { op := op, addr := 0, rel := 4, wordAt := q.pc, pat := q.inst, since := q.cyc, word := i, seq := q.seq }
    let (q, e) := (q.thaw 1 q.cyc).readEntry q.memQ e q.cyc
    let t := if e.waits then q.cyc + 1 else e.since
    let fresh (stores : Bool) : Bool := e.inQueue stores && decide (count stores = 0)
    let s := s.updMe (fun _ => ({ q with
      memQ := q.memQ ++ [e], seq := q.seq + 1
      memAt := if fresh false then max t q.memAt else q.memAt
      storeAt := if fresh true then max t q.storeAt else q.storeAt } : Quad).retire 0)
    let stores := !inLoads e.op
    if fresh stores && !e.waits && decide (max t (q.memTime stores) ≤ q.cyc) then s.memTurn stores else s

/-! ### Accesses made at the splitter (R287, R399) -/

/-- Does a load that a word makes at the splitter wait: for the quadrant's own earlier stores, whose bytes it returns, for a MARK, a FENCE or an acquire (R106, R107, R110)? -/
def State.loadsHeld (s : State) (a : Word) : Bool :=
  s.me.memQ.any (fun e => inStores e.op || e.firstOf) || (s.isRemote a && s.postedLeft s.agent false)

/-- A refused access of the word at the splitter: a precise trap at the word, a suspension after which it runs again, or a wait. -/
def State.splitFail (s : State) (r : Perf) : State :=
  match r with
  | .trap c e0 e1 e2 => s.trap c s.me.pc e0 e1 e2 s.me.pc
  | .page f off => s.poll.suspendFor .page (.page f s.agent.asid off)
  | .walk t => s.updMe (fun q => { q with cyc := max (q.cyc + 1) t })
  | _ => s.poll

/-- A read from another package, 256 bytes at a time (R367); BTAG 1 marks an instruction fetch (log entry 33). `fail` says what a refusal does. -/
def State.askSplit (s : State) (ag : Agent) (kind : Nat) (a : Word) (n : Nat) (fail : State → Perf → State := State.splitFail) : State × Option (List (BitVec 8)) :=
  let q := s.me
  let have_ := q.got.length
  let at_ := a + BitVec.ofNat 64 have_
  match q.ask with
  | none =>
    let p := s.packetTo ag 4 at_ (if kind = 7 then 1 else 0) (min 256 (n - have_) - 1) s.tokens []
    if s.unreachable (pkgOf a) then (fail s (.trap causePROT at_ 15 (memInfo ag.asid kind 0 0)), none)
    else if s.canSend p then ((s.send p).newToken.updMe (fun q => { q.poll with ask := some s.tokens }), none)
    else (s.poll, none)
  | some _ =>
    match q.answer with
    | none => (s.poll, none)
    | some r =>
      let s := s.updMe (fun q => { q with ask := none, answer := none })
      if r.status ≠ 0 then
        (fail (s.updMe (fun q => { q with got := [] })) (perfOfStatus ag.asid kind 0 at_ r), none)
      else if n ≤ have_ + r.bytes.length then (s.updMe (fun q => { q with got := [] }), some ((q.got ++ r.bytes).take n))
      else (s.updMe (fun q => { q.poll with got := q.got ++ r.bytes }), none)

/-- A read of `n` bytes by the word at the splitter; where it gives none, the state says what has come of it. -/
def State.splitRead (s : State) (kind : Nat) (a : Word) (n : Nat) : State × Option (List (BitVec 8)) :=
  let ag := s.agent
  let r := s.read ag a n
  match r.res with
  | .ok b => (r.st, some b)
  | .remote => s.askSplit ag kind a n
  | x => (r.st.splitFail (perfOf ag.asid kind 0 a x), none)

end Sys2Proof.Machine
end

