-- ==== Sys2Proof/Machine/NumFormat.lean ====
section
/-! DEFINITION. The number formats to the bit, exact values, rounding and conversion (R135 to R154), and the counter-based generator
(R188). A format is a queue format code (R135, R157), or one of the lane types that R162 adds: 34 n32, 35 i16. -/

namespace Sys2Proof.Machine

/-! ### Exact magnitudes -/

/-- The magnitude n / d * 2^e. -/
structure Mag where
  n : Nat
  d : Nat
  e : Int
  deriving DecidableEq, Repr

def Mag.zero : Mag := ⟨0, 1, 0⟩
def Mag.ofNat (n : Nat) : Mag := ⟨n, 1, 0⟩

/-- 2^z for a nonnegative exponent. -/
def pow2 (z : Int) : Nat := 2 ^ z.toNat

def Mag.le (a b : Mag) : Bool :=
  let e := min a.e b.e
  decide (a.n * b.d * pow2 (a.e - e) ≤ b.n * a.d * pow2 (b.e - e))
def Mag.lt (a b : Mag) : Bool := !b.le a
def Mag.eqv (a b : Mag) : Bool := a.le b && b.le a

def Mag.mul (a b : Mag) : Mag := ⟨a.n * b.n, a.d * b.d, a.e + b.e⟩
def Mag.div (a b : Mag) : Mag := ⟨a.n * b.d, a.d * b.n, a.e - b.e⟩
def Mag.add (a b : Mag) : Mag :=
  let e := min a.e b.e
  ⟨a.n * b.d * pow2 (a.e - e) + b.n * a.d * pow2 (b.e - e), a.d * b.d, e⟩
/-- a - b where b ≤ a. -/
def Mag.sub (a b : Mag) : Mag :=
  let e := min a.e b.e
  ⟨a.n * b.d * pow2 (a.e - e) - b.n * a.d * pow2 (b.e - e), a.d * b.d, e⟩

/-- floor(log2) of a nonzero magnitude. -/
def Mag.log2 (a : Mag) : Int :=
  let z : Int := (a.n.log2 : Int) - a.d.log2
  if (Mag.mk 1 1 z).le ⟨a.n, a.d, 0⟩ then a.e + z else a.e + z - 1

/-- The integer part. -/
def Mag.floor (a : Mag) : Nat := if 0 ≤ a.e then a.n * pow2 a.e / a.d else a.n / (a.d * pow2 (-a.e))

/-- A decoded element: NaN, an infinity, or an exact signed value; −0 has its sign. -/
inductive Num where
  | nan
  | inf (neg : Bool)
  | fin (neg : Bool) (x : Mag)
  deriving DecidableEq, Repr

def Num.zero : Num := .fin false Mag.zero
def Num.ofInt (z : Int) : Num := .fin (decide (z < 0)) (Mag.ofNat z.natAbs)
def Num.isNan : Num → Bool | .nan => true | _ => false
def Num.isZero : Num → Bool | .fin _ x => decide (x.n = 0) | _ => false
def Num.isInf : Num → Bool | .inf _ => true | _ => false
def Num.neg : Num → Bool | .nan => false | .inf s => s | .fin s _ => s
def Num.flip : Num → Num | .nan => .nan | .inf s => .inf (!s) | .fin s x => .fin (!s) x

/-- Exact product: 0 times an infinity is NaN (R148). -/
def Num.mul (a b : Num) : Num :=
  match a, b with
  | .nan, _ => .nan
  | _, .nan => .nan
  | .inf s, b => if b.isZero then .nan else .inf (s != b.neg)
  | a, .inf t => if a.isZero then .nan else .inf (a.neg != t)
  | .fin s x, .fin t y => .fin (s != t) (x.mul y)

/-- Exact sum: infinities of opposite signs give NaN, an exact cancellation gives +0 (R148). -/
def Num.add (a b : Num) : Num :=
  match a, b with
  | .nan, _ => .nan
  | _, .nan => .nan
  | .inf s, .inf t => if s = t then .inf s else .nan
  | .inf s, _ => .inf s
  | _, .inf t => .inf t
  | .fin s x, .fin t y =>
    if s = t then .fin s (x.add y)
    else if x.eqv y then .fin false Mag.zero
    else if y.le x then .fin s (x.sub y) else .fin t (y.sub x)

/-- a < b for numbers that are not NaN; zeros are equal. -/
def Num.lt (a b : Num) : Bool :=
  match a, b with
  | .inf true, .inf true => false
  | .inf true, _ => true
  | .inf false, _ => false
  | _, .inf t => !t
  | .fin s x, .fin t y =>
    if decide (x.n = 0) && decide (y.n = 0) then false
    else match s && decide (x.n ≠ 0), t && decide (y.n ≠ 0) with
      | true, false => true
      | false, true => false
      | false, false => x.lt y
      | true, true => y.lt x
  | _, _ => false

def Num.eqv (a b : Num) : Bool := !a.isNan && !b.isNan && !a.lt b && !b.lt a

/-! ### Formats (R135 to R139) -/

/-- Exponent bits, mantissa bits and bias of a float format (R137). -/
def floatOf (f : Nat) : Option (Nat × Nat × Nat) :=
  match f with
  | 0 => some (8, 10, 127) | 1 => some (5, 10, 15) | 2 => some (8, 7, 127) | 4 => some (5, 2, 15) | 5 => some (4, 3, 7)
  | 6 => some (3, 4, 3) | 10 => some (3, 2, 3) | 11 => some (2, 3, 1) | 13 => some (2, 1, 1) | 32 => some (8, 23, 127)
  | _ => none

/-- Body bits and es of a marker format (R139). -/
def markerOf (f : Nat) : Option (Nat × Nat) :=
  match f with
  | 3 => some (15, 2) | 7 => some (7, 1) | 12 => some (5, 1) | 14 => some (3, 1) | _ => none

/-- Width of an element: F19 stands in a 32-bit container (R136). -/
def elemWidth (f : Nat) : Nat := if f = 34 then 32 else if f = 35 then 16 else codeWidth f

/-- The unscaled format of a block-scaled format's elements (R135). -/
def elemFormat (f : Nat) : Nat :=
  match f with
  | 20 => 4 | 21 => 5 | 22 => 10 | 23 => 11 | 24 => 13 | 25 => 8 | 26 => 15 | 27 => 13 | 28 => 15 | 29 => 7 | 30 => 14 | 31 => 5
  | _ => f

/-- Block size of a format along K, 0 for none (R140). -/
def blockOf (f : Nat) : Nat := if 20 ≤ f ∧ f ≤ 26 ∨ f = 29 ∨ f = 30 then 32 else if f = 27 ∨ f = 28 ∨ f = 31 then 16 else 0

def isSignedInt (f : Nat) : Bool := f = 8 || f = 15 || f = 17 || f = 33 || f = 35
def isNatural (f : Nat) : Bool := f = 9 || f = 16 || f = 34
/-- The formats between which the array accumulates exactly (R146). -/
def isExactInt (f : Nat) : Bool := f = 8 || f = 9 || f = 15 || f = 16 || f = 17 || f = 18 || f = 19
/-- Formats with an infinity. -/
def hasInf (f : Nat) : Bool := f = 0 || f = 1 || f = 2 || f = 4 || f = 32

/-- Bits of a body: the encoding without its sign, or the magnitude of an integer. -/
def bodyBits (f : Nat) : Nat :=
  match floatOf f, markerOf f with
  | some (e, m, _), _ => e + m
  | _, some (n, _) => n
  | _, _ => if f = 18 ∨ f = 19 then 1 else elemWidth f

/-- The largest finite body (R137 to R139). -/
def maxBody (f : Nat) (neg : Bool) : Nat :=
  match floatOf f, markerOf f with
  | some (e, m, _), _ =>
    if hasInf f then (2 ^ e - 1) * 2 ^ m - 1 else if f = 5 ∨ f = 6 then 2 ^ (e + m) - 2 else 2 ^ (e + m) - 1
  | _, some (n, _) => 2 ^ n - 2
  | _, _ =>
    let w := elemWidth f
    if f = 18 ∨ f = 19 then 1 else if isNatural f then 2 ^ w - 1 else if neg then 2 ^ (w - 1) else 2 ^ (w - 1) - 1

/-- Length of the run of bits equal to the top one, of a body of n bits (R139). -/
def runLength (body n : Nat) : Nat :=
  let bitAt (i : Nat) : Nat := body / 2 ^ (n - 1 - i) % 2
  ((List.range n).takeWhile (fun i => bitAt i = bitAt 0)).length

/-- The value of a nonzero marker body (R139). -/
def markerMag (n es body : Nat) : Mag :=
  let top := body / 2 ^ (n - 1) % 2
  let k := runLength body n
  let rho : Int := if top = 1 then (k : Int) - 1 else -(k : Int)
  let left := n - 1 - k
  let rest := body % 2 ^ left
  let x := if es ≤ left then rest / 2 ^ (left - es) else rest * 2 ^ (es - left)
  let w := left - es
  let f := rest % 2 ^ w
  ⟨2 ^ w + f, 1, rho * 2 ^ es + x - w⟩

/-- The magnitude of a finite body. -/
def magOf (f body : Nat) : Mag :=
  match floatOf f, markerOf f with
  | some (_, m, bias), _ =>
    if body / 2 ^ m = 0 then ⟨body, 1, (1 : Int) - bias - m⟩
    else ⟨2 ^ m + body % 2 ^ m, 1, (body / 2 ^ m : Int) - bias - m⟩
  | _, some (n, es) => if body = 0 then Mag.zero else markerMag n es body
  | _, _ => Mag.ofNat body

/-- The value of an element's bits (R137 to R139). -/
def decodeNum (f x : Nat) : Num :=
  match floatOf f, markerOf f with
  | some (e, m, _), _ =>
    let body := x % 2 ^ (e + m)
    let neg := decide (x / 2 ^ (e + m) % 2 = 1)
    if body ≤ maxBody f neg then .fin neg (magOf f body)
    else if hasInf f && decide (body = maxBody f neg + 1) then .inf neg else .nan
  | _, some (n, _) =>
    let body := x % 2 ^ n
    let neg := decide (x / 2 ^ n % 2 = 1)
    if body = 2 ^ n - 1 then .nan
    else if body = 0 then (if neg then .nan else Num.zero)
    else .fin neg (magOf f body)
  | _, _ =>
    let w := elemWidth f
    if f = 18 then (if x % 4 = 1 then Num.ofInt 1 else if x % 4 = 3 then Num.ofInt (-1) else Num.zero)
    else if f = 19 then Num.ofInt (if x % 2 = 1 then 1 else -1)
    else if isNatural f then Num.ofInt (x % 2 ^ w) else Num.ofInt (signedOf w x)

/-- The bits of a signed body. -/
def encodeBody (f : Nat) (neg : Bool) (body : Nat) : Nat :=
  match floatOf f, markerOf f with
  | some (e, m, _), _ => body + (if neg then 2 ^ (e + m) else 0)
  | _, some (n, _) => if body = 0 then 0 else body + (if neg then 2 ^ n else 0)
  | _, _ =>
    let w := elemWidth f
    if f = 18 then (if body = 0 then 0 else if neg then 3 else 1)
    else if f = 19 then (if neg then 0 else 1)
    else wrapNat w (if neg then -(body : Int) else body)

/-- The canonical NaN, and whether the format has one (R139, R153). -/
def nanBits (f : Nat) : Option Nat :=
  match f with
  | 0 => some 0x3FE00 | 1 => some 0x7E00 | 2 => some 0x7FC0 | 4 => some 0x7E | 5 => some 0x7F | 6 => some 0x7F | 32 => some 0x7FC00000
  | 3 => some 0x7FFF | 7 => some 0x7F | 12 => some 0x1F | 14 => some 0x7 | _ => none

/-! ### Rounding (R151 to R154) -/

/-- The largest body whose magnitude is at most x, bit by bit from the top: magnitudes rise with the body. -/
def floorBody (f : Nat) (top : Nat) (x : Mag) : Nat → Nat → Nat
  | 0, acc => acc
  | i + 1, acc =>
    let try_ := acc + 2 ^ i
    floorBody f top x i (if decide (try_ ≤ top) && (magOf f try_).le x then try_ else acc)

/-- Modes: 0 RNE, 1 RZ, 2 RD, 3 RU, 4 RNA, 5 SR with the drawn number r. Does a magnitude between lo and hi go up (R151, R154)? -/
def goesUp (mode : Nat) (neg : Bool) (r : Nat) (odd : Bool) (x lo hi : Mag) : Bool :=
  let twice := x.add x
  let mid := lo.add hi
  match mode with
  | 0 => mid.lt twice || (mid.eqv twice && odd)
  | 1 => false
  | 2 => neg
  | 3 => !neg
  | 4 => mid.le twice
  | _ => ((Mag.ofNat r).mul (hi.sub lo)).lt ((x.sub lo).mul (Mag.ofNat (2 ^ 32)))

/-- A converted element: its bits, and whether it set CVSAT or CVNANZ. -/
structure Cvt where
  pat : Nat
  sat : Bool := false
  nanz : Bool := false
  deriving DecidableEq, Repr

/-- Round(x, f, mode) with its flags (R151 to R154). -/
def convertNum (f mode r : Nat) (x : Num) : Cvt :=
  match x with
  | .nan =>
    match nanBits f with
    | some p => { pat := p }
    | none => { pat := if f = 19 then 1 else 0, nanz := true }
  | .inf s =>
    if hasInf f then { pat := encodeBody f s (maxBody f s + 1) }
    else if isNatural f && s then { pat := 0, sat := true }
    else { pat := encodeBody f s (maxBody f s), sat := true }
  | .fin s a =>
    if f = 19 then { pat := if s && decide (a.n ≠ 0) then 0 else 1, sat := (Mag.ofNat 1).lt a }
    else if f = 18 then
      let lo := a.floor
      let n := if a.eqv (Mag.ofNat lo) then lo
        else if goesUp mode s r (decide (lo % 2 = 1)) a (Mag.ofNat lo) (Mag.ofNat (lo + 1)) then lo + 1 else lo
      { pat := encodeBody 18 s (min n 1), sat := decide (1 < n) }
    else if isNatural f && s then
      let lo := a.floor
      let n := if a.eqv (Mag.ofNat lo) then lo
        else if goesUp mode true r (decide (lo % 2 = 1)) a (Mag.ofNat lo) (Mag.ofNat (lo + 1)) then lo + 1 else lo
      { pat := 0, sat := decide (n ≠ 0) }
    else
      let top := maxBody f s
      let big := magOf f top
      if a.le big then
        let lo := floorBody f top a (bodyBits f) 0
        let m := magOf f lo
        if m.eqv a then { pat := encodeBody f s lo }
        else if goesUp mode s r (decide (lo % 2 = 1)) a m (magOf f (lo + 1)) then { pat := encodeBody f s (lo + 1) }
        else { pat := encodeBody f s lo }
      else if !hasInf f then { pat := encodeBody f s top, sat := true }
      else
        let ulp := big.sub (magOf f (top - 1))
        let next := big.add ulp
        let up := match mode with
          | 0 | 4 => (big.add next).le (a.add a)
          | 1 => false
          | 2 => s
          | 3 => !s
          | _ => next.lt a || goesUp 5 s r false a big next
        { pat := encodeBody f s (if up then top + 1 else top), sat := true }

/-- Conversion between formats; identical formats copy the bits (R153). DEDUCED, log entry 55: T2's pattern 0b10 is copied too, though R138 lets no write of T2 produce it,
and so are bits 31:19 of an F19 container, though R136 has a write of F19 make them zero. -/
def convert (src dst mode r x : Nat) : Cvt :=
  if src = dst then { pat := x % 2 ^ elemWidth src } else convertNum dst mode r (decodeNum src x)

/-- Round to nearest even, as the engines' arithmetic does (R148). -/
def rne (f : Nat) (x : Num) : Nat := (convertNum f 0 0 x).pat

/-! ### FP32 arithmetic (R148) -/

def f32 (x : BitVec 32) : Num := decodeNum 32 x.toNat
def toF32 (x : Num) : BitVec 32 := BitVec.ofNat 32 (rne 32 x)
def f32Add (a b : BitVec 32) : BitVec 32 := toF32 ((f32 a).add (f32 b))
def f32Mul (a b : BitVec 32) : BitVec 32 := toF32 ((f32 a).mul (f32 b))
def f32Fma (a b c : BitVec 32) : BitVec 32 := toF32 (((f32 a).mul (f32 b)).add (f32 c))
/-- The largest finite FP32 magnitude. -/
def f32Max : Mag := magOf 32 (maxBody 32 false)

/-! ### The counter-based generator (R188) -/

def rot32 (y s : Nat) : Nat := (y * 2 ^ s % 2 ^ 32) ||| (y / 2 ^ (32 - s))

def vrngRot (j : Nat) : Nat := [13, 15, 26, 6, 17, 29, 16, 24].getD j 0

def vrng (key ctr : Word) : Nat :=
  let step (p : Nat × Nat) (j : Nat) : Nat × Nat :=
    let k := if j % 2 = 0 then key.toNat % 2 ^ 32 else key.toNat / 2 ^ 32
    let x := (p.1 + (p.2 ^^^ k) + 0x9E3779B9 * (j + 1) % 2 ^ 32) % 2 ^ 32
    (x, rot32 p.2 (vrngRot j) ^^^ x)
  let p := (List.range 8).foldl step (ctr.toNat % 2 ^ 32, ctr.toNat / 2 ^ 32)
  (p.1 + p.2) % 2 ^ 32

/-- The number that stochastic rounding draws for element n of a stream (R154). -/
def srDraw (key : Word) (stream n : Nat) : Nat := vrng key (BitVec.ofNat 64 (stream % 256 * 2 ^ 56 + n % 2 ^ 56))

end Sys2Proof.Machine
end

