-- ==== Sys2Proof/Machine/Special.lean ====
section
/-! DEFINITION. The special functions of the vector unit: exact cases (R185), and elsewhere any value within the bound of R184 (log
entry 4); the activation table (R186). Reference values are computed in fixed point with 96 fraction bits, and from the first terms of their series for the smallest arguments. -/

namespace Sys2Proof.Machine

def fixOne : Nat := 2 ^ 96
/-- ln 2 and pi with 96 fraction bits. -/
def ln2Fix : Nat := 54916777467707473351141471128
def piFix : Nat := 248902613312231085230521944622

def fixMul (a b : Nat) : Nat := a * b / fixOne

/-- Terms y^k / k! from k = `k` on; the even and odd ones carry alternating signs where `alt` is set. -/
def series (y : Nat) (alt : Bool) (step : Nat) : Nat → Nat → Nat → Int → Int
  | 0, _, _, acc => acc
  | fuel + 1, k, term, acc =>
    let next := if step = 1 then fixMul term y / (k + 1) else fixMul (fixMul term y) y / ((k + 1) * (k + 2))
    let sign : Int := if alt && decide (k / step % 2 = 1) then -1 else 1
    series y alt step fuel (k + step) next (acc + sign * term)

/-- exp(y), sin(y), cos(y) for 0 ≤ y < 2. -/
def expFix (y : Nat) : Nat := (series y false 1 40 0 fixOne 0).toNat
def cosFix (y : Nat) : Nat := (series y true 2 24 0 fixOne 0).toNat
def sinFix (y : Nat) : Nat :=
  (series y true 2 24 1 y 0).toNat

/-- floor(sqrt n), bit by bit. -/
def isqrt (n : Nat) : Nat → Nat → Nat
  | 0, acc => acc
  | i + 1, acc => isqrt n i (if (acc + 2 ^ i) * (acc + 2 ^ i) ≤ n then acc + 2 ^ i else acc)

/-- The fraction bits of log2(m / 2^96), 1 ≤ m / 2^96 < 2, from repeated squaring. -/
def log2Fix : Nat → Nat → Nat → Nat
  | 0, _, acc => acc
  | i + 1, m, acc =>
    let q := fixMul m m
    if 2 * fixOne ≤ q then log2Fix i (q / 2) (2 * acc + 1) else log2Fix i q (2 * acc)

/-- A magnitude as fixed point. -/
def Mag.fix (a : Mag) : Nat := (Mag.mul a ⟨1, 1, 96⟩).floor
def Mag.ofFix (n : Nat) (e : Int) : Mag := ⟨n, 1, e - 96⟩

/-- One ulp of the FP32 value of a magnitude, subnormals included (R184). -/
def ulp32 (a : Mag) : Mag := if a.n = 0 then ⟨1, 1, -149⟩ else ⟨1, 1, max a.log2 (-126) - 23⟩

/-- Is a signed value an integer; its integer part and whether the fraction is one half. -/
def Mag.isInt (a : Mag) : Bool := a.eqv (Mag.ofNat a.floor)
def Mag.isHalf (a : Mag) : Bool := (a.add a).isInt && !a.isInt

/-- A power of two. -/
def Mag.pow2? (a : Mag) : Option Int := if a.n ≠ 0 ∧ a.eqv ⟨1, 1, a.log2⟩ then some a.log2 else none

/-- An argument so small that the first terms of a series are the closer reference. -/
def Mag.tiny (a : Mag) : Bool := a.le ⟨1, 1, -40⟩
/-- Half the square. -/
def Mag.halfSq (y : Mag) : Mag := (y.mul y).mul ⟨1, 1, -1⟩
/-- The argument by a constant with 96 fraction bits. -/
def Mag.byFix (a : Mag) (c : Nat) : Mag := a.mul ⟨c, 1, -96⟩

/-- sin(pi*x) of x ≥ 0, as a signed value. -/
def sinPi (x : Mag) : Num :=
  if x.tiny then let y := x.byFix piFix; .fin false (y.sub ((y.mul y).mul (y.div (Mag.ofNat 6)))) else
  let i := x.floor
  let f := (x.sub (Mag.ofNat i)).fix
  let g := if f ≤ fixOne / 2 then f else fixOne - f
  .fin (decide (i % 2 = 1)) (Mag.ofFix (sinFix (fixMul g piFix)) 0)

/-- cos(pi*x) of x ≥ 0. -/
def cosPi (x : Mag) : Num :=
  if x.tiny then .fin false ((Mag.ofNat 1).sub (x.byFix piFix).halfSq) else
  let i := x.floor
  let f := (x.sub (Mag.ofNat i)).fix
  let (g, flip) := if f ≤ fixOne / 2 then (f, false) else (fixOne - f, true)
  .fin (decide (i % 2 = 1) != flip) (Mag.ofFix (cosFix (fixMul g piFix)) 0)

/-- 2^x of a signed x with |x| < 256. -/
def exp2Num (s : Bool) (x : Mag) : Num :=
  let y := x.byFix ln2Fix
  if x.tiny then .fin false (if s then ((Mag.ofNat 1).sub y).add y.halfSq else ((Mag.ofNat 1).add y).add y.halfSq) else
  let i := x.floor
  let f := (x.sub (Mag.ofNat i)).fix
  if !s then .fin false (Mag.ofFix (expFix (fixMul f ln2Fix)) i)
  else .fin false (Mag.ofFix (expFix (fixMul (fixOne - f) ln2Fix)) (-(i : Int) - 1))

/-- log2 of a positive magnitude. -/
def log2Num (x : Mag) : Num :=
  let e := x.log2
  let frac := log2Fix 90 (Mag.mul x ⟨1, 1, -e⟩).fix 0
  (Num.ofInt e).add (.fin false ⟨frac, 1, -90⟩)

/-- 1 / sqrt(x): the root of 2^240 / x, scaled back. -/
def rsqrtNum (x : Mag) : Num :=
  let e := x.log2 - (if x.log2 % 2 = 0 then 0 else 1)
  let y := Mag.mul x ⟨1, 1, -e⟩
  .fin false ⟨isqrt ((Mag.mk 1 1 240).div y).floor 130 0, 1, -120 - e / 2⟩

/-- The exact cases of R185; `none` where the bound of R184 decides. Functions: 0 VRCP, 1 VRSQ, 2 VEXP2, 3 VLOG2, 4 VSIN, 5 VCOS. -/
def specialExact (fn : Nat) (x : Num) : Option Num :=
  match fn, x with
  | _, .nan => some .nan
  | 0, .inf s => some (.fin s Mag.zero)
  | 0, .fin s a => if a.le ⟨1, 1, -128⟩ then some (.inf s) else
      match a.pow2? with
      | some e => if -126 ≤ -e then some (.fin s ⟨1, 1, -e⟩) else none
      | none => none
  | 1, .inf s => some (if s then .nan else Num.zero)
  | 1, .fin s a => if a.n = 0 then some (.inf s) else if s then some .nan else
      match a.pow2? with
      | some e => if e % 2 = 0 then some (.fin false ⟨1, 1, -(e / 2)⟩) else none
      | none => none
  | 2, .inf s => some (if s then Num.zero else .inf false)
  | 2, .fin s a =>
    if !s && (Mag.ofNat 128).le a then some (.inf false)
    else if s && (Mag.ofNat 150).le a then some Num.zero
    else if a.isInt then some (.fin false ⟨1, 1, if s then -(a.floor : Int) else a.floor⟩) else none
  | 3, .inf s => some (if s then .nan else .inf false)
  | 3, .fin s a => if a.n = 0 then some (.inf true) else if s then some .nan else a.pow2?.map Num.ofInt
  | 4, .inf _ => some .nan
  | 4, .fin s a =>
    if a.isInt then some (.fin s Mag.zero)
    else if a.isHalf then some (.fin (s != decide (a.floor % 2 = 1)) (Mag.ofNat 1)) else none
  | _, .inf _ => some .nan
  | _, .fin _ a =>
    if a.isInt then some (.fin (decide (a.floor % 2 = 1)) (Mag.ofNat 1))
    else if a.isHalf then some Num.zero else none

/-- The reference value, with the error that R184 allows. -/
def specialRef (fn : Nat) (s : Bool) (a : Mag) : Num × Mag :=
  let two (m : Mag) : Mag := m.add m
  let larger (m n : Mag) : Mag := if m.le n then n else m
  let magn (x : Num) : Mag := match x with | .fin _ m => m | _ => Mag.zero
  match fn with
  | 0 => let v : Num := .fin s ((Mag.ofNat 1).div a); (v, ulp32 (magn v))
  | 1 => let v := rsqrtNum a; (v, ulp32 (magn v))
  | 2 => let v := exp2Num s a; (v, ulp32 (magn v))
  | 3 => let v := log2Num a; (v, larger (ulp32 (magn v)) ⟨1, 1, -22⟩)
  | 4 => let v := sinPi a; (if s then v.flip else v, larger (two (ulp32 (magn v))) ⟨1, 1, -24⟩)
  | _ => let v := cosPi a; (v, larger (two (ulp32 (magn v))) ⟨1, 1, -24⟩)

/-- Does a value lie within the bound of the reference (R184)? -/
def closeTo (v ref : Num) (bound : Mag) : Bool :=
  match v.add ref.flip with
  | .fin _ d => d.le bound
  | _ => false

/-- The FP32 function (R184, R185): elsewhere than in the exact cases the implementation's own value, where it keeps to the bound. -/
def specialF32 (fn x : Nat) : Nat :=
  let v := decodeNum 32 x
  match specialExact fn v, v with
  | some r, _ => rne 32 r
  | none, .fin s a =>
    let (ref, bound) := specialRef fn s a
    let mine := Config.special fn x % 2 ^ 32
    if closeTo (decodeNum 32 mine) ref bound then mine else rne 32 ref
  | none, _ => rne 32 .nan

/-- On the elements of a type: widened exactly, computed, rounded (R184). -/
def specialElem (fn fmt x : Nat) : Nat :=
  if fmt = 32 then specialF32 fn x else rne fmt (decodeNum 32 (specialF32 fn (rne 32 (decodeNum fmt x))))

/-! ### The activation table (R186) -/

def ActTab.segment (t : ActTab) (x : BitVec 32) : Nat :=
  match f32 (f32Mul (toF32 ((f32 x).add (f32 t.lo).flip)) t.rstep) with
  | .nan => 0
  | .inf s => if s then 0 else 255
  | .fin s a => if s then 0 else min 255 a.floor

def ActTab.apply (t : ActTab) (x : BitVec 32) : BitVec 32 :=
  let w := t.seg.get 0 (t.segment x)
  f32Fma (w.setWidth 32) x (w.extractLsb' 32 32)

end Sys2Proof.Machine
end

