-- ==== Sys2Proof/Machine/Vector.lean ====
section
/-! DEFINITION. The vector unit (R161 to R193): the value of every vector word, the vector queue and its turns, repeated words, and the
conversion queues (R157 to R160, R192). -/

namespace Sys2Proof.Machine

/-! ### Elements (R162) -/

/-- The format code of a lane type. -/
def laneFormat (t : Nat) : Nat := [32, 2, 1, 33, 34, 35, 8, 9].getD t 32
def laneWidth (t : Nat) : Nat := 32 / typeCount t

/-- Elements of width w of a bit stream, and back (R136, R162). -/
def elemsOf (w n x : Nat) : List Nat := (List.range n).map (fun i => x / 2 ^ (w * i) % 2 ^ w)
def packElems (w : Nat) (l : List Nat) : Nat := l.foldr (fun x acc => x % 2 ^ w + 2 ^ w * acc) 0

def vecElems (t : Nat) (v : VReg) : List Nat := elemsOf (laneWidth t) (32 * typeCount t) v.toNat

/-- The integer an element holds. -/
def elemInt (t x : Nat) : Int := if t = 4 ∨ t = 7 then x else signedOf (laneWidth t) x
/-- The range of an integer type. -/
def elemLow (t : Nat) : Int := if t = 4 ∨ t = 7 then 0 else -(2 ^ (laneWidth t - 1))
def elemHigh (t : Nat) : Int := if t = 4 ∨ t = 7 then 2 ^ laneWidth t - 1 else 2 ^ (laneWidth t - 1) - 1
/-- An exact integer result, wrapped or clamped (R164, R171). -/
def elemOfInt (t : Nat) (sat : Bool) (z : Int) : Nat :=
  wrapNat (laneWidth t) (if sat then (if z < elemLow t then elemLow t else if elemHigh t < z then elemHigh t else z) else z)

/-! ### Operations on elements (R171 to R175) -/

inductive Arith where
  | add | sub | mul
  deriving DecidableEq, Repr

def arithElem (op : Arith) (t : Nat) (sat : Bool) (x y : Nat) : Nat :=
  if isFloatType t then
    let f := laneFormat t
    let a := decodeNum f x
    let b := decodeNum f y
    rne f (match op with | .add => a.add b | .sub => a.add b.flip | .mul => a.mul b)
  else
    let a := elemInt t x
    let b := elemInt t y
    elemOfInt t sat (match op with | .add => a + b | .sub => a - b | .mul => a * b)

/-- Order by value, −0 below +0. -/
def numBelow (a b : Num) : Bool := a.lt b || (a.isZero && b.isZero && a.neg && !b.neg)

/-- VMIN and VMAX (R172). -/
def minElem (t x y : Nat) : Nat :=
  if isFloatType t then
    let f := laneFormat t
    let a := decodeNum f x
    let b := decodeNum f y
    if a.isNan || b.isNan then rne f .nan else if numBelow b a then y else x
  else if elemInt t y < elemInt t x then y else x
def maxElem (t x y : Nat) : Nat :=
  if isFloatType t then
    let f := laneFormat t
    let a := decodeNum f x
    let b := decodeNum f y
    if a.isNan || b.isNan then rne f .nan else if numBelow a b then y else x
  else if elemInt t x < elemInt t y then y else x

/-- VABS and VNEG (R172). -/
def absElem (t : Nat) (sat : Bool) (x : Nat) : Nat :=
  if isFloatType t then
    let f := laneFormat t
    if (decodeNum f x).isNan then rne f .nan else x % 2 ^ (laneWidth t - 1)
  else elemOfInt t sat (elemInt t x).natAbs
def negElem (t : Nat) (sat : Bool) (x : Nat) : Nat :=
  if isFloatType t then
    let f := laneFormat t
    if (decodeNum f x).isNan then rne f .nan else x ^^^ 2 ^ (laneWidth t - 1)
  else elemOfInt t sat (-elemInt t x)

/-- The shifts (R173): 0 VSHL, 1 VSHR, 2 VSAR. -/
def shiftElem (kind t x n : Nat) : Nat :=
  let w := laneWidth t
  match kind with
  | 0 => x * 2 ^ n % 2 ^ w
  | 1 => x / 2 ^ n
  | _ => wrapNat w (signedOf w x / 2 ^ n)

def fmaElem (t x y z : Nat) : Nat :=
  if isFloatType t then
    let f := laneFormat t
    rne f (((decodeNum f x).mul (decodeNum f y)).add (decodeNum f z))
  else elemOfInt t false (elemInt t x * elemInt t y + elemInt t z)

/-- VDOT4 of one lane (R174). -/
def dotLane (t : Nat) (xs ys : List Nat) (c : Nat) : Nat :=
  if isFloatType t then
    let f := laneFormat t
    let ps := (xs.zip ys).map (fun p => (decodeNum f p.1).mul (decodeNum f p.2))
    rne 32 ((decodeNum 32 c).add (match ps with | [] => Num.zero | p :: r => r.foldl Num.add p))
  else wrapNat 32 (signedOf 32 c + ((xs.zip ys).map (fun p => elemInt t p.1 * elemInt t p.2)).foldl (· + ·) 0)

/-- The relations of VCMP (R175). -/
def relElem (c t x y : Nat) : Bool :=
  if isFloatType t then
    let a := decodeNum (laneFormat t) x
    let b := decodeNum (laneFormat t) y
    let un := a.isNan || b.isNan
    match c with
    | 0 => a.eqv b
    | 1 => !a.eqv b
    | 2 => !un && a.lt b
    | 3 => !un && !b.lt a
    | 4 => !un && b.lt a
    | 5 => !un && !a.lt b
    | 6 => un
    | _ => !un
  else
    let a := elemInt t x
    let b := elemInt t y
    match c with
    | 0 => decide (a = b) | 1 => decide (a ≠ b) | 2 => decide (a < b) | 3 => decide (a ≤ b) | 4 => decide (b < a)
    | 5 => decide (b ≤ a) | 6 => false | _ => true

/-! ### Whole registers -/

def vzip (t : Nat) (f : Nat → Nat → Nat) (a b : VReg) : VReg :=
  BitVec.ofNat 1024 (packElems (laneWidth t) (List.zipWith f (vecElems t a) (vecElems t b)))
def vmap (t : Nat) (f : Nat → Nat) (a : VReg) : VReg := BitVec.ofNat 1024 (packElems (laneWidth t) ((vecElems t a).map f))
def vzip3 (t : Nat) (f : Nat → Nat → Nat → Nat) (a b c : VReg) : VReg :=
  BitVec.ofNat 1024 (packElems (laneWidth t)
    (List.zipWith (fun p z => f p.1 p.2 z) ((vecElems t a).zip (vecElems t b)) (vecElems t c)))

def lanesOf (v : VReg) : List Nat := elemsOf 32 32 v.toNat
def laneElems (t x : Nat) : List Nat := elemsOf (laneWidth t) (typeCount t) x
def maskOf (f : Nat → Bool) : BitVec 32 := BitVec.ofNat 32 (packElems 1 ((List.range 32).map (fun i => bit (f i))))

def vdot (t : Nat) (a b c : VReg) : VReg :=
  ofLanes (fun i => BitVec.ofNat 32 (dotLane t (laneElems t (lane a i).toNat) (laneElems t (lane b i).toNat) (lane c i).toNat))

def vcmpMask (c t : Nat) (any : Bool) (a b : VReg) : BitVec 32 :=
  maskOf (fun i =>
    let r := List.zipWith (relElem c t) (laneElems t (lane a i).toNat) (laneElems t (lane b i).toNat)
    if any then r.any id else r.all id)

def vperm (a b : VReg) : VReg :=
  ofLanes (fun i => if (lane b i).getLsbD 31 then 0 else lane a ((lane b i).toNat % 32))

/-! ### Reductions and scans (R182, R183) -/

/-- The combination of two lanes. -/
def combine (op t x y : Nat) : Nat :=
  let each (f : Nat → Nat → Nat) : Nat := packElems (laneWidth t) (List.zipWith f (laneElems t x) (laneElems t y))
  match op with
  | 0 => each (arithElem .add t false)
  | 1 => each (minElem t)
  | 2 => each (maxElem t)
  | 3 => x &&& y
  | 4 => x ||| y
  | _ => x ^^^ y

def pairUp (f : Nat → Nat → Nat) : List Nat → List Nat
  | x :: y :: r => f x y :: pairUp f r
  | l => l

/-- The levels of the tree: lanes, N1 to N5. -/
def treeLevels (f : Nat → Nat → Nat) (lanes : List Nat) : List (List Nat) :=
  (List.range 5).foldl (fun acc _ => acc ++ [pairUp f (acc.getLast?.getD [])]) [lanes]

def reduceLanes (op t : Nat) (v : VReg) : Nat := ((treeLevels (combine op t) (lanesOf v)).getD 5 []).headD 0

/-- The identity of a scan, per element. -/
def scanIdentity (op t : Nat) : Nat :=
  let e : Nat := match op with
    | 0 => 0
    | 1 => if isFloatType t then rne (laneFormat t) (.inf false) else wrapNat (laneWidth t) (elemHigh t)
    | 2 => if isFloatType t then rne (laneFormat t) (.inf true) else wrapNat (laneWidth t) (elemLow t)
    | 3 => 2 ^ laneWidth t - 1
    | _ => 0
  packElems (laneWidth t) (List.replicate (typeCount t) e)

/-- Lanes 0 to n − 1 combined from the aligned blocks of n, largest first. -/
def scanTo (f : Nat → Nat → Nat) (levels : List (List Nat)) (n : Nat) : Option Nat :=
  ((List.range 6).reverse.foldl (fun (acc : Option Nat × Nat) k =>
    if n / 2 ^ k % 2 = 0 then acc
    else
      let node := (levels.getD k []).getD (acc.2 / 2 ^ k) 0
      (some (match acc.1 with | none => node | some x => f x node), acc.2 + 2 ^ k)) (none, 0)).1

def vscan (op t : Nat) (excl : Bool) (v : VReg) : VReg :=
  let levels := treeLevels (combine op t) (lanesOf v)
  ofLanes (fun i => BitVec.ofNat 32 ((scanTo (combine op t) levels (if excl then i else i + 1)).getD (scanIdentity op t)))

/-! ### Conversions (R150 to R154, R179, R190, R191) -/

/-- A run of elements converted; under SR (mode 5) each takes the next number of its stream. -/
def convertRun {α : Type} (key : Word) (stream n0 mode : Nat) (f : Nat → Nat → α → Cvt) : List α → Nat → List Cvt
  | [], _ => []
  | x :: r, i => f mode (if mode = 5 then srDraw key stream (n0 + i) else 0) x :: convertRun key stream n0 mode f r (i + 1)

/-- What a vector word gives: where it goes, its value, which bits, its latency, how many elements it converted, and flags. -/
structure VOut where
  dst : Dst
  latch : Nat := 4
  val : Nat
  mask : Nat := 2 ^ 1024 - 1
  lat : Nat := 2
  draws : Nat := 0
  sat : Bool := false
  nanz : Bool := false

def vOut (d : BitVec 5) (x : VReg) (lat : Nat := 2) : VOut := { dst := .v d.toNat, val := x.toNat, lat := lat }
def mOut (d : Nat) (x : BitVec 32) : VOut := { dst := .m d, val := x.toNat }
/-- A g result also goes to b3 (R165). -/
def gOut (d : BitVec 6) (x : Nat) : VOut := { dst := gDst d, latch := 3, val := x }

/-- The source elements of VCVT in destination order. -/
def cvtSources (t y hi : Nat) (a b : VReg) : List Nat :=
  let cs := typeCount t
  let cd := typeCount y
  (List.range 32).flatMap (fun i =>
    let la := laneElems t (lane a i).toNat
    if cd = cs then la
    else if cd = 2 * cs then la ++ laneElems t (lane b i).toNat
    else (la.drop (hi * cd)).take cd)

def vcvt (key : Word) (stream n0 mode : Nat) (d : BitVec 5) (t y hi : Nat) (a b : VReg) : VOut :=
  if t = y then vOut d a
  else
    let xs := cvtSources t y hi a b
    let r := convertRun key stream n0 mode (fun m r x => convert (laneFormat t) (laneFormat y) m r x) xs 0
    { dst := .v d.toNat, val := packElems (laneWidth y) (r.map (·.pat)), draws := if mode = 5 then xs.length else 0,
      sat := r.any (·.sat), nanz := r.any (·.nanz) }

def magOfNum : Num → Mag | .fin _ m => m | _ => Mag.zero

/-- The scale byte and the value of a block's scale (R190). -/
def blockScale (code : Nat) (m : Mag) : Nat × Mag :=
  let f := elemFormat code
  let big := magOf f (maxBody f false)
  if blockOf code = 32 then
    let e := if m.n = 0 then 127 else (max 0 (min 254 (m.log2 - big.log2 + 127))).toNat
    (e, ⟨1, 1, (e : Int) - 127⟩)
  else
    let s := if m.n = 0 then 0x38 else (convertNum 5 3 0 (.fin false (m.div big))).pat
    (s, magOf 5 s)

/-- One block of VQNT: its scale byte, its elements, draws and flags. -/
def quantBlock (key : Word) (stream n0 mode code : Nat) (xs : List Nat) : Nat × List Cvt :=
  let f := elemFormat code
  let vals := xs.map (decodeNum 32)
  if vals.any (fun v => v.isNan || v.isInf) then
    (if blockOf code = 32 then 0xFF else 0x7F, xs.map (fun _ => { pat := 0, nanz := true }))
  else
    let m := vals.foldl (fun acc v => if acc.lt (magOfNum v) then magOfNum v else acc) Mag.zero
    let (s, scale) := blockScale code m
    (s, convertRun key stream n0 mode (fun md r x =>
      match decodeNum 32 x with
      | .fin n a => convertNum f md r (.fin n (a.div scale))
      | v => convertNum f md r v) xs 0)

/-- The numbers that a block draws under SR: one for each element. Log entry 55: the elements of a block that holds a NaN or an infinity are all written as 0 and draw none. -/
def blockDraws (mode : Nat) (xs : List Nat) : Nat :=
  if mode = 5 && !(xs.map (decodeNum 32)).any (fun v => v.isNan || v.isInf) then xs.length else 0

/-- VQNT (R190). -/
def vqnt (key : Word) (stream n0 mode : Nat) (d : BitVec 5) (code : Nat) (a : VReg) : VOut :=
  let xs := lanesOf a
  let w := elemWidth (elemFormat code)
  if blockOf code = 32 then
    let (s, l) := quantBlock key stream n0 mode code xs
    { dst := .v d.toNat, val := packElems w (l.map (·.pat)) + s * 2 ^ 992, draws := blockDraws mode xs,
      sat := l.any (·.sat), nanz := l.any (·.nanz) }
  else
    let n1 := blockDraws mode (xs.take 16)
    let (s, l) := quantBlock key stream n0 mode code (xs.take 16)
    let (s', l') := quantBlock key stream (n0 + n1) mode code (xs.drop 16)
    { dst := .v d.toNat, val := packElems w ((l ++ l').map (·.pat)) + (s + 256 * s') * 2 ^ 992,
      draws := n1 + blockDraws mode (xs.drop 16), sat := (l ++ l').any (·.sat), nanz := (l ++ l').any (·.nanz) }

/-- The value of a scale byte (R140). -/
def scaleNum (block s : Nat) : Num :=
  if block = 32 then (if s = 255 then .nan else .fin false ⟨1, 1, (s : Int) - 127⟩) else decodeNum 5 s

/-- VDQNT (R191): a finite product beyond the range gives the largest number and CVSAT. -/
def vdqnt (d : BitVec 5) (code : Nat) (a : VReg) : VOut :=
  let f := elemFormat code
  let w := elemWidth f
  let one (i : Nat) : Cvt :=
    let s := scaleNum (blockOf code) (a.toNat / 2 ^ (992 + 8 * (i / blockOf code)) % 256)
    match (decodeNum f (a.toNat / 2 ^ (w * i) % 2 ^ w)).mul s with
    | .fin n m =>
      let c := convertNum 32 0 0 (.fin n m)
      if c.sat then { pat := encodeBody 32 n (maxBody 32 n), sat := true } else { pat := c.pat }
    | x => { pat := rne 32 x }
  let l := (List.range 32).map one
  { dst := .v d.toNat, val := packElems 32 (l.map (·.pat)), sat := l.any (·.sat) }

/-! ### What a vector word computes -/

/-- What the word needs of its core besides the quadrant's registers. -/
structure VEnv where
  key : Word := 0
  stream : Nat := 0
  n0 : Nat := 0
  mode : Nat := 0
  act : ActTab := {}

def isSignedType (t : Nat) : Bool := t = 3 || t = 5 || t = 6

/-- A lane extended to a g register (R180, R182). -/
def laneToG (signed : Bool) (w x : Nat) : Nat := if signed then wrapNat 64 (signedOf w x) else x

/-- The value of an own-layout or layout word. VQPUT and VQGET have their own turn. -/
def vecOut (q : Quad) (env : VEnv) : Instr → Option VOut
  | .vadd d a b t s => some (vOut d (vzip t.toNat (arithElem .add t.toNat (decide (s = 1))) (q.vr a.toNat) (q.vr b.toNat)))
  | .vsub d a b t s => some (vOut d (vzip t.toNat (arithElem .sub t.toNat (decide (s = 1))) (q.vr a.toNat) (q.vr b.toNat)))
  | .vmul d a b t s => some (vOut d (vzip t.toNat (arithElem .mul t.toNat (decide (s = 1))) (q.vr a.toNat) (q.vr b.toNat)) 4)
  | .vfma d a b t c => some (vOut d (vzip3 t.toNat (fmaElem t.toNat) (q.vr a.toNat) (q.vr b.toNat) (q.vr c.toNat)) 4)
  | .vmin d a b t => some (vOut d (vzip t.toNat (minElem t.toNat) (q.vr a.toNat) (q.vr b.toNat)))
  | .vmax d a b t => some (vOut d (vzip t.toNat (maxElem t.toNat) (q.vr a.toNat) (q.vr b.toNat)))
  | .vabs d a t s => some (vOut d (vmap t.toNat (absElem t.toNat (decide (s = 1))) (q.vr a.toNat)))
  | .vneg d a t s => some (vOut d (vmap t.toNat (negElem t.toNat (decide (s = 1))) (q.vr a.toNat)))
  | .vand d a b => some (vOut d (q.vr a.toNat &&& q.vr b.toNat))
  | .vor d a b => some (vOut d (q.vr a.toNat ||| q.vr b.toNat))
  | .vxor d a b => some (vOut d (q.vr a.toNat ^^^ q.vr b.toNat))
  | .vshl d a b t i => some (vOut d (shifted 0 t.toNat i (q.vr a.toNat) (q.vr b.toNat) b.toNat))
  | .vshr d a b t i => some (vOut d (shifted 1 t.toNat i (q.vr a.toNat) (q.vr b.toNat) b.toNat))
  | .vsar d a b t i => some (vOut d (shifted 2 t.toNat i (q.vr a.toNat) (q.vr b.toNat) b.toNat))
  | .vcmp m a b t y c => some (mOut m.toNat (vcmpMask c.toNat t.toNat (decide (y = 1)) (q.vr a.toNat) (q.vr b.toNat)))
  | .vsel d a b m =>
    some (vOut d (ofLanes (fun i => if (q.mr m.toNat).getLsbD i then lane (q.vr a.toNat) i else lane (q.vr b.toNat) i)))
  | .vcvt d a b t h y => some (vcvt env.key env.stream env.n0 env.mode d t.toNat y.toNat h.toNat (q.vr a.toNat) (q.vr b.toNat))
  | .vred d a t g o =>
    let x := reduceLanes o.toNat t.toNat (q.vr a.toNat)
    some (if g = 1 then gOut d (laneToG (decide (t = 3)) 32 x)
      else { dst := .v (d.toNat % 32), val := packElems 32 (List.replicate 32 x) })
  | .vscan d a t x o => some (vOut d (vscan o.toNat t.toNat (decide (x = 1)) (q.vr a.toNat)))
  | .vperm d a b => some (vOut d (vperm (q.vr a.toNat) (q.vr b.toNat)))
  | .vbcast d a t =>
    some (vOut d (BitVec.ofNat 1024 (packElems (laneWidth t.toNat) (List.replicate (32 * typeCount t.toNat) (q.src a).toNat))))
  | .vextr d a e t l =>
    let w := laneWidth t.toNat
    some (gOut d (laneToG (isSignedType t.toNat) w ((q.vr a.toNat).toNat / 2 ^ (32 * l.toNat + w * e.toNat) % 2 ^ w)))
  | .vins d a e t l =>
    let w := laneWidth t.toNat
    let at_ := 32 * l.toNat + w * e.toNat
    some { dst := .v d.toNat, val := (q.src a).toNat % 2 ^ w * 2 ^ at_, mask := (2 ^ w - 1) * 2 ^ at_ }
  | .vrcp d a t => some (vOut d (vmap t.toNat (specialElem 0 (laneFormat t.toNat)) (q.vr a.toNat)) 8)
  | .vrsq d a t => some (vOut d (vmap t.toNat (specialElem 1 (laneFormat t.toNat)) (q.vr a.toNat)) 8)
  | .vexp2 d a t => some (vOut d (vmap t.toNat (specialElem 2 (laneFormat t.toNat)) (q.vr a.toNat)) 8)
  | .vlog2 d a t => some (vOut d (vmap t.toNat (specialElem 3 (laneFormat t.toNat)) (q.vr a.toNat)) 8)
  | .vsin d a t => some (vOut d (vmap t.toNat (specialElem 4 (laneFormat t.toNat)) (q.vr a.toNat)) 8)
  | .vcos d a t => some (vOut d (vmap t.toNat (specialElem 5 (laneFormat t.toNat)) (q.vr a.toNat)) 8)
  | .vact d a => some (vOut d (ofLanes (fun i => env.act.apply (lane (q.vr a.toNat) i))) 8)
  | .vrng d a b k =>
    some (vOut d (ofLanes (fun i => BitVec.ofNat 32 (vrng (q.src k) ((lane (q.vr b.toNat) i) ++ (lane (q.vr a.toNat) i))))))
  | .vqnt d a f => some (vqnt env.key env.stream env.n0 env.mode d f.toNat (q.vr a.toNat))
  | .vdqnt d a f => some (vdqnt d f.toNat (q.vr a.toNat))
  | .vdot4 d a b t c => some (vOut d (vdot t.toNat (q.vr a.toNat) (q.vr b.toNat) (q.vr c.toNat)) 4)
  | .vmovmMv d a => some (mOut d.toNat (maskOf (fun i => decide (lane (q.vr a.toNat) i ≠ 0))))
  | .vmovmVm d m => some (vOut d (ofLanes (fun i => if (q.mr m.toNat).getLsbD i then 0xFFFFFFFF else 0)))
  | .vmovmMg m a => some (mOut m.toNat ((q.src a).setWidth 32))
  | .mlog d a b g f =>
    let x := q.mr a.toNat
    let y := q.mr b.toNat
    some (if g = 0 then mOut (d.toNat % 8) (maskOf (fun i => truth f (x.getLsbD i) (y.getLsbD i)))
      else gOut d (match f.toNat with
        | 0 => (List.range 32).countP (fun i => (x &&& y).getLsbD i)
        | 1 => ((List.range 32).find? (fun i => (x &&& y).getLsbD i)).getD 32
        | _ => (x &&& y).toNat))
  | .vidx d t => some (vOut d (BitVec.ofNat 1024 (packElems (laneWidth t.toNat) (List.range (32 * typeCount t.toNat)))))
  | .vli d k i =>
    let x : BitVec 32 := match k.toNat with
      | 0 => i.signExtend 32
      | 1 => i ++ (0 : BitVec 16)
      | _ => i ++ i
    some (vOut d (ofLanes (fun _ => x)))
  | _ => none
where
  shifted (kind t : Nat) (i : BitVec 1) (a b : VReg) (n : Nat) : VReg :=
    if i = 1 then vmap t (fun x => shiftElem kind t x n) a
    else vzip t (fun x y => shiftElem kind t x (y % laneWidth t)) a b

/-! ### Registers and latches of a vector word (R42) -/

def vs (l : List (BitVec 5)) : List Dst := l.map (fun x => .v x.toNat)

def vecUse : Instr → Use
  | .vadd d a b _ _ | .vsub d a b _ _ | .vmul d a b _ _ | .vmin d a b _ | .vmax d a b _ | .vand d a b | .vor d a b | .vxor d a b
  | .vperm d a b => { reads := vs [a, b], writes := vs [d] }
  | .vshl d a b _ i | .vshr d a b _ i | .vsar d a b _ i => { reads := vs (if i = 1 then [a] else [a, b]), writes := vs [d] }
  | .vfma d a b _ c | .vdot4 d a b _ c => { reads := vs [a, b, c], writes := vs [d] }
  | .vabs d a _ _ | .vneg d a _ _ | .vscan d a _ _ _ | .vrcp d a _ | .vrsq d a _ | .vexp2 d a _ | .vlog2 d a _ | .vsin d a _
  | .vcos d a _ | .vact d a | .vqnt d a _ | .vdqnt d a _ => { reads := vs [a], writes := vs [d] }
  | .vcmp m a b _ _ _ => { reads := vs [a, b], writes := [.m m.toNat] }
  | .vsel d a b m => { reads := .m m.toNat :: vs [a, b], writes := vs [d] }
  | .vcvt d a b t _ y => { reads := vs (if typeCount y.toNat = 2 * typeCount t.toNat then [a, b] else [a]), writes := vs [d] }
  | .vred d a _ g _ => if g = 1 then { reads := vs [a], writes := gDsts d, wlatch := 3 } else { reads := vs [a], writes := [.v (d.toNat % 32)] }
  | .vbcast d a _ | .vins d a _ _ _ => { reads := srcRegs [a], latches := srcLatches [a], writes := vs [d] }
  | .vextr d a _ _ _ => { reads := vs [a], writes := gDsts d, wlatch := 3 }
  | .vrng d a b k => { reads := srcRegs [k] ++ vs [a, b], latches := srcLatches [k], writes := vs [d] }
  | .vmovmMv d a => { reads := vs [a], writes := [.m d.toNat] }
  | .vmovmVm d m => { reads := [.m m.toNat], writes := vs [d] }
  | .vmovmMg m a => { reads := srcRegs [a], latches := srcLatches [a], writes := [.m m.toNat] }
  | .mlog d a b g _ =>
    if g = 0 then { reads := [.m a.toNat, .m b.toNat], writes := [.m (d.toNat % 8)] }
    else { reads := [.m a.toNat, .m b.toNat], writes := gDsts d, wlatch := 3 }
  | .vidx d _ | .vli d _ _ | .vqget d _ => { writes := vs [d] }
  | .vqput a _ => { reads := vs [a] }
  | _ => {}

/-- Iteration t of a repeated word, as the word it executes (R169). -/
def iteration (i : Instr) (t : Nat) : Instr :=
  match i with
  | .repeatedVectorWord _ sd sa sb sc op d a b ty c =>
    let st (x : BitVec 5) (y : BitVec 3) : Nat := (x.toNat + t * y.toNat) % 32
    match decodeWord (2 * 2 ^ 29 + op.toNat * 2 ^ 23 + st d sd * 2 ^ 18 + st a sa * 2 ^ 13 + st b sb * 2 ^ 8 + ty.toNat * 2 ^ 5 + st c sc) with
    | .instr j => j
    | .illegal _ => i
  | _ => i

def isRepeated : Instr → Bool
  | .repeatedVectorWord .. => true
  | _ => false

/-- Everything that an entry may read and write. -/
def entryUse (i : Instr) (total : Nat) : Use :=
  if isRepeated i then
    let us := (List.range (min 32 total)).map (fun t => vecUse (iteration i t))
    { reads := (us.flatMap (·.reads)).eraseDups, writes := (us.flatMap (·.writes)).eraseDups }
  else vecUse i

/-! ### The conversion queues (R157 to R160, R192) -/

def State.srKey (s : State) (c : Nat) : Word := (s.task (s.taskAt c)).srkey

/-- Elements converted by an engine of core `c`: counts and MSTATUS flags follow (R154, R155). -/
def State.convertAt (s : State) (c stream mode src dst : Nat) (xs : List Nat) : State × List Nat :=
  let k := s.core c
  let r := convertRun (s.srKey c) stream (k.srcnt.get 0 stream) mode (fun m r x => convert src dst m r x) xs 0
  (s.updCore c (fun k =>
    let k := k.flag s.cycle (r.any (·.sat)) (r.any (·.nanz))
    if mode = 5 then { k with srcnt := k.srcnt.set 0 stream (k.srcnt.get 0 stream + xs.length) } else k), r.map (·.pat))

/-- A source beat enters queue k, if it holds fewer than 8 (R192). -/
def Core.cqRoom (k : Core) (i : Nat) : Bool := decide ((k.cq.get [] i).length < 8)
def Core.cqPush (k : Core) (i : Nat) (beat : VReg) : Core := { k with cq := k.cq.set [] i (k.cq.get [] i ++ [beat]) }

/-- A beat whose elements have all been popped leaves the queue. How many it holds goes by the SRC in force: a write of CQFMTi may make it the fewer (R160, log entry 122). -/
def Core.cqTrim (k : Core) (i : Nat) : Core :=
  if 1024 / codeWidth (k.cqSrc i) ≤ k.cqPos.get 0 i then { k with cq := k.cq.set [] i ((k.cq.get [] i).drop 1), cqPos := k.cqPos.set 0 i 0 } else k

/-- Elements of width `w` left in queue i. -/
def Core.cqLeft (k : Core) (i : Nat) : Nat :=
  ((k.cqTrim i).cq.get [] i).length * (1024 / codeWidth (k.cqSrc i)) - (k.cqTrim i).cqPos.get 0 i

/-- The next `n` source elements, and the core without them. -/
def Core.cqTake (k : Core) (i : Nat) : Nat → Core × List Nat
  | 0 => (k, [])
  | n + 1 =>
    let w := codeWidth (k.cqSrc i)
    let k := k.cqTrim i
    match k.cq.get [] i with
    | [] => (k, [])
    | b :: r =>
      let p := k.cqPos.get 0 i
      let x := b.toNat / 2 ^ (w * p) % 2 ^ w
      let k := if 1024 / w ≤ p + 1 then { k with cq := k.cq.set [] i r, cqPos := k.cqPos.set 0 i 0 }
        else { k with cqPos := k.cqPos.set 0 i (p + 1) }
      let (k, l) := k.cqTake i n
      (k, x :: l)

/-- Elements popped from queue i of core c, converted as they are popped (R159). -/
def State.cqPop (s : State) (c i n : Nat) : State × List Nat :=
  let (k, xs) := (s.core c).cqTake i n
  (s.setCore c k).convertAt c (8 + i) (k.cqMode i) (k.cqSrc i) (k.cqSink i) xs

/-- The next sink beat of queue i: the elements that it takes are popped, and converted as they are; the last beat of a source beat is padded (R159, R160, R192). Log entry 98: a
source beat keeps its place in the queue until its last element has been popped. -/
def State.cqBeat (s : State) (c i : Nat) : State × Option VReg :=
  let k := (s.core c).cqTrim i
  let (carry, n) := k.cqBits.get (0, 0) i
  let fresh := decide (k.cqPos.get 0 i = 0)
  if n = 0 ∧ (k.cq.get [] i).isEmpty then (s, none)
  else
    let w := codeWidth (k.cqSink i)
    let left := if (n ≠ 0 ∧ fresh) ∨ (k.cq.get [] i).isEmpty then 0 else 1024 / codeWidth (k.cqSrc i) - k.cqPos.get 0 i
    let m := min left (cdiv (1024 - n) w)
    let (s, l) := s.cqPop c i m
    let x := carry + packElems w l * 2 ^ n
    let rest := n + m * w - 1024
    (s.updCore c (fun k => { k with cqBits := k.cqBits.set (0, 0) i (x / 2 ^ 1024, rest) }), some (BitVec.ofNat 1024 x))

/-! ### The turn of the vector unit -/

/-- A result on its way. -/
def Quad.vecLand (q : Quad) (o : VOut) (t : Nat) : Quad :=
  { q with pend := q.pend ++ [{ eng := 2, dst := o.dst, latch := o.latch, val := o.val, mask := o.mask, land := t + o.lat }] }

/-- The word at the head has issued in cycle t: a repeated word goes on to its next iteration, any other leaves the queue. -/
def Quad.vecNext (q : Quad) (e : VecEntry) (rest : List VecEntry) (t : Nat) : Quad :=
  if isRepeated e.word && decide (q.prog0 + 1 < e.total) then { q with prog0 := q.prog0 + 1, vcyc := t + 1, vecAt := t + 1 }
  else if isRepeated e.word then { q with prog0 := 0, vecQ := rest, vcyc := t + 1, vecAt := t + 1 }
  else { q with vecQ := rest, vcyc := t + 1, vecAt := t + 1 }

/-- One computing word, with all that it reads landed: result, flags and SR counts. -/
def State.vecCompute (s : State) (i : Instr) (e : VecEntry) (rest : List VecEntry) (t : Nat) : State :=
  let c := s.cur.core
  let u := s.cur.quad
  let env : VEnv := { key := s.srKey c, stream := u, n0 := s.myCore.srcnt.get 0 u, mode := e.mode, act := s.myCore.act }
  match vecOut s.me env i with
  | none => s.updMe (fun q => q.vecNext e rest t)
  | some o =>
    let s := if o.draws = 0 then s else s.updMyCore (fun k => { k with srcnt := k.srcnt.set 0 u (k.srcnt.get 0 u + o.draws) })
    s.updMe (fun q => ((q.flag t o.sat o.nanz).vecLand o t).vecNext e rest t)

/-- FMT of a VQPUT or VQGET (R193): the faulting word and the rest are the vector queue image. -/
def State.vecFormat (s : State) (e : VecEntry) (k f : Nat) : State :=
  s.takeTrap false s.cur.core s.cur.quad causeFMT s.me.pc (BitVec.ofNat 64 f) (s.myCore.cqf k) (BitVec.ofNat 64 k) e.wordAt

/-- The head of the vector queue, when its registers allow it (R165, R42). Log entry 99: a word of a replayed vector queue image counts as a word after the return: the multiply
entries' offsets start at its issue, where it comes before the first word at the splitter (R77). -/
def State.vecTurn (s : State) : State :=
  let q := s.me
  match q.vecQ with
  | [] => s
  | e :: rest =>
    let now := max s.cycle (max q.vecAt q.vcyc)
    let again (t : Nat) : State := s.updMe (fun q => { q with vecAt := t })
    if isRepeated e.word && decide (e.total ≤ q.prog0) then s.updMe (fun q => { q with prog0 := 0, vecQ := rest, vecAt := now })
    else
      let i := iteration e.word q.prog0
      let u := vecUse i
      if q.owesMemTo e.seq u then again (now + 1)
      else
        let q := q.landRead 2 u
        let t := q.clear 2 u now
        if now < t then again t
        else
          let s := s.updMe (fun _ => (q.thaw 2 t).landDue t)
          match i with
          | .vqput a f =>
            if s.myCore.cqSrc 0 ≠ f.toNat then s.vecFormat e 0 f.toNat
            else if !s.myCore.cqRoom 0 then s.updMe (fun q => { q with vecAt := t + 1 })
            else
              let x := s.me.vr a.toNat
              (s.updMyCore (fun k => (k.cqPush 0 x).serve s.cur.quad)).updMe (fun q => q.vecNext e rest t)
          | .vqget d f =>
            if s.myCore.cqSink 2 ≠ f.toNat then s.vecFormat e 2 f.toNat
            else match s.cqBeat s.cur.core 2 with
              | (s, none) => s.updMe (fun q => { q with vecAt := t + 1 })
              | (s, some x) => (s.updMyCore (fun k => k.serve s.cur.quad)).updMe (fun q => (q.vecLand (vOut d x) t).vecNext e rest t)
          | _ => s.vecCompute i e rest t

/-- The splitter steers a vector word (R38, R39): it waits for a place among 8; the word issues at once where nothing holds it. -/
def State.vecWord (s : State) (i : Instr) (total : Nat) : State :=
  let q := s.me
  if 8 ≤ q.vecQ.length then s.poll
  else
    let u := entryUse i total
    let e : VecEntry := { word := i, wordAt := q.pc, total := total, mode := q.rmode % 8, reads := u.reads, latches := u.latches,
                          writes := u.writes, wlatch := u.wlatch, seq := q.seq }
    let t := max q.cyc q.vcyc
    let empty := q.vecQ.isEmpty
    let s := s.updMe (fun q =>
      let q := q.thaw 0 q.cyc
      ({ q with vecQ := q.vecQ ++ [e], seq := q.seq + 1, vecAt := if empty then t else q.vecAt } : Quad).retire 0)
    if empty && decide (t = q.cyc) then s.vecTurn.updMe Quad.catchUp else s


end Sys2Proof.Machine
end

