-- ==== Sys2Proof/Machine/Engine.lean ====
section
/-! DEFINITION. What the matrix engine and the copy engine share: reads and writes of an engine at any home (R206, R213, R234, R367),
semaphores (R199), and the traps and suspensions that an engine raises for a quadrant (R226, R253, R255). -/

namespace Sys2Proof.Machine

/-! ### Semaphores (R199) -/

/-- The signals of cycle `now` so far. -/
def Core.smFresh (k : Core) (now i : Nat) : Nat := if k.smAt = now then k.smNew.get 0 i else 0
/-- The takes of cycle `now` so far. -/
def Core.smTaken (k : Core) (now i : Nat) : Nat := if k.smAt = now then k.smTook.get 0 i else 0
/-- A signal adds one and can be taken from the next cycle on; sm0 is no semaphore. It comes before the takes of its cycle: the count that 0xFFFF bounds is the one
without them. -/
def Core.smSignal (k : Core) (now i : Nat) : Core :=
  if i = 0 ∨ 0xFFFF ≤ k.sm.get 0 i + k.smTaken now i then k
  else { k with
    sm := k.sm.set 0 i (k.sm.get 0 i + 1), smAt := now, smNew := (if k.smAt = now then k.smNew else Tab.empty).set 0 i (k.smFresh now i + 1)
    smTook := if k.smAt = now then k.smTook else Tab.empty }
/-- A take succeeds when the count, without the signals of the same cycle, is at least one, or at once for sm0. -/
def Core.smReady (k : Core) (now i : Nat) : Bool := decide (i = 0) || decide (k.smFresh now i < k.sm.get 0 i)
def Core.smTake (k : Core) (now i : Nat) : Core :=
  if i = 0 then k
  else { k with
    sm := k.sm.set 0 i (k.sm.get 0 i - 1), smAt := now, smNew := if k.smAt = now then k.smNew else Tab.empty
    smTook := (if k.smAt = now then k.smTook else Tab.empty).set 0 i (k.smTaken now i + 1) }

/-! ### Reads and writes of an engine -/

/-- Asks another package once, then waits for the answer (R367, R379). -/
def State.portAsk (s : State) (p : Port) (ag : Agent) (ty : Nat) (a : Word) (aux kind : Nat) (payload : List (BitVec 8)) :
    State × Port × Except Perf (List (BitVec 8)) :=
  match p.ask with
  | none =>
    let pk := s.packetTo ag ty a 0 aux s.tokens payload
    if s.unreachable (pkgOf a) then (s, {}, .error (.trap causePROT a 15 (memInfo ag.asid kind 0 0)))
    else if s.canSend pk then ((s.send pk).newToken, { p with ask := some s.tokens }, .error .retry)
    else (s, p, .error .retry)
  | some _ =>
    match p.answer with
    | none => (s, p, .error .retry)
    | some r =>
      let p := { p with ask := none, answer := none }
      if r.status = 0 then (s, p, .ok r.bytes) else (s, {}, .error (perfOfStatus ag.asid kind 0 a r))

/-- A read of `n` bytes by an engine: at once in this package, 256 bytes at a time from another. `ty` is its request packet. -/
def State.portRead (s : State) (p : Port) (ag : Agent) (ty kind : Nat) (a : Word) (n : Nat) :
    State × Port × Except Perf (List (BitVec 8)) :=
  if n = 0 then (s, {}, .ok [])
  else
    let r := s.read ag a n
    match r.res with
    | .ok b => (r.st, {}, .ok b)
    | .remote =>
      let have_ := p.got.length
      match s.portAsk p ag ty (a + BitVec.ofNat 64 have_) (min 256 (n - have_) - 1) kind [] with
      | (s, p, .ok b) =>
        if n ≤ have_ + b.length then (s, {}, .ok ((p.got ++ b).take n)) else (s, { p with got := p.got ++ b }, .error .retry)
      | x => x
    | x => (r.st, p, .error (perfOf ag.asid kind 0 a x))

/-- A write of bytes by an engine; to another package in packets of at most 256 bytes, each acknowledged (R368, R379). -/
def State.portWrite (s : State) (p : Port) (ag : Agent) (kind : Nat) (a : Word) (b : List (BitVec 8)) : State × Port × Except Perf Unit :=
  if b = [] then (s, {}, .ok ())
  else
    let r := s.write ag a b
    match r.res with
    | .ok _ => (r.st, {}, .ok ())
    | .remote =>
      let part := (b.drop p.sent).take 256
      match s.portAsk p ag 6 (a + BitVec.ofNat 64 p.sent) 0 kind part with
      | (s, p, .ok _) =>
        if b.length ≤ p.sent + part.length then (s, {}, .ok ()) else (s, { p with sent := p.sent + part.length }, .error .retry)
      | (s, p, .error e) => (s, p, .error e)
    | x => (r.st, p, .error (perfOf ag.asid kind 0 a x))

/-! ### Traps and suspensions for a quadrant -/

/-- A trap that a quadrant takes at its next word boundary (R226, R253, R306). -/
def State.raiseFor (s : State) (c qn : Nat) (r : TrapReq) : State := s.updQuad c qn (fun q => { q with trapReqs := q.trapReqs ++ [r] })

/-- The quadrant takes the oldest of them; EPC holds the next word, or the wait that is abandoned. -/
def execEngineTrapTaken (core quad : Nat) (s : State) : Host.Outcome State Fault Refusal :=
  .next (match (s.quadOf core quad).trapReqs with
    | [] => s
    | r :: rest =>
      let s := s.updQuad core quad (fun q => { q with trapReqs := rest })
      s.trapAt core quad r.cause (r.epc.getD (s.quadOf core quad).pc) r.e0 r.e1 r.e2 r.e3)

/-- The task of a core is suspended for an engine (R206, R255). -/
def State.suspendCore (s : State) (c : Nat) (cause : SuspCause) (w : WaitFor) : State :=
  ({ s with cur := { s.cur with core := c } }).suspendFor cause w

end Sys2Proof.Machine
end

