-- ==== Sys2Proof/Machine/Array.lean ====
section
/-! DEFINITION. The arithmetic of the array and the epilogue: products, group sums, accumulation (R142 to R146), low-rank correction
(R214), and output (R213). -/

namespace Sys2Proof.Machine

/-- Is a format code one that carries a block scale? -/
def isBlocked (f : Nat) : Bool := decide (20 ≤ f ∧ f ≤ 31)

/-- The number of an element in a matrix format. -/
def operandNum (f x : Nat) : Num := decodeNum (elemFormat f) x

/-- A product (R143), and whether a scaled product saturated. -/
def scaledProduct (a w sa sw : Num) : Num × Bool :=
  let aw := a.mul w
  let sig := sa.mul sw
  if a.isNan || w.isNan || sa.isNan || sw.isNan || aw.isNan then (.nan, false)
  else match aw with
    | .inf n => (.inf (n != sig.neg), false)
    | .fin n m =>
      match sig with
      | .fin t g =>
        if f32Max.lt g && decide (m.n ≠ 0) then (.fin (n != t) f32Max, true) else (.fin (n != t) (m.mul g), false)
      | _ => (.nan, false)
    | .nan => (.nan, false)

/-- floor(p * 2^k) of a signed finite number. -/
def floorScaled (neg : Bool) (m : Mag) (k : Int) : Int :=
  let x : Mag := { m with e := m.e + k }
  let lo := x.floor
  if neg then (if x.eqv (Mag.ofNat lo) then -(lo : Int) else -(lo : Int) - 1) else lo

/-- A group sum (R144). -/
def groupSum (ps : List Num) : Num :=
  if ps.any Num.isNan || (ps.any (fun p => p.isInf && !p.neg) && ps.any (fun p => p.isInf && p.neg)) then .nan
  else match ps.find? Num.isInf with
    | some p => p
    | none =>
      let live := ps.filter (fun p => !p.isZero)
      match live with
      | [] => Num.zero
      | p :: r =>
        let top := r.foldl (fun e q => max e (magOfNum q).log2) (magOfNum p).log2
        let t := (live.map (fun q => floorScaled q.neg (magOfNum q) (45 - top))).foldl (· + ·) 0
        decodeNum 32 (rne 32 (.fin (decide (t < 0)) ⟨t.natAbs, 1, top - 45⟩))

/-- The list cut into groups of 32, four of them. -/
def fourGroups (ps : List Num) : List Num := (List.range 4).map (fun g => groupSum ((ps.drop (32 * g)).take 32))

/-- Accumulation on the float path (R145). -/
def floatAcc (ctl : Nat) (fade acc : BitVec 32) (sums : List Num) : BitVec 32 :=
  let add (a : BitVec 32) (s : Num) : BitVec 32 := toF32 ((f32 a).add s)
  match ctl, sums with
  | 0, s :: r => r.foldl add (toF32 s)
  | 1, l => l.foldl add acc
  | _, l => l.foldl add (f32Mul fade acc)

/-- Exact accumulation (R146), and whether it saturated. -/
def intAcc (ctl : Nat) (acc : BitVec 32) (sum : Int) : BitVec 32 × Bool :=
  let v := if ctl = 0 then sum else acc.toInt + sum
  if 2 ^ 31 - 1 < v then (0x7FFFFFFF, true) else if v < -(2 ^ 31) then (0x80000000, true) else (BitVec.ofInt 32 v, false)

/-- The scale of element k of a run with scale bytes, 1 where there is none. -/
def scaleAt (f : Nat) (scales : List Nat) (k : Nat) : Num :=
  if isBlocked f then scaleNum (blockOf f) (scales.getD (k / blockOf f) 0) else Num.ofInt 1

/-- Column n of a buffer: its 128 elements, of which those of rows from k on are zero, and the scale of row k (R203: rows from k on take scale 1). -/
def WBuf.column (w : WBuf) (n : Nat) : List Num :=
  (List.range 128).map (fun kk => if kk < w.k then operandNum w.fmt (elem (w.rows.get 0 kk) n).toNat else Num.zero)
def WBuf.scaleOf (w : WBuf) (n kk : Nat) : Num :=
  if isBlocked w.fmt && decide (kk < w.k) then scaleNum (blockOf w.fmt) (w.scales.get 0 (8 * n + kk / blockOf w.fmt)) else Num.ofInt 1

/-- One element of the accumulators after a row of A in format fa (R143 to R146). -/
def accElem (fa : Nat) (xs scales : List Nat) (w : WBuf) (ctl : Nat) (fade acc : BitVec 32) (n : Nat) : BitVec 32 × Bool :=
  let col := w.column n
  if isExactInt fa && isExactInt w.fmt then
    let int (x : Num) : Int := match x with | .fin s m => if s then -(m.n : Int) else m.n | _ => 0
    intAcc ctl acc ((List.zipWith (fun x y => int (operandNum fa x) * int y) xs col).foldl (· + ·) 0)
  else
    let ps := (List.range 128).map (fun k =>
      scaledProduct (operandNum fa (xs.getD k 0)) (col.getD k Num.zero) (scaleAt fa scales k) (w.scaleOf n k))
    (floatAcc ctl fade acc (fourGroups (ps.map Prod.fst)), ps.any Prod.snd)

/-- A whole accumulator row after a row of A. -/
def accRow (fa : Nat) (xs scales : List Nat) (w : WBuf) (ctl : Nat) (fade : BitVec 32) (acc : Row) : Row × Bool :=
  let l := (List.range 64).map (fun n => accElem fa xs scales w ctl fade (elem acc n) n)
  (ofElems (fun n => (l.getD n (0, false)).1), l.any Prod.snd)

/-- The correction of a row (R214): pass 1 to F19, pass 2 onto the row. -/
def correctRow (ad : Adapter) (fa : Nat) (xs scales : List Nat) (acc : Row) : Row × Bool :=
  let r := ad.rank
  if r = 0 then (acc, false)
  else
    let al (k c : Nat) : Num := operandNum ad.fmt (ad.elems.getD (k * r + c) 0)
    let bl (c n : Nat) : Num := operandNum ad.fmt (ad.elems.getD (128 * r + c * 64 + n) 0)
    let one := Num.ofInt 1
    let p1 := (List.range r).map (fun c =>
      let ps := (List.range 128).map (fun k => scaledProduct (operandNum fa (xs.getD k 0)) (al k c) (scaleAt fa scales k) one)
      (rne 0 (f32 (floatAcc 0 0 0 (fourGroups (ps.map Prod.fst)))), ps.any Prod.snd))
    let t := p1.map Prod.fst
    let p2 := (List.range 64).map (fun n =>
      let ps := (List.range r).map (fun c => scaledProduct (decodeNum 0 (t.getD c 0)) (bl c n) one one)
      (floatAcc 1 0 (elem acc n) (fourGroups (ps.map Prod.fst)), ps.any Prod.snd))
    (ofElems (fun n => (p2.getD n (0, false)).1), p1.any Prod.snd || p2.any Prod.snd)

/-- Rows that enter per two cycles, by the larger element width (R195). -/
def rowsPerTwo (fa fw : Nat) : Nat :=
  let w := max (elemWidth (elemFormat fa)) (elemWidth (elemFormat fw))
  if 16 ≤ w then 1 else if 8 ≤ w then 2 else if 4 ≤ w then 4 else 8

/-! ### Output (R213) -/

/-- Columns that the scale table does not list have scale 1.0 (R194). -/
def qscaleOne : BitVec 32 := 0x3F800000

/-- One row of output elements; conversions under SR count from n0. -/
def outRow (k : Core) (key : Word) (mode ofmt : Nat) (b a q inp : Bool) (acc : Row) : List Cvt :=
  let stage (n : Nat) : BitVec 32 :=
    let p := elem acc n
    let v := if inp then toF32 (Num.ofInt p.toInt) else p
    let v := if b then f32Add v (elem k.bias n) else v
    if a then k.act.apply v else v
  let scale (n : Nat) : BitVec 32 := k.qscale.get qscaleOne n
  if !b && !a && !q && (decide (ofmt = 32) || decide (ofmt = 33)) then
    (List.range 64).map (fun n => { pat := (elem acc n).toNat })
  else if q then
    convertRun key 4 (k.srcnt.get 0 4) mode (fun m r x => convertNum ofmt m r x)
      ((List.range 64).map (fun n => ((f32 (stage n)).mul (f32 (scale n))).add (Num.ofInt k.qzero.toInt))) 0
  else if ofmt = 32 then (List.range 64).map (fun n => { pat := (stage n).toNat })
  else convertRun key 4 (k.srcnt.get 0 4) mode (fun m r x => convert 32 ofmt m r x) ((List.range 64).map (fun n => (stage n).toNat)) 0

/-- Does a row of output advance the SR count? -/
def outDraws (mode ofmt : Nat) (b a q : Bool) : Bool :=
  decide (mode = 5) && (q || decide (ofmt ≠ 32)) && !(!b && !a && !q && decide (ofmt = 33))

end Sys2Proof.Machine
end

