-- ==== Sys2Proof/Machine/Matrix.lean ====
section
/-! DEFINITION. The matrix engine and the near-bank engine (R194 to R229): the command queue, starting a command, and what a running command
does in a cycle. -/

namespace Sys2Proof.Machine

/-! ### The fields of a command -/

/-- Op, wait and signal semaphore of a command (R202). -/
def matrixOp : Instr → Nat × Nat × Nat
  | .wld w y .. => (0x00, w.toNat, y.toNat) | .wsel w y => (0x01, w.toNat, y.toNat) | .mstr w y .. => (0x02, w.toNat, y.toNat)
  | .mstq w y .. => (0x03, w.toNat, y.toNat) | .mstx w y .. => (0x04, w.toNat, y.toNat) | .mepiBias w y _ => (0x05, w.toNat, y.toNat)
  | .mepiScale w y _ => (0x05, w.toNat, y.toNat) | .mepiZero w y _ => (0x05, w.toNat, y.toNat) | .mepiAclr w y => (0x05, w.toNat, y.toNat)
  | .mout w y .. => (0x06, w.toNat, y.toNat) | .mgrp w y .. => (0x07, w.toNat, y.toNat) | .mfade w y _ => (0x08, w.toNat, y.toNat)
  | .mact w y _ => (0x09, w.toNat, y.toNat) | .mzero w y .. => (0x0A, w.toNat, y.toNat) | .maccld w y .. => (0x0B, w.toNat, y.toNat)
  | .mnb w y _ => (0x0C, w.toNat, y.toNat) | .mstat w y _ => (0x0D, w.toNat, y.toNat) | .mprog w y _ => (0x0E, w.toNat, y.toNat)
  | .msig w y => (0x0F, w.toNat, y.toNat) | .mcan w y => (0x10, w.toNat, y.toNat)
  | _ => (0x1F, 0, 0)

def MCmd.op (m : MCmd) : Nat := (matrixOp m.word).1
def MCmd.waitSm (m : MCmd) : Nat := (matrixOp m.word).2.1
def MCmd.signalSm (m : MCmd) : Nat := (matrixOp m.word).2.2
def MCmd.arg (m : MCmd) (i : Nat) : Word := m.ops.getD i 0

/-- Format, first accumulator row, rows and control of a stream, an output or an accumulator command. -/
structure Shape where
  fmt : Nat := 0
  base : Nat := 0
  rows : Nat := 0
  ctl : Nat := 0

def MCmd.shape (m : MCmd) : Shape :=
  match m.word with
  | .mstr _ _ base _ c r f n _ | .mstx _ _ base _ c r f n _ =>
    { fmt := f.toNat, base := base.toNat, rows := if n.toNat < 6 then dimProduct m.dims else r.toNat + 1, ctl := c.toNat }
  | .mstq _ _ base _ c r => { base := base.toNat, rows := r.toNat + 1, ctl := c.toNat }
  | .mgrp _ _ base _ c nb f _ _ => { fmt := f.toNat, base := base.toNat, rows := 16 * (nb.toNat + 1), ctl := c.toNat }
  | .mout _ _ base _ _ r _ _ _ f _ _ _ => { fmt := f.toNat, base := base.toNat, rows := r.toNat + 1 }
  | .mzero _ _ b c => { base := b.toNat, rows := c.toNat + 1 }
  | .maccld _ _ base _ r => { base := base.toNat, rows := r.toNat + 1 }
  | _ => {}

def MCmd.isStream (m : MCmd) : Bool := m.op = 2 || m.op = 3 || m.op = 4 || m.op = 7
def MCmd.isAccPort (m : MCmd) : Bool := m.op = 0x0A || m.op = 0x0B
def MCmd.isLoader (m : MCmd) : Bool := m.op = 0 || m.op = 5 || m.op = 9
/-- The commands that may stop at a row boundary and go on later (R225, R227). -/
def MCmd.resumes (m : MCmd) : Bool := m.isStream || m.op = 6 || m.op = 0x0C || m.isAccPort

/-- The row format of a stream: that of the queue for MSTQ (R207). -/
def streamFormat (k : Core) (m : MCmd) : Nat :=
  match m.word with
  | .mstq _ _ _ y _ _ => k.cqSink y.toNat
  | _ => m.shape.fmt

/-! ### The state of a running command -/

/-- Has it yet to complete? -/
def MRun.live (r : MRun) (now : Nat) : Bool := match r.doneAt with | none => true | some t => decide (now < t)

/-- Does the command still feed rows, or (MOUT) still read them? An MGRP feeds until the passes of its last block have entered (R214, R215). -/
def MRun.feeding (r : MRun) (now : Nat) : Bool :=
  r.doneAt.isNone && (decide (r.row < r.cmd.shape.rows) || (decide (r.cmd.op = 7) && decide (now < r.feedAt)))

/-- Do the accumulator rows of two commands meet? -/
def rowsMeet (a b : Shape) : Bool := decide (a.base < b.base + b.rows) && decide (b.base < a.base + a.rows)

/-- The rows of a command that it has yet to read (MOUT) or to write, counted from its first (R198). -/
def MRun.rowsDone (r : MRun) : Nat := if r.cmd.isStream then r.landed else r.row

/-- Has every earlier command of the kinds `p` done its work on accumulator row `acc`: written it, or, an output, read it? Writers keep the command order row by row (R198). -/
def rowFree (p : MCmd → Bool) (earlier : List MRun) (acc : Nat) : Bool :=
  !earlier.any (fun r =>
    let x := r.cmd.shape
    p r.cmd && decide (x.base ≤ acc) && decide (acc < x.base + x.rows) && decide (r.rowsDone ≤ acc - x.base) && r.doneAt.isNone)

/-- A row of a stream lands 192 cycles after it enters, behind those of every earlier stream: it waits for earlier outputs and accumulator commands. -/
def streamRowFree : List MRun → Nat → Bool := rowFree (fun m => m.op = 6 || m.isAccPort)
/-- An accumulator command waits for all of them. -/
def accRowFree : List MRun → Nat → Bool := rowFree (fun m => m.op = 6 || m.isAccPort || m.isStream)

/-- The unit and the interlocks of a command (R197, R198); the rows that a restore reloads are back before an output reads them (R228). -/
def canStart (k : Core) (now : Nat) (m : MCmd) : Bool :=
  let run := k.mrun
  let inactive := if k.abuf then 0 else 1
  let busy (p : MCmd → Bool) : Bool := run.any (fun r => p r.cmd && r.live now)
  if m.isLoader then
    !busy MCmd.isLoader
      && (if m.op = 0 then !run.any (fun r => r.cmd.isStream && decide (r.buf = inactive) && r.doneAt.isNone)
          else if m.op = 5 then !busy (fun c => c.op = 6)
          else !busy (fun c => match c.word with | .mout _ _ _ _ _ _ _ ea .. => decide (ea = 1) | _ => false))
  else if m.isStream || m.op = 1 then !run.any (fun r => r.cmd.isStream && r.feeding now) && !busy (fun c => c.op = 1)
  else if m.op = 6 then !run.any (fun r => (decide (r.cmd.op = 6) && r.feeding now) || (r.cmd.reload && r.doneAt.isNone))
  else if m.isAccPort then !busy MCmd.isAccPort
  else if m.op = 0x0C then !busy (fun c => c.op = 0x0C)
  else true

/-- What has come of a running command in this cycle. -/
inductive MStep where
  | go (r : MRun)
  | trap (r : MRun) (cause : Nat) (e0 e1 e2 : Word)
  | page (r : MRun) (w : WaitFor)

/-- EINFO2 of FMT (R226). -/
def MCmd.where_ (m : MCmd) : Word := BitVec.ofNat 64 (m.quad + 256 * m.op)
def fmtTrap (r : MRun) (code operand : Nat) : MStep := .trap r causeFMT (BitVec.ofNat 64 code) (BitVec.ofNat 64 operand) r.cmd.where_
def alignTrap (r : MRun) (ag : Agent) (kind : Nat) (a : Word) : MStep := .trap r causeALIGN a 4 (memInfo ag.asid kind 0 0)
def protTrap (r : MRun) (ag : Agent) (kind reason : Nat) (a : Word) : MStep :=
  .trap r causePROT a (BitVec.ofNat 64 reason) (memInfo ag.asid kind 0 0)

/-- A refused access of a running command: it waits, is suspended (ROPF, R206; PULL after 3,760 cycles, R265), or traps; a linked
range refuses an output after STALLMAX cycles (R264). -/
def State.engineWait (s : State) (c now : Nat) (ag : Agent) (kind : Nat) (r : MRun) : Perf → MStep
  | .trap cause e0 e1 e2 => .trap { r with port := {}, since := none } cause e0 e1 e2
  | .walk t => .go { r with nextAt := max t (now + 1) }
  | .page f off => .page { r with port := {}, since := none, nextAt := now + 1 } (.page f ag.asid off)
  | .pull f k =>
    let since := r.since.getD now
    if since + 3760 < now ∧ r.cmd.op = 4 then .page { r with nextAt := now + 1, since := some since } (.tile f k)
    else .go { r with nextAt := now + 1, since := some since }
  | .stall _ l at_ _ =>
    let since := r.since.getD now
    let lim := (s.task (s.taskAt c)).stallmax
    if lim ≠ 0 ∧ since + lim < now then .trap { r with port := {}, since := none } causePROT at_ 7 (memInfo ag.asid kind 0 l)
    else .go { r with nextAt := now + 1, since := some since }
  | _ => .go { r with nextAt := now + 1 }

/-- A read of a running command, kind 9; the rest goes on with the bytes. -/
def State.engineRead (s : State) (c now : Nat) (r : MRun) (a : Word) (n : Nat) (k : State → MRun → List (BitVec 8) → State × MStep) :
    State × MStep :=
  let ag := s.agentOf c 3 0
  match s.portRead r.port ag 4 9 a n with
  | (s, _, .ok b) => k s { r with port := {}, since := none } b
  | (s, p, .error e) => (s, s.engineWait c now ag 9 { r with port := p } e)

/-- A write of a running command, kind 10. -/
def State.engineWrite (s : State) (c now : Nat) (r : MRun) (a : Word) (b : List (BitVec 8)) (k : State → MRun → State × MStep) : State × MStep :=
  let ag := s.agentOf c 3 0
  match s.portWrite r.port ag 10 a b with
  | (s, _, .ok _) => k s { r with port := {}, since := none }
  | (s, p, .error e) => (s, s.engineWait c now ag 10 { r with port := p } e)

/-- The latency of R126 before the first bytes of an engine's read come; another package's lies in its packets. -/
def State.engineLatency (s : State) (c : Nat) (a : Word) : Nat := if s.isRemote a then 0 else s.latency (s.agentOf c 3 0) a

/-- Elements of a run of bytes (R136). -/
def runElems (f n : Nat) (b : List (BitVec 8)) : List Nat := elemsOf (elemWidth (elemFormat f)) n (leNat b)
def rowBytes (f n : Nat) : Nat := cdiv (n * elemWidth (elemFormat f)) 8

def MRun.at_ (r : MRun) (t : Nat) : MRun := { r with doneAt := some t }

/-! ### Loads into the engine (R203, R209, R211, R212) -/

def fromSpad (a : Word) : Bool := decide (homeOf a = 15)

/-- WLD reads its tile, then its scale plane. The memory rows still to read are those from `row` on. -/
def State.wldRows (s : State) (c now : Nat) (r : MRun) (a stride : Word) (f k : Nat) (t : Bool) : Nat → State × MStep
  | 0 => (s, .go { r with phase := 1 })
  | fuel + 1 =>
    let total := if t then 64 else k
    if total ≤ r.row then (s, .go { r with phase := 1 })
    else
      let addr := a + BitVec.ofNat 64 r.row * stride
      let n := rowBytes f (if t then k else 64)
      if addr.toNat % 4 ≠ 0 then (s, alignTrap r (s.agentOf c 3 0) 9 addr)
      else s.engineRead c now r addr n (fun s r b =>
        let pad := b ++ List.replicate (rowBytes f 128 - n) 0
        s.wldRows c now { r with row := r.row + 1, data := r.data ++ pad } a stride f k t fuel)

/-- The buffer that a tile's bytes make: rows padded to the bytes of 128 elements. -/
def tileBuffer (f k : Nat) (t : Bool) (data scales : List (BitVec 8)) : WBuf :=
  let w := elemWidth (elemFormat f)
  let span := rowBytes f 128
  let runs := (List.range (if t then 64 else k)).map (fun i => leNat ((data.drop (span * i)).take span))
  let at_ (kk n : Nat) : Nat :=
    if k ≤ kk then 0 else if t then runs.getD n 0 / 2 ^ (w * kk) % 2 ^ w else runs.getD kk 0 / 2 ^ (w * n) % 2 ^ w
  { fmt := f, k := k
    rows := (List.range 128).foldl (fun m kk => m.set 0 kk (ofElems (fun n => BitVec.ofNat 32 (at_ kk n)))) Tab.empty
    scales := if isBlocked f then
        (List.range 64).foldl (fun m n => (List.range (k / blockOf f)).foldl
          (fun m j => m.set 0 (8 * n + j) ((scales.getD (n * (k / blockOf f) + j) 0).toNat)) m) Tab.empty
      else Tab.empty }

/-- The buffer that was inactive when a WLD started. -/
def Core.setOther (k : Core) (active : Nat) (w : WBuf) : Core := if active = 0 then { k with wb1 := w } else { k with wb0 := w }

def State.wldTurn (s : State) (c now : Nat) (r : MRun) (kk f : Nat) (t : Bool) : State × MStep :=
  let a := r.cmd.arg 0
  let stride := if r.cmd.arg 1 = 0 then BitVec.ofNat 64 (rowBytes f (if t then 128 else 64)) else r.cmd.arg 1
  if isBlocked f ∧ kk % blockOf f ≠ 0 then (s, fmtTrap r f 7)
  else if isMarker f ∧ s.feat 1 = false then (s, fmtTrap r f 1)
  else match (if r.phase = 0 then s.wldRows c now r a stride f kk t 130 else (s, .go r)) with
    | (s, .go r) =>
      if r.phase = 0 then (s, .go r)
      else
        let n := if isBlocked f then 64 * (kk / blockOf f) else 0
        if (r.cmd.arg 2).toNat % 4 ≠ 0 ∧ isBlocked f then (s, alignTrap r (s.agentOf c 3 0) 9 (r.cmd.arg 2))
        else s.engineRead c now r (r.cmd.arg 2) n (fun s r b =>
          let s := s.updCore c (fun k => k.setOther r.buf (tileBuffer f kk t r.data b))
          let bytes := (if t then 64 * rowBytes f kk else kk * rowBytes f 64) + n
          (s, .go ({ r with data := [] }.at_ (now + (if fromSpad a then 4 + cdiv bytes 512 else s.engineLatency c a + cdiv bytes 128)))))
    | x => x

/-- One row of words of 4 bytes. -/
def rowOf (b : List (BitVec 8)) : Row := BitVec.ofNat 2048 (leNat (b.take 256))

def qscaleTab (b : List (BitVec 8)) : Tab (BitVec 32) :=
  (List.range 64).foldl (fun t n => t.set qscaleOne n (BitVec.ofNat 32 (leNat ((b.drop (4 * n)).take 4)))) Tab.empty

def actOf (b : List (BitVec 8)) : ActTab :=
  { lo := BitVec.ofNat 32 (leNat (b.take 4)), rstep := BitVec.ofNat 32 (leNat ((b.drop 4).take 4)),
    seg := (List.range 256).foldl (fun t j => t.set 0 j (BitVec.ofNat 64 (leNat ((b.drop (8 + 8 * j)).take 8)))) Tab.empty }

/-- A whole read at the first operand, then, when the last byte has come, an update of the core. -/
def State.loadTurn (s : State) (c now : Nat) (r : MRun) (n lat : Nat) (u : Core → List (BitVec 8) → Core) : State × MStep :=
  let a := r.cmd.arg 0
  if r.phase = 1 then (s.updCore c (fun k => u k r.data), .go ({ r with data := [] }.at_ now))
  else if a.toNat % 4 ≠ 0 then (s, alignTrap r (s.agentOf c 3 0) 9 a)
  else s.engineRead c now r a n (fun s r b =>
    (s, .go { r with data := b, phase := 1, nextAt := now + lat + (if fromSpad a then 0 else s.engineLatency c a) }))

/-- MACCLD, row by row: one a cycle from the scratchpad, 128 bytes a cycle after the latency of R126 from elsewhere (R209, R218). -/
def State.maccldTurn (s : State) (c now : Nat) (earlier : List MRun) (r : MRun) : State × MStep :=
  let x := r.cmd.shape
  let a := r.cmd.arg 0
  if !accRowFree earlier (x.base + r.row) then (s, .go { r with nextAt := now + 1 })
  else if a.toNat % 4 ≠ 0 then (s, alignTrap r (s.agentOf c 3 0) 9 a)
  else if r.phase = 0 ∧ !fromSpad a then (s, .go { r with phase := 1, nextAt := now + s.engineLatency c a })
  else s.engineRead c now r (a + BitVec.ofNat 64 (256 * r.row)) 256 (fun s r b =>
    let s := s.updCore c (fun k => { k with acc := k.acc.set 0 (x.base + r.row) (rowOf b) })
    let r := { r with row := r.row + 1, landed := r.row + 1, nextAt := now + (if fromSpad a then 1 else 2) }
    (s, .go (if x.rows ≤ r.row then r.at_ (now + 3) else r)))

/-- MZERO, 4 rows a cycle (R208). -/
def State.mzeroTurn (s : State) (c now : Nat) (earlier : List MRun) (r : MRun) : State × MStep :=
  let x := r.cmd.shape
  let l := ((List.range (min 4 (x.rows - r.row))).map (x.base + r.row + ·)).takeWhile (accRowFree earlier)
  let r := { r with row := r.row + l.length, nextAt := now + 1 }
  (s.updCore c (fun k => { k with acc := l.foldl (fun t i => t.set 0 i 0) k.acc }), .go (if x.rows ≤ r.row then r.at_ (now + 1) else r))

/-! ### Streams (R205 to R207, R214) -/

/-- Has the block of a row entered whole? The rows of an MGRP block land from then on (R214). -/
def MRun.whole (r : MRun) (row : Nat) : Bool := decide (r.cmd.op ≠ 7) || decide (row / 16 < r.row / 16)

/-- Rows whose cycle has come land in the accumulators (R195). -/
def State.landRows (s : State) (c now : Nat) (r : MRun) : State × MRun :=
  let x := r.cmd.shape
  let lands (a : Air) : Bool := decide (a.landAt ≤ now) && r.whole a.row
  (r.air.filter lands).foldl (fun (p : State × MRun) a =>
    let k := p.1.core c
    let w := if r.buf = 0 then k.wb0 else k.wb1
    let (y, o) := accRow a.fmt a.x a.scales w x.ctl (r.cmd.fade.getD k.fade) (k.acc.get 0 (x.base + a.row))
    let (y, o') := match a.fix with
      | some ad => correctRow ad a.fmt a.x a.scales y
      | none => (y, false)
    (p.1.updCore c (fun k => { k with acc := k.acc.set 0 (x.base + a.row) y }.overflow p.1.cycle (o || o')),
      { p.2 with landed := p.2.landed + 1 })) (s, { r with air := r.air.filter (fun a => !lands a) })

/-- The address of row m of a stream or an output. -/
def MCmd.rowAddr (m : MCmd) (size row : Nat) : Word :=
  if m.dims = [] then m.arg 0 + BitVec.ofNat 64 (row * size) else m.arg 0 + BitVec.ofInt 64 (dimOffset m.dims row)

/-- Row `r.row` has been read: it enters the array; `n` rows have entered in this cycle. -/
def enterRow (now fa fw : Nat) (r : MRun) (x scales : List Nat) (n : Nat) : MRun :=
  let two := rowsPerTwo fa fw
  { r with
    air := r.air ++ [{ row := r.row, fmt := fa, x := x, scales := scales, fix := none, landAt := now + 192 }]
    row := r.row + 1
    data := if r.cmd.op = 7 ∧ (r.row + 1) % 16 ≠ 0 then r.data else []
    phase := 1
    feedAt := if 2 * (n + 1) < two then now else now + (if two = 1 then 2 else 1) }

/-- The last row of an MGRP block has entered: with a correction, the feeder is held for the read of the factors, the 16 entries of pass 1 and the 32 cycles of pass 2, and the rows land
192 cycles after their pass-2 entries (R214, R215, R218). -/
def endBlock (fa : Nat) (r : MRun) : MRun :=
  if r.row % 16 ≠ 0 then r
  else
    let blk := r.row / 16 - 1
    let fix := r.fixes.headD (none, 0)
    let r := { r with fixes := [] }
    match fix with
    | (none, wait) => { r with feedAt := r.feedAt + wait }
    | (some ad, wait) =>
      if ad.rank = 0 then { r with feedAt := r.feedAt + wait }
      else
        let pass2 := r.feedAt + wait + cdiv 32 (rowsPerTwo fa ad.fmt)
        { r with
          air := r.air.map (fun a => if a.row / 16 = blk then { a with fix := some ad, landAt := pass2 + 2 * (a.row % 16) + 192 } else a)
          feedAt := pass2 + 32 }

/-- The refusals of a stream, found before its first row (R146, R205, R214). -/
def streamRefused (s : State) (c : Nat) (r : MRun) : Option MStep :=
  let k := s.core c
  let f := streamFormat k r.cmd
  let fw := (if r.buf = 0 then k.wb0 else k.wb1).fmt
  if isMarker f && !s.feat 1 then some (fmtTrap r f 0)
  else if r.cmd.op = 7 && isBlocked f then some (fmtTrap r f 0)
  else if isExactInt f && isExactInt fw && decide (r.cmd.shape.ctl = 2) then some (fmtTrap r 2 6)
  else none

/-- The first words of an adapter entry: format, rank and pointer, or the value that FMT refuses (R214, R414). DESIGN CHOICE, log entry 129: where reserved bits are set,
that value is the entry's FMT. -/
def State.adapterHead (s : State) (v : Nat) : Except Nat (Nat × Nat × Word) :=
  let fmt := bits v 72 5
  let rank := bits v 64 7
  if bits v 77 51 ≠ 0 ∨ bits v 71 1 ≠ 0 ∨ 20 ≤ fmt ∨ (isMarker fmt ∧ s.feat 1 = false) then .error fmt
  else if rank % 8 ≠ 0 ∨ 64 < rank then .error rank
  else .ok (fmt, rank, BitVec.ofNat 64 (bits v 0 64))

/-- Bytes of the K-factor and of the N-factor. -/
def factorBytes (fmt rank : Nat) : Nat × Nat := (128 * rank * elemWidth fmt / 8, 64 * rank * elemWidth fmt / 8)

/-- An entry with its factors, as the cache keeps it. -/
def adapterOf (table : Word) (ix fmt rank : Nat) (ptr : Word) (b : List (BitVec 8)) : Adapter :=
  let na := (factorBytes fmt rank).1
  { table := table, idx := ix, fmt := fmt, rank := rank, ptr := ptr,
    elems := runElems fmt (128 * rank) (b.take na) ++ runElems fmt (64 * rank) (b.drop na) }

def Core.cacheAdapter (k : Core) (ad : Adapter) : Core := { k with adapters := (ad :: k.adapters.filter (fun y => decide (y ≠ ad))).take 4 }

/-- The adapter table of MGRP: the index word of each block and its entry, from the cache or from memory, with the cycles that the read of the factors takes (R214, R215). -/
def State.adapterEntry (s : State) (c now : Nat) (r : MRun) (table : Word) (ix : Nat) (k : State → MRun → Adapter → Nat → State × MStep) : State × MStep :=
  match (s.core c).adapters.find? (fun ad => decide (ad.table = table) && decide (ad.idx = ix)) with
  | some ad => k (s.updCore c (fun x => x.cacheAdapter ad)) { r with data := [] } ad 0
  | none =>
    let head (s : State) (r : MRun) (b : List (BitVec 8)) : State × MStep :=
      match s.adapterHead (leNat b) with
      | .error x => (s, fmtTrap { r with data := [] } x 3)
      | .ok (fmt, rank, ptr) =>
        let (na, nb) := factorBytes fmt rank
        if ptr.toNat % 4 ≠ 0 then (s, alignTrap { r with data := [] } (s.agentOf c 3 0) 9 ptr)
        else s.engineRead c now r ptr (na + nb) (fun s r f =>
          let ad := adapterOf table ix fmt rank ptr f
          k (s.updCore c (fun x => x.cacheAdapter ad)) { r with data := [] } ad (s.engineLatency c ptr + cdiv (na + nb) 128))
    if r.data ≠ [] then head s r r.data
    else s.engineRead c now r (table + BitVec.ofNat 64 (16 * ix)) 16 (fun s r b => head s { r with data := b } b)

/-- What the index word of an MGRP block says (R214): the entry that corrects it, if one does; bits 14:12 set are refused. -/
def mgrpIndex (r : MRun) (ix : Nat) : Except MStep (Option Nat) :=
  if bits ix 12 3 ≠ 0 then .error (fmtTrap r ix 3) else .ok (if bits ix 15 1 = 1 then none else some (bits ix 0 12))

/-- The refusals of an entry: a marker format without feature 1 (R414), and a correction on an integer pair (R214). -/
def State.mgrpRefused (s : State) (c : Nat) (r : MRun) (fmt rank : Nat) : Option MStep :=
  let k := s.core c
  let f := streamFormat k r.cmd
  let fw := (if r.buf = 0 then k.wb0 else k.wb1).fmt
  if isMarker fmt ∧ s.feat 1 = false then some (fmtTrap r fmt 3)
  else if 0 < rank ∧ isExactInt f ∧ isExactInt fw then some (fmtTrap r f 3)
  else none

/-- Before its first row an MGRP looks through the index words and entries of its blocks for what FMT refuses (R214, R226). Where one cannot be read the look ends: the
fault is that of its own block (log entry 119). -/
def State.mgrpCheck (s : State) (c now : Nat) (r : MRun) : Nat → State × MStep
  | 0 => (s, .go { r with phase := 1, elems := [] })
  | fuel + 1 =>
    let blk := r.credit
    let ag := s.agentOf c 3 0
    let ended (s : State) : State × MStep := (s, .go { r with phase := 1, credit := 0, elems := [], port := {}, since := none })
    let failed (s : State) (p : Port) : Perf → State × MStep
      | .trap .. => ended s
      | .page .. => ended s
      | e => (s, s.engineWait c now ag 9 { r with port := p } e)
    let entry (s : State) (fmt rank : Nat) : State × MStep :=
      match s.mgrpRefused c r fmt rank with
      | some t => (s, t)
      | none => s.mgrpCheck c now { r with credit := blk + 1, elems := [], port := {}, since := none } fuel
    if r.cmd.shape.rows / 16 ≤ blk then ended s
    else match r.elems with
      | [] =>
        match s.portRead r.port ag 4 9 (r.cmd.arg 1 + BitVec.ofNat 64 (2 * blk)) 2 with
        | (s, _, .ok b) => s.mgrpCheck c now { r with elems := [leNat b], port := {}, since := none } fuel
        | (s, p, .error e) => failed s p e
      | ix :: _ =>
        match mgrpIndex r ix with
        | .error t => (s, t)
        | .ok none => s.mgrpCheck c now { r with credit := blk + 1, elems := [] } fuel
        | .ok (some i) =>
          match (s.core c).adapters.find? (fun ad => decide (ad.table = r.cmd.arg 2) && decide (ad.idx = i)) with
          | some ad => entry s ad.fmt ad.rank
          | none =>
            match s.portRead r.port ag 4 9 (r.cmd.arg 2 + BitVec.ofNat 64 (16 * i)) 16 with
            | (s, _, .ok b) =>
              match s.adapterHead (leNat b) with
              | .error x => (s, fmtTrap r x 3)
              | .ok (fmt, rank, _) => entry s fmt rank
            | (s, p, .error e) => failed s p e

/-- The adapter of the block that comes next, read before its rows, so that a fault leaves the whole block to do (R214, R215). -/
def State.mgrpBlock (s : State) (c now : Nat) (r : MRun) (k : State → MRun → State × MStep) : State × MStep :=
  if r.fixes ≠ [] then k s r
  else
    let found (s : State) (r : MRun) (x : Option Adapter) (wait : Nat) : State × MStep := k s { r with fixes := [(x, wait)], elems := [], data := [] }
    let use (s : State) (r : MRun) (ix : Nat) : State × MStep :=
      match mgrpIndex r ix with
      | .error t => (s, t)
      | .ok none => found s r none 0
      | .ok (some i) =>
        s.adapterEntry c now { r with elems := [ix] } (r.cmd.arg 2) i (fun s r ad wait =>
          match s.mgrpRefused c r ad.fmt ad.rank with
          | some t => (s, t)
          | none => found s r (some ad) wait)
    match r.elems with
    | ix :: _ => use s r ix
    | [] => s.engineRead c now r (r.cmd.arg 1 + BitVec.ofNat 64 (2 * (r.row / 16))) 2 (fun s r b => use s r (leNat b))

/-- Reads row `r.row` of a stream; what it reads first are the elements, then the scales. A row or a scale of MSTR outside homes 14 and 15 is refused (R206). -/
def State.streamRow (s : State) (c now n : Nat) (r : MRun) : State × MStep :=
  let k := s.core c
  let f := streamFormat k r.cmd
  let fw := (if r.buf = 0 then k.wb0 else k.wb1).fmt
  let ag := s.agentOf c 3 0
  match r.cmd.word with
  | .mstq _ _ _ y _ _ =>
    if k.cqLeft y.toNat < 128 then (s, .go { r with feedAt := now + 1 })
    else
      let (s, l) := s.cqPop c y.toNat 128
      (s, .go (enterRow now f fw r l [] n))
  | .mgrp .. =>
    -- a block's rows are read together, so that a fault leaves the whole block to do (R214)
    let size := rowBytes f 128
    let a := r.cmd.arg 0 + BitVec.ofNat 64 (r.row * size)
    let enter (r : MRun) : MRun := endBlock f (enterRow now f fw r (runElems f 128 ((r.data.drop (r.row % 16 * size)).take size)) [] n)
    if a.toNat % 4 ≠ 0 then (s, alignTrap r ag 9 a)
    else s.mgrpBlock c now r (fun s r =>
      if r.data ≠ [] then (s, .go (enter r))
      else s.engineRead c now r a (16 * size) (fun s r b => (s, .go (enter { r with data := b }))))
  | _ =>
    let size := rowBytes f 128
    let a := r.cmd.rowAddr size r.row
    let nsc := if isBlocked f then 128 / blockOf f else 0
    let scale := r.cmd.arg 1 + BitVec.ofNat 64 (r.row * nsc)
    let scales (s : State) (r : MRun) : State × MStep :=
      s.engineRead c now r scale nsc (fun s r b => (s, .go (enterRow now f fw r (runElems f 128 r.data) (b.map (·.toNat)) n)))
    if r.cmd.op = 2 ∧ homeOf a < 14 then (s, protTrap r ag 9 11 a)
    else if r.cmd.op = 2 ∧ isBlocked f ∧ homeOf scale < 14 then (s, protTrap r ag 9 11 scale)
    else if a.toNat % 4 ≠ 0 then (s, alignTrap r ag 9 a)
    else if isBlocked f ∧ (r.cmd.arg 1).toNat % 4 ≠ 0 then (s, alignTrap r ag 9 (r.cmd.arg 1))
    else if r.data ≠ [] then scales s r
    else s.engineRead c now r a size (fun s r b => scales s { r with data := b })

/-- As many rows as the class lets enter in this cycle. -/
def State.streamRows (s : State) (c now : Nat) (earlier : List MRun) (r : MRun) (n : Nat) : Nat → State × MStep
  | 0 => (s, .go r)
  | fuel + 1 =>
    let x := r.cmd.shape
    if x.rows ≤ r.row ∨ now < r.feedAt then (s, .go r)
    else if !streamRowFree earlier (x.base + r.row) then (s, .go { r with feedAt := now + 1 })
    else
      let row := r.row
      match s.streamRow c now n r with
      | (s, .go r) => if row < r.row ∧ r.feedAt = now then s.streamRows c now earlier r (n + 1) fuel else (s, .go r)
      | y => y

/-- The latency before the first row of a stream from outside the scratchpad (R126, R206). -/
def State.firstRow (s : State) (c now : Nat) (r : MRun) : Nat :=
  if (r.cmd.op = 4 ∨ r.cmd.op = 7) ∧ !fromSpad (r.cmd.arg 0) ∧ r.row < r.cmd.shape.rows then now + s.engineLatency c (r.cmd.arg 0) else r.feedAt

/-- A stream in a cycle: rows land, rows enter; complete when the last has landed. -/
def State.streamTurn (s : State) (c now : Nat) (earlier : List MRun) (r : MRun) : State × MStep :=
  let (s, r) := s.landRows c now r
  let done (r : MRun) : MRun :=
    if r.cmd.shape.rows ≤ r.row ∧ r.air = [] then r.at_ now
    else { r with nextAt := if r.cmd.shape.rows ≤ r.row then (r.air.map (·.landAt)).foldl min (now + 1000000) else
        (r.air.map (·.landAt)).foldl min (max r.feedAt (max r.nextAt (now + 1))) }
  match (if r.phase = 0 then streamRefused s c r else none) with
  | some t => (s, t)
  | none =>
    match (if r.phase ≠ 0 then (s, .go r) else match (if r.cmd.op = 7 then s.mgrpCheck c now r 40 else (s, .go { r with phase := 1 })) with
      | (s, .go r) => (s, MStep.go (if r.phase = 0 then r else { r with feedAt := s.firstRow c now r }))
      | x => x) with
    | (s, .go r) =>
      if r.phase = 0 then (s, .go r)
      else match s.streamRows c now earlier r 0 8 with
        | (s, .go r) => (s, .go (done r))
        | x => x
    | x => x

/-! ### Output (R213) -/

/-- Queue elements in beats of as many as fit; at the end a partial beat goes too. -/
def Core.pushElems (k : Core) (i w : Nat) (last : Bool) (l : List Nat) : Nat → Core × List Nat
  | 0 => (k, l)
  | fuel + 1 =>
    let n := 1024 / w
    if l = [] ∨ (l.length < n ∧ !last) ∨ !k.cqRoom i then (k, l)
    else (k.cqPush i (BitVec.ofNat 1024 (packElems w (l.take n)))).pushElems i w last (l.drop n) fuel

/-- Pending elements leave for the queue as room allows; the command completes when the last beat is in it. -/
def State.drainQueue (s : State) (c now qi w lat : Nat) (r : MRun) : State × MStep :=
  let last := decide (r.cmd.shape.rows ≤ r.row)
  let (k, l) := (s.core c).pushElems qi w last r.elems 8
  let r := { r with elems := l, landed := (64 * r.row - l.length) / 64, nextAt := now + 1 }
  (s.setCore c k, .go (if last && l.isEmpty then r.at_ (now + lat) else r))

/-- The epilogue registers as an output read them when it started (R198). -/
def Core.epilogue (k : Core) : Epilogue := { bias := k.bias, qscale := k.qscale, qzero := k.qzero, act := k.act }
def Core.withEpilogue (k : Core) (e : Epilogue) : Core := { k with bias := e.bias, qscale := e.qscale, qzero := e.qzero, act := e.act }

def State.moutTurn (s : State) (c now : Nat) (r : MRun) (dk f : Nat) (b a q inp : Bool) : State × MStep :=
  let k := s.core c
  let x := r.cmd.shape
  let w := elemWidth f
  let lat := 2 + (if b then 2 else 0) + (if a then 8 else 0) + (if q then 4 else 0)
  let row (s : State) : State × List Nat :=
    let k := s.core c
    let l := outRow (k.withEpilogue (r.cmd.epi.getD k.epilogue)) (s.srKey c) r.cmd.mode f b a q inp (k.acc.get 0 (x.base + r.row))
    (s.updCore c (fun k =>
      let k := k.flag s.cycle (l.any (·.sat)) (l.any (·.nanz))
      if outDraws r.cmd.mode f b a q then { k with srcnt := k.srcnt.set 0 4 (k.srcnt.get 0 4 + 64) } else k), l.map (·.pat))
  if r.phase = 0 ∧ (!queueCode f ∨ (isMarker f ∧ s.feat 1 = false)) then (s, fmtTrap r f 2)
  else if r.phase = 0 ∧ dk ≠ 0 ∧ k.cqSrc (dk + 1) ≠ f then (s, fmtTrap r f 4)
  else if dk ≠ 0 then
    if x.rows ≤ r.row ∨ 256 ≤ r.elems.length then s.drainQueue c now (dk + 1) w lat { r with phase := 1 }
    else
      let (s, l) := row s
      s.drainQueue c now (dk + 1) w lat { r with phase := 1, row := r.row + 1, elems := r.elems ++ l }
  else
    let addr (m : Nat) : Word := r.cmd.rowAddr (8 * w) m
    let writeRow (s : State) (r : MRun) (m : Nat) : State × MStep :=
      s.engineWrite c now r (addr m) r.data (fun s r =>
        let r := { r with data := [], landed := m + 1, nextAt := now + 1 }
        (s, .go (if x.rows ≤ r.row then r.at_ (now + lat) else r)))
    if r.data ≠ [] then writeRow s r (r.row - 1)
    else if x.rows ≤ r.row then (s, .go (r.at_ (now + lat)))
    else if (addr r.row).toNat % 4 ≠ 0 then (s, alignTrap r (s.agentOf c 3 0) 10 (addr r.row))
    else
      -- the row is read when its place accepts a write, so that a fault leaves it to be read again
      let ag := s.agentOf c 3 0
      let chk := (s.acceptAll ag .store (spans (addr r.row) (8 * w))).1
      match chk.res with
      | .ok _ | .remote =>
        let m := r.row
        let (s, l) := row s
        writeRow s { r with phase := 1, row := m + 1, data := leBytes (8 * w) (packElems w l) } m
      | e => (chk.st, chk.st.engineWait c now ag 10 { r with phase := 1 } (perfOf ag.asid 10 0 (addr r.row) e))

/-! ### Near-bank products (R220 to R224) -/

/-- Does a page of facet f lie in the bank-layout window of stack n (R222)? -/
def State.inBankWindow (s : State) (f stack : Nat) (key : Nat) : Bool :=
  let w := (if stack = 0 then (s.facet f).nbwin0 else (s.facet f).nbwin1).toNat
  let u := key % 2 ^ 48 / 2 ^ 26
  decide (w % 2 = 1) && decide (key / 2 ^ 48 = f) && decide (bits w 12 22 ≤ u) && decide (u ≤ bits w 34 22)

/-- The elements of a row of W, its scales and x give its value (R221). -/
def bankRow (f k : Nat) (ws scales xs : List Nat) : Num × Bool :=
  let ps := (List.range (32 * cdiv k 32)).map (fun i =>
    if i < k then
      scaledProduct (operandNum f (ws.getD i 0)) (decodeNum 2 (xs.getD i 0)) (scaleAt f scales i) (Num.ofInt 1)
    else (Num.zero, false))
  let sums := (List.range (cdiv k 32)).map (fun g => groupSum (((ps.drop (32 * g)).take 32).map Prod.fst))
  (f32 (sums.foldl (fun v x => toF32 ((f32 v).add x)) 0), ps.any Prod.snd)

/-- Reads bytes of W or of its scales: every page in the bank window, else PROT with reason 10. -/
def State.bankRead (s : State) (c now : Nat) (r : MRun) (f stack : Nat) (a : Word) (n : Nat) (k : State → MRun → List (BitVec 8) → State × MStep) :
    State × MStep :=
  let ag := s.agentOf c 3 0
  if n = 0 then k s r []
  else if s.isRemote a ∨ homeOf a ≠ f then (s, protTrap r ag 9 10 a)
  else
    let (acc, ks) := s.acceptAll ag .load (spans a n)
    match acc.res with
    | .ok _ => if ks.all (fun x => s.inBankWindow f stack x.1) then s.engineRead c now r a n k else (acc.st, protTrap r ag 9 10 a)
    | _ => s.engineRead c now r a n k

/-- The facet and the stack of a running MNB, once it has read its descriptor. -/
def MRun.bankOf (r : MRun) : Option (Nat × Nat) :=
  if r.cmd.op = 0x0C ∧ r.phase ≠ 0 ∧ r.doneAt.isNone then some (homeOf (BitVec.ofNat 64 (bits (r.elems.headD 0) 0 64)), bits (r.elems.headD 0) 293 1) else none

/-- The commands that a stack's near-bank engine runs, from any cores: those past their descriptor and their place among 16 (R224). -/
def State.bankShare (s : State) (b : Nat × Nat) : Nat :=
  (s.cores.cells.map (fun c => (c.2.mrun.filter (fun r => decide (r.bankOf = some b) && decide (2 ≤ r.phase))).length)).sum

/-- Rows of an MNB as the bytes that the stack delivers allow: 6,808 a cycle, shared by its commands in turn (R221, R224). -/
def State.mnbRows (s : State) (c now rate need rows : Nat) (one : State → MRun → State × MStep) (r : MRun) : Nat → State × MStep
  | 0 => (s, .go { r with nextAt := now + 1, credit := r.credit + rate })
  | fuel + 1 =>
    if rows ≤ r.row then (s, .go (r.at_ now))
    else if r.credit < need then
      let n := max 1 (cdiv (need - r.credit) rate)
      (s, .go { r with nextAt := now + n, credit := r.credit + n * rate })
    else match one s r with
      | (s', .go x) => if x.row = r.row then (s', .go x) else s'.mnbRows c now rate need rows one { x with credit := r.credit - need } fuel
      | x => x

/-- Reads the descriptor; takes one of the stack's 16 places; reads x; then row after row (R220 to R224). DESIGN CHOICE, log entry 129: for a reserved field that is not
zero EINFO0 holds the number of its lowest bit, 295 or 270. -/
def State.mnbTurn (s : State) (c now : Nat) (r : MRun) : State × MStep :=
  let ag := s.agentOf c 3 0
  let d := r.cmd.arg 0
  if r.phase = 0 then
    if d.toNat % 64 ≠ 0 then (s, alignTrap r ag 9 d)
    else s.engineRead c now r d 64 (fun s r b => (s, .go { r with phase := 1, elems := [leNat b], nextAt := now + 1 }))
  else
    let v := r.elems.headD 0
    let wfmt := bits v 288 5
    let kk := bits v 272 16 + 1
    let rows := bits v 256 14 + 1
    let waddr := BitVec.ofNat 64 (bits v 0 64)
    let xaddr := BitVec.ofNat 64 (bits v 64 64)
    let yaddr := BitVec.ofNat 64 (bits v 128 64)
    let saddr := BitVec.ofNat 64 (bits v 192 64)
    let stack := bits v 293 1
    let fac := homeOf waddr
    let blocked := isBlocked wfmt
    let w := elemWidth (elemFormat wfmt)
    let rs := cdiv (kk * w) 512 * 64
    let ss := cdiv kk 2048 * 64
    if bits v 295 217 ≠ 0 ∨ bits v 270 2 ≠ 0 then (s, fmtTrap r (if bits v 295 217 ≠ 0 then 295 else 270) 5)
    else if !(wfmt = 5 || wfmt = 24 || wfmt = 7 || wfmt = 25 || wfmt = 2) ∨ (wfmt = 7 ∧ s.feat 1 = false) then (s, fmtTrap r wfmt 5)
    else if blocked ∧ kk % 32 ≠ 0 then (s, fmtTrap r kk 5)
    else if homeOf yaddr < 14 then (s, protTrap r ag 10 11 yaddr)
    else if waddr.toNat % 64 ≠ 0 then (s, alignTrap r ag 9 waddr)
    else if saddr.toNat % 64 ≠ 0 then (s, alignTrap r ag 9 saddr)
    else if xaddr.toNat % 4 ≠ 0 then (s, alignTrap r ag 9 xaddr)
    else if yaddr.toNat % 4 ≠ 0 then (s, alignTrap r ag 10 yaddr)
    else if 7 < fac then (s, protTrap r ag 9 10 waddr)
    else if r.phase = 1 then (s, .go (if s.bankShare (fac, stack) < 16 then { r with phase := 2, nextAt := now } else { r with nextAt := now + 1 }))
    else if r.phase = 2 then
      s.engineRead c now r xaddr (2 * kk) (fun s r b =>
        (s, .go { r with phase := 3, elems := v :: elemsOf 16 kk (leNat b), nextAt := now + 400 + cdiv (2 * kk) 128 }))
    else
      let xs := r.elems.drop 1
      let one (s : State) (r : MRun) : State × MStep :=
        let y := yaddr + BitVec.ofNat 64 (4 * r.row)
        s.bankRead c now r fac stack (waddr + BitVec.ofNat 64 (r.row * rs)) (cdiv (kk * w) 8) (fun s r wb =>
          s.bankRead c now r fac stack (saddr + BitVec.ofNat 64 (r.row * ss)) (if blocked then kk / 32 else 0) (fun s r sb =>
            let (val, o) := bankRow wfmt kk (elemsOf w kk (leNat wb)) (sb.map (·.toNat)) xs
            let finish (s : State) (r : MRun) (x : BitVec 32) : State × MStep :=
              s.engineWrite c now r y (leBytes 4 x.toNat) (fun s r =>
                (s.updCore c (fun k => k.overflow s.cycle o), .go { r with row := r.row + 1, landed := r.row + 1 }))
            if bits v 294 1 = 0 then finish s r (toF32 val)
            else s.engineRead c now r y 4 (fun s r old => finish s r (toF32 ((f32 (BitVec.ofNat 32 (leNat old))).add val)))))
      s.mnbRows c now (6808 / max 1 (s.bankShare (fac, stack))) (rs + (if blocked then ss else 0)) rows one r 128

/-! ### A running command in a cycle -/

/-- The command `r` goes on; `earlier` are those that started before it. -/
def State.runTurn (s : State) (c now : Nat) (earlier : List MRun) (r : MRun) : State × MStep :=
  if r.doneAt.isSome ∨ now < r.nextAt then (s, .go r)
  else match r.cmd.word with
    | .wld _ _ _ _ k f t _ => s.wldTurn c now r (k.toNat + 1) f.toNat (decide (t = 1))
    | .wsel _ _ => (s.updCore c (fun k => { k with abuf := !k.abuf }), .go (r.at_ now))
    | .mstr .. | .mstq .. | .mstx .. | .mgrp .. => s.streamTurn c now earlier r
    | .mepiBias .. => s.loadTurn c now r 256 2 (fun k b => { k with bias := rowOf b })
    | .mepiScale .. => s.loadTurn c now r 256 2 (fun k b => { k with qscale := qscaleTab b })
    | .mepiZero .. => s.loadTurn c now r 4 1 (fun k b => { k with qzero := BitVec.ofNat 32 (leNat b) })
    | .mepiAclr .. => (s.updCore c (fun k => { k with adapters := [] }), .go (r.at_ (now + 1)))
    | .mact .. => s.loadTurn c now r 2056 17 (fun k b => { k with act := actOf b })
    | .mout _ _ _ _ k _ eb ea eq f _ _ i => s.moutTurn c now r k.toNat f.toNat (decide (eb = 1)) (decide (ea = 1)) (decide (eq = 1)) (decide (i = 1))
    | .mfade .. => (s.updCore c (fun k => { k with fade := (r.cmd.arg 0).setWidth 32 }), .go (r.at_ (now + 1)))
    | .mzero .. => s.mzeroTurn c now earlier r
    | .maccld .. => s.maccldTurn c now earlier r
    | .mnb .. => s.mnbTurn c now r
    | .msig .. | .mstat .. => (s, .go (if earlier = [] then r.at_ now else { r with nextAt := now + 1 }))
    | .mprog _ _ n =>
      let fin := match earlier.find? (fun e => decide (e.cmd.token = r.watch)) with
        | none => true
        | some e => decide (e.cmd.isStream || e.cmd.op = 6 || e.cmd.op = 0x0C) && decide (n.toNat + 1 ≤ e.landed)
      (s, .go (if fin then r.at_ now else { r with nextAt := now + 1 }))
    | .mcan .. => (s, .go (r.at_ (now + 1)))
    | _ => (s, .go (r.at_ now))

/-- Rows in the array all land at once, in the order of their commands: the engine is stopping (R226, R227). An MGRP goes back to the start of a block that has not entered whole. -/
def State.landAll (s : State) (c : Nat) (r : MRun) : State × MRun :=
  let (s, r) := s.landRows c ((r.air.map (·.landAt)).foldl max 0) r
  (s, if r.cmd.op = 7 then { r with air := [], row := r.row / 16 * 16 } else r)

/-- The command as it stands in the queue image: an output keeps what it has read and not yet written. -/
def MRun.stopped (r : MRun) : MCmd :=
  let out := decide (r.cmd.op = 6) && decide (r.data ≠ [])
  { r.cmd with
    took := true
    watch := some r.watch
    row := if !(r.cmd.isStream || r.cmd.op = 6 || r.cmd.op = 0x0C) then 0 else if out then r.row - 1 else r.row
    held := if r.cmd.op = 6 then r.elems else []
    out := if out then r.data else [] }

/-- The rows of earlier commands that are in the array land before those of a command that stops: accumulator writes keep the order of the commands (R198). -/
def State.landEarlier (s : State) (c : Nat) (l : List MRun) : State × List MRun :=
  l.foldl (fun (p : State × List MRun) r => match p.1.landRows c ((r.air.map (·.landAt)).foldl max 0) r with | (s, r) => (s, p.2 ++ [r])) (s, [])

/-- A matrix trap (R226): the faulting command and all later ones that are not yet done are the image, HALT is set, the earlier ones run on, and the quadrant that pushed it takes the
trap. -/
def State.matrixTrap (s : State) (c : Nat) (r : MRun) (before after : List MRun) (cause : Nat) (e0 e1 e2 : Word) : State :=
  let (s, before) := s.landEarlier c before
  let (s, r) := s.landAll c r
  let cmd := { r.stopped with fault := true }
  let (s, image) := (after.filter (fun x => x.doneAt.isNone)).foldl (fun (p : State × List MCmd) b =>
    match p.1.landAll c b with | (s, b) => (s, p.2 ++ [b.stopped])) (s, [])
  let s := s.updCore c (fun k => { k with
    mrun := before ++ after.filter (fun x => x.doneAt.isSome)
    mq := cmd :: image ++ k.mq
    halt := true
    prog1 := cmd.row })
  s.raiseFor c cmd.quad { cause := cause, e0 := e0, e1 := e1, e2 := e2, e3 := cmd.wordAt }

/-- PROG1.ROW follows the rows of a command as they enter or are read, and is 0 after the last; under HALT it is the image's (R205, R213, R214, R221, R225). -/
def Core.progress (k : Core) (old new : MRun) : Core :=
  if k.halt ∨ new.row = old.row ∨ !(new.cmd.isStream || new.cmd.op = 6 || new.cmd.op = 0x0C) then k
  else { k with prog1 := if (new.cmd.op ≠ 0x0C ∧ new.cmd.shape.rows ≤ new.row) ∨ (new.cmd.op = 0x0C ∧ new.doneAt.isSome) then 0
    else if new.cmd.op = 7 then new.row / 16 * 16 else new.row }

/-- Every running command goes on by a cycle, in the order in which they started. -/
def State.runAll (s : State) (c now : Nat) (before : List MRun) : List MRun → State
  | [] => s
  | r :: rest =>
    match s.runTurn c now before { r with paged := false } with
    | (s, .go x) => (s.updCore c (fun k => { k with mrun := before ++ x :: rest }.progress r x)).runAll c now (before ++ [x]) rest
    | (s, .trap r cause e0 e1 e2) => s.matrixTrap c r before rest cause e0 e1 e2
    | (s, .page r w) =>
      let r := { r with paged := true }
      ((s.updCore c (fun k => { k with mrun := before ++ r :: rest })).suspendCore c
        (match w with | .tile _ _ => .pull | _ => .ropf) w).runAll c now (before ++ [r]) rest

/-- Registers no longer owed to commands: what an MSTAT that is stopped would have written stays as it is (log entry 120). -/
def Core.disown (k : Core) (tokens : List Nat) : Core :=
  if tokens = [] then k
  else
    let free (q : Quad) : Quad := { q with owed := q.owed.filter (fun o => !tokens.contains o.token) }
    { k with q0 := free k.q0, q1 := free k.q1, q2 := free k.q2, q3 := free k.q3 }

/-- MCAN stops every earlier command still running (R216): rows in the array are discarded, none of them signals. What has completed signals. -/
def Core.cancel (k : Core) (now : Nat) : Core :=
  let k := (k.mrun.filter (fun r => decide (r.cmd.op = 0) && r.live now)).foldl (fun k r => k.setOther r.buf {}) k
  { (k.disown ((k.mrun.filter (fun r => r.live now && decide (r.cmd.op = 0x0D))).map (·.cmd.token))) with
    mrun := k.mrun.filter (fun r => !r.live now), prog1 := 0 }

/-- A command starts: a stream reads FADE, an output the epilogue registers (R198); one that was stopped goes on from its row with what it read then (R227). -/
def Core.run (k : Core) (m : MCmd) (now : Nat) : MRun :=
  let m := { m with fade := m.fade.or (some k.fade), epi := if m.op = 6 then m.epi.or (some k.epilogue) else m.epi }
  let row := if m.out = [] then m.row else m.row + 1
  { cmd := { m with held := [], out := [], watch := none, fault := false }, buf := bit k.abuf, row := row, landed := m.row, nextAt := now, elems := m.held, data := m.out, watch := m.watch.getD k.mlast }

/-- The head of the queue starts, when its count can be taken, its unit is free and its interlocks are clear (R196). Under HALT only what comes before the faulting command
goes on (R226). -/
def Core.startHead (k : Core) (now : Nat) : Option Core :=
  match k.mq with
  | [] => none
  | m :: rest =>
    if (k.halt && m.fault) || !(m.took || k.smReady now m.waitSm) || !canStart k now m then none
    else
      let k := if m.took then k else k.smTake now m.waitSm
      let k := if m.op = 0x10 then k.cancel now else k
      some { k with mq := rest, mlast := if m.reload then k.mlast else m.token, mrun := k.mrun ++ [k.run m now] }

/-- A cycle of the engine: one command may start, by the units and interlocks as the cycle before left them (R196, R197, R218); the running commands go on. None starts while the
task is being saved (R227). -/
def State.matrixTurn (s : State) (c : Nat) : State :=
  let now := max s.cycle (s.core c).mAt
  let t := s.task (s.taskAt c)
  let s := match (if t.st = .running ∧ t.stage = 0 then (s.core c).startHead now else none) with
    | none => s
    | some k => s.setCore c k
  (s.runAll c now [] (s.core c).mrun).updCore c (fun k => { k with mAt := now + 1 })

/-- A command that has completed raises its signal; MSTAT writes its register (R200, R216, R218). -/
def State.finishCmd (s : State) (c : Nat) (r : MRun) : State :=
  let s := s.updCore c (fun k => { (k.smSignal (max s.cycle (r.doneAt.getD 0 + 1)) r.cmd.signalSm) with mrun := k.mrun.filter (fun x => decide (x.cmd.token ≠ r.cmd.token)) })
  match r.cmd.word with
  | .mstat _ _ d =>
    let x := (s.core c).mstatus
    s.updQuad c r.cmd.quad (fun q => { q with owed := q.owed.filter (fun o => decide (o.token ≠ r.cmd.token)) }.setG d.toNat x)
  | _ => s

/-- The running command that completes first, MPROG apart from the others. -/
def Core.finished (k : Core) (mprog : Bool) : Option MRun :=
  (k.mrun.filter (fun r => r.doneAt.isSome && (decide (r.cmd.op = 0x0E) == mprog))).foldl (fun b r =>
    match b with
    | none => some r
    | some x => if r.doneAt.getD 0 < x.doneAt.getD 0 then some r else some x) none

/-- MATRIX_COMMAND_COMPLETE (R196, R218). -/
def execMatrixCommandComplete (core : Nat) (s : State) : Host.Outcome State Fault Refusal :=
  .next (match (s.core core).finished false with
    | some r => s.finishCmd core r
    | none => s)

/-- MPROG_ROWS_WRITTEN (R216): the rows that an MPROG waits for are written. -/
def execMprogRowsWritten (core : Nat) (s : State) : Host.Outcome State Fault Refusal :=
  .next (match (s.core core).finished true with
    | some r => s.finishCmd core r
    | none => s)

end Sys2Proof.Machine
end

