-- ==== Sys2Proof/Machine/MatrixWords.lean ====
section
/-! DEFINITION. The meanings of the words of E = 3 (R200 to R216): a command with its captured operands enters the queue of the core. -/

namespace Sys2Proof.Machine

/-- The splitter steers a command (R196, R200): it waits for its registers and for a place among 16; the nest it names is captured.
A nest of more than 256 rows, or rows past acc255, are illegal (R202). -/
def State.matWord (s : State) (word : Instr) (l : List (BitVec 6)) (nest : Nat) (d : BitVec 6) : State :=
  if 16 ≤ s.myCore.queued then s.poll
  else s.steer (useOf l d 4) (fun s =>
    let q := s.me
    let dims := if nest < 6 then q.dims nest else []
    let m : MCmd := { word := word, ops := l.map q.src, dims := dims, mode := q.rmode % 8, quad := s.cur.quad, wordAt := q.pc, token := s.tokens }
    if nest < 6 ∧ (256 < dimProduct dims ∨ 256 < m.shape.base + m.shape.rows) then s.ill 0x0B
    else
      let idle := s.myCore.mq.isEmpty && s.myCore.mrun.isEmpty
      let at_ := q.cyc + 1
      let s := s.newToken.updMyCore (fun k => { k.serve s.cur.quad with mq := k.mq ++ [m], mAt := if idle then at_ else k.mAt })
      s.updMe (fun q =>
        ({ q with owed := if d = 0 then q.owed else q.owed ++ [{ token := m.token, dst := .g d.toNat, latch := 4, size := 8, sg := false }] } : Quad).retire 0))

def execWld (w y : BitVec 4) (a b : BitVec 6) (k : BitVec 7) (f : BitVec 5) (t : BitVec 1) (p : BitVec 6) (s : State) : Host.Outcome State Fault Refusal :=
  .next (s.matWord (.wld w y a b k f t p) [a, b, p] 7 0)
def execWsel (w y : BitVec 4) (s : State) : Host.Outcome State Fault Refusal := .next (s.matWord (.wsel w y) [] 7 0)
def execMstr (w y : BitVec 4) (base : BitVec 8) (a : BitVec 6) (c : BitVec 2) (m : BitVec 8) (f : BitVec 5) (n : BitVec 3) (p : BitVec 6) (s : State) :
    Host.Outcome State Fault Refusal := .next (s.matWord (.mstr w y base a c m f n p) [a, p] n.toNat 0)
def execMstq (w y : BitVec 4) (base : BitVec 8) (q : BitVec 1) (c : BitVec 2) (m : BitVec 8) (s : State) : Host.Outcome State Fault Refusal :=
  .next (s.matWord (.mstq w y base q c m) [] 7 0)
def execMstx (w y : BitVec 4) (base : BitVec 8) (a : BitVec 6) (c : BitVec 2) (m : BitVec 8) (f : BitVec 5) (n : BitVec 3) (p : BitVec 6) (s : State) :
    Host.Outcome State Fault Refusal := .next (s.matWord (.mstx w y base a c m f n p) [a, p] n.toNat 0)
def execMepiBias (w y : BitVec 4) (a : BitVec 6) (s : State) : Host.Outcome State Fault Refusal := .next (s.matWord (.mepiBias w y a) [a] 7 0)
def execMepiScale (w y : BitVec 4) (a : BitVec 6) (s : State) : Host.Outcome State Fault Refusal := .next (s.matWord (.mepiScale w y a) [a] 7 0)
def execMepiZero (w y : BitVec 4) (a : BitVec 6) (s : State) : Host.Outcome State Fault Refusal := .next (s.matWord (.mepiZero w y a) [a] 7 0)
def execMepiAclr (w y : BitVec 4) (s : State) : Host.Outcome State Fault Refusal := .next (s.matWord (.mepiAclr w y) [] 7 0)
def execMout (w y : BitVec 4) (base : BitVec 8) (a : BitVec 6) (k : BitVec 2) (m : BitVec 8) (eb ea eq : BitVec 1) (f : BitVec 6) (n : BitVec 3)
    (c : BitVec 2) (i : BitVec 1) (s : State) : Host.Outcome State Fault Refusal :=
  .next (s.matWord (.mout w y base a k m eb ea eq f n c i) [a] n.toNat 0)
def execMgrp (w y : BitVec 4) (base : BitVec 8) (a : BitVec 6) (c : BitVec 2) (nb : BitVec 4) (f : BitVec 5) (x t : BitVec 6) (s : State) :
    Host.Outcome State Fault Refusal := .next (s.matWord (.mgrp w y base a c nb f x t) [a, x, t] 7 0)
def execMfade (w y : BitVec 4) (a : BitVec 6) (s : State) : Host.Outcome State Fault Refusal := .next (s.matWord (.mfade w y a) [a] 7 0)
def execMact (w y : BitVec 4) (a : BitVec 6) (s : State) : Host.Outcome State Fault Refusal := .next (s.matWord (.mact w y a) [a] 7 0)
def execMzero (w y : BitVec 4) (b c : BitVec 8) (s : State) : Host.Outcome State Fault Refusal := .next (s.matWord (.mzero w y b c) [] 7 0)
def execMaccld (w y : BitVec 4) (base : BitVec 8) (a : BitVec 6) (m : BitVec 8) (s : State) : Host.Outcome State Fault Refusal :=
  .next (s.matWord (.maccld w y base a m) [a] 7 0)
def execMnb (w y : BitVec 4) (a : BitVec 6) (s : State) : Host.Outcome State Fault Refusal := .next (s.matWord (.mnb w y a) [a] 7 0)
def execMstat (w y : BitVec 4) (d : BitVec 6) (s : State) : Host.Outcome State Fault Refusal := .next (s.matWord (.mstat w y d) [] 7 d)
def execMprog (w y : BitVec 4) (n : BitVec 8) (s : State) : Host.Outcome State Fault Refusal := .next (s.matWord (.mprog w y n) [] 7 0)
def execMsig (w y : BitVec 4) (s : State) : Host.Outcome State Fault Refusal := .next (s.matWord (.msig w y) [] 7 0)
def execMcan (w y : BitVec 4) (s : State) : Host.Outcome State Fault Refusal := .next (s.matWord (.mcan w y) [] 7 0)

end Sys2Proof.Machine
end

