-- ==== Sys2Proof/Machine/Copy.lean ====
section
/-! DEFINITION. The copy engine (R230 to R256): channels, jobs and their footprints, bursts, conversion, chains, tags, stage barrier
credits (R304, R306) and copy traps. -/

namespace Sys2Proof.Machine

/-! ### Channels and jobs -/

def Core.chan (k : Core) (ch : Nat) : Chan := k.chans.get {} ch
def State.updChan (s : State) (c ch : Nat) (u : Chan → Chan) : State :=
  s.updCore c (fun k => { k with chans := k.chans.set {} ch (u (k.chan ch)) })

def Job.isChain (j : Job) : Bool := decide (j.kind = .chain)
def Job.isCopy (j : Job) : Bool := decide (j.kind = .copy ∨ j.kind = .nest)
def Job.isPfh (j : Job) : Bool := match j.kind with | .pfh _ => true | _ => false

/-- The jobs of a channel that may be in flight: the head, or the records of the chain at the head (R231). -/
def Chan.active (x : Chan) : List Job :=
  match x.q with
  | [] => []
  | h :: _ => if h.isChain then x.records else [h]

/-- A job changed in its place. -/
def Chan.mapJob (x : Chan) (token : Nat) (u : Job → Job) : Chan :=
  let f (j : Job) : Job := if j.token = token then u j else j
  { x with q := x.q.map f, records := x.records.map f }

def State.setJob (s : State) (c ch : Nat) (j : Job) : State := s.updChan c ch (fun x => x.mapJob j.token (fun _ => j))

/-- All jobs of a core's engine that have entered and not completed. -/
def Core.inFlight (k : Core) : List Job := (List.range 8).flatMap (fun ch => ((k.chan ch).active).filter (fun j => j.entered.isSome))

/-! ### Tags (R236) -/

/-- The core record of a task on core c: the core itself while the task holds it and is not being restored, else its image saved from
there (R256, R317). -/
def State.coreOfTask (s : State) (t c : Nat) : Core :=
  if (s.core c).task = some t ∧ (s.task t).stage ≠ 3 then s.core c else (s.task t).images.get {} c

def State.updCoreOfTask (s : State) (t c : Nat) (u : Core → Core) : State :=
  if (s.core c).task = some t ∧ (s.task t).stage ≠ 3 then s.updCore c u
  else if ((s.task t).images.keys).contains c then s.updTask t (fun x => { x with images := x.images.set {} c (u (x.images.get {} c)) })
  else s

/-- Where the tags of a job of core c are kept: with the task that it belongs to. -/
def State.updTagHome (s : State) (c : Nat) (j : Job) (u : Core → Core) : State := s.updCoreOfTask j.task c u

/-- A job naming tag t enters. -/
def Core.tagEnter (k : Core) (t : Nat) : Core := { k with tagcnt := k.tagcnt.set 0 t (k.tagcnt.get 0 t + 1) }

/-- A job naming tag t completes: the bit is set when no other job naming it is outstanding. -/
def Core.tagDone (k : Core) (t : Nat) : Core :=
  let n := k.tagcnt.get 0 t - 1
  { k with tagcnt := k.tagcnt.set 0 t n, tagmap := if n = 0 then k.tagmap ||| BitVec.ofNat 64 (2 ^ t) else k.tagmap }

/-! ### Footprints (R233) -/

def Job.total (j : Job) : Nat := if j.kind = .nest then dimProduct j.dims * j.n else j.n

/-- Lowest and highest offset of a nest walk. -/
def nestSpan (l : List Dim) : Int × Int :=
  l.foldl (fun p x => let e := (x.bound - 1 : Int) * x.stride; (p.1 + min 0 e, p.2 + max 0 e)) (0, 0)

def Job.srcWidth (j : Job) : Nat := if j.cv then codeWidth j.sfmt else 8
def Job.dstWidth (j : Job) : Nat := if j.cv then codeWidth j.dfmt else 8

/-- The strided and the packed interval. -/
def Job.strided (j : Job) (base : Word) (run : Nat) : Option (Int × Int) :=
  let p := nestSpan j.dims
  if j.total = 0 then none else some ((base.toNat : Int) + p.1, (base.toNat : Int) + p.2 + run - 1)
def Job.packed (j : Job) (base : Word) (n : Nat) : Option (Int × Int) :=
  if j.total = 0 then none else some ((base.toNat : Int), (base.toNat : Int) + n - 1)

def Job.reads (j : Job) : Option (Int × Int) :=
  if !j.isCopy || j.qe = 2 then none
  else if j.kind = .nest ∧ !j.side then j.strided j.s j.n else j.packed j.s j.total
def Job.writes (j : Job) : Option (Int × Int) :=
  let out (n : Nat) : Nat := cdiv (n * 8 / j.srcWidth * j.dstWidth) 8
  if !j.isCopy || j.qe = 1 then none
  else if j.kind = .nest ∧ j.side then j.strided j.d (out j.n) else j.packed j.d (out j.total)

def meet : Option (Int × Int) → Option (Int × Int) → Bool
  | some (a, b), some (x, y) => decide (a ≤ y) && decide (x ≤ b)
  | _, _ => false

/-- Must job b wait for the earlier job a (R233)? -/
def conflict (a b : Job) : Bool :=
  !a.fpx && !b.fpx && (meet a.writes b.reads || meet a.writes b.writes || meet a.reads b.writes)

def before (a b : Job) : Bool := decide (a.entered.getD 0 < b.entered.getD 0)

/-- Has a job started? -/
def Job.started (j : Job) : Bool := decide (j.phase ≠ 0) || decide (j.done ≠ 0) || j.fin

/-- May an entered job go on? The records of a chain start in its order (R231). -/
def Core.mayRun (k : Core) (x : Chan) (j : Job) : Bool :=
  (x.records.takeWhile (fun y => decide (y.token ≠ j.token))).all Job.started &&
  (match x.halted with | some n => decide (j.entered.getD 0 < n) | none => true)
    && (k.inFlight).all (fun a => !(before a j) || !(j.fpb || conflict a j))

/-! ### Stage barrier credits (R304 to R306) -/

def spadBase : Nat := 0x03C0000000000000

/-- The quadrant that takes STAGE: the one that armed the barrier, or the lowest-numbered of the task that has not ended (R306). -/
def State.stageQuad (s : State) (t c u : Nat) : Option (Nat × Nat) :=
  let alive (p : Nat × Nat) : Bool := let q := (s.coreOfTask t p.1).quad p.2; !q.idle && !q.ended
  (((c, u) :: (s.task t).cores.flatMap (fun k => (List.range 4).map (fun i => (k, i))))).find? alive

/-- Bytes written at scratchpad offsets off to off + n − 1 of core c credit the armed barriers of the task that holds or parks
the bank, in its image while it is away (R302, R317). -/
def State.credit (s : State) (c off n : Nat) : State :=
  let t := ((s.core c).banks.get {} (off / 65536)).task
  (List.range 8).foldl (fun s i =>
    let b := (s.coreOfTask t c).stb.get {} i
    let lo := max off b.base
    let cnt := min (off + n) (b.base + b.len) - lo
    let put (s : State) (b : Stage) : State := s.updCoreOfTask t c (fun k => { k with stb := k.stb.set {} i b })
    if !b.armed || decide (cnt = 0) then s
    else if b.credited + cnt ≤ b.announced then put s { b with credited := b.credited + cnt }
    else
      let s := put s { b with armed := false, credited := b.credited + cnt }
      match s.stageQuad t c b.quad with
      | none => s
      | some (c, u) =>
        let r : TrapReq := { cause := causeSTAGE, e0 := BitVec.ofNat 64 i, e1 := BitVec.ofNat 64 b.announced, e2 := BitVec.ofNat 64 (b.credited + cnt),
                             e3 := BitVec.ofNat 64 (spadBase + lo + (b.announced - b.credited)) }
        s.updCoreOfTask t c (fun k => k.setQuad u ({ k.quad u with trapReqs := (k.quad u).trapReqs ++ [r] }))) s

/-- The barriers that a write of an engine credits: those of the scratchpad it names. -/
def State.creditAt (s : State) (c : Nat) (a : Word) (n : Nat) : State :=
  if homeOf a = 15 then s.credit c (offOf a % 2 ^ 19) n
  else if homeOf a = 14 then s.credit (facetOf c * 192 + offOf a / 2 ^ 19) (offOf a % 2 ^ 19) n
  else s

/-! ### Copy traps (R253, R254) -/

/-- The agent of a channel. -/
def State.copyAgent (s : State) (c ch : Nat) (j : Job) : Agent :=
  let x := s.ctx (s.task j.task).ctx
  { s.agentOf c 1 ch with task := j.task, asid := x.asid, ns := s.worldOf (facetOf c) x.ns }

def Job.infoAt (j : Job) : Word :=
  match j.record with
  | some a => a ||| 1
  | none => j.wordAt

/-- The bytes of PROG3.DONE: a multiple of 512 that is a whole number of elements, or the whole count (R252); before what came back refused. -/
def Job.progress (j : Job) : Nat :=
  let done := j.redo.foldl (fun d x => min d x.pos) j.done
  if done = j.total then done
  else let u := if j.srcWidth = 6 then 1536 else 512; done / u * u

/-- What has come of a burst. -/
inductive Burst where
  | moved (j : Job) (n : Nat)
  | wait (j : Job)
  | trap (j : Job) (cause : Nat) (e0 e1 e2 : Word)

/-- What a stopped job keeps between bursts: elements converted and not yet written, and deliveries and writes under way, are not made again (R154, R244, R253). -/
def Job.stopped (j : Job) : Job :=
  let keeps := decide (j.buf ≠ []) && (j.cv || decide (j.phase = 4) || decide (j.port.sent ≠ 0))
  { j with port := { sent := if keeps then j.port.sent else 0 }, since := none, held := .none, buf := if keeps then j.buf else []
           phase := if !j.isCopy ∨ keeps then j.phase else if j.phase = 0 then 0 else 1 }

/-- A copy of a task that is away has failed: CERR, in its frames too, and an event (R317). -/
def State.failCopy (s : State) (t : Nat) : State :=
  (((s.updTask t (fun x => { x with cerr := true })).writeHeaders t false).1).event (.copyFault t)

/-- The channel is stopped with its image (R253); its quadrant is to take the trap. A task that is away takes none: the job is dropped, CERR is
set, and the supervisor hears of it (R317). A quadrant that has ended takes none either: the fault is context-fatal (log entry 58). -/
def State.copyTrap (s : State) (c ch : Nat) (j : Job) (cause : Nat) (e0 e1 e2 : Word) : State :=
  let d := j.progress
  let j := { j.stopped with shown := d, phase := if j.buf ≠ [] ∧ j.stopped.phase = j.phase then j.phase else 0 }
  let e2 := e2 ||| BitVec.ofNat 64 (ch * 2 ^ 20 + j.quad * 2 ^ 23)
  let stop (s : State) : State := (s.setJob c ch j).updChan c ch (fun x => { x with halted := some (j.entered.getD 0) })
  if isWalk c then (stop s).trapAt c 0 cause (s.quadOf c 0).pc e0 e1 e2 j.infoAt
  else if (s.core c).task ≠ some j.task then
    (s.setJob c ch { j with fin := true, err := true, status := 9 }).failCopy j.task
  else if (s.quadOf c j.quad).ended then
    s.contextFatal (s.task j.task).ctx { core := c, k := 5, cause := cause, epc := (s.quadOf c j.quad).pc, e0 := e0, e1 := e1, e2 := e2,
                                         e3 := j.infoAt, useInfo := true }
  else
    ((stop s).updQuad c j.quad (fun q => { q with
      prog3 := BitVec.ofNat 64 (ch * 2 ^ 56 + d), chImg := q.chImg.set 0 ch 1 })).raiseFor c j.quad
      { cause := cause, e0 := e0, e1 := e1, e2 := e2, e3 := j.infoAt }

/-- A refused access of a job: it waits (R255), or traps; a linked range refuses a write after STALLMAX cycles (R264). -/
def State.copyWait (s : State) (now : Nat) (ag : Agent) (kind : Nat) (j : Job) : Perf → Burst
  | .trap cause e0 e1 e2 => .trap { j with port := {}, since := none } cause e0 e1 e2
  | .walk t => .wait { j with nextAt := max t (now + 1), held := .none }
  | .page f off => .wait { j with nextAt := now + 1, held := .page f ag.asid off }
  | .pull f k => .wait { j with nextAt := now + 1, held := .tile f k }
  | .stall f l at_ _ =>
    let since := j.since.getD now
    let lim := (s.task j.task).stallmax
    if lim ≠ 0 ∧ since + lim < now then
      .trap { j with port := {}, since := none } causePROT at_ 7 (memInfo ag.asid kind 0 l ||| BitVec.ofNat 64 (f * 2 ^ 44))
    else .wait { j with nextAt := now + 1, since := some since, held := .none }
  | _ => .wait { j with nextAt := now + 1, held := .none }

/-! ### One burst of a copy (R234, R240 to R244) -/

/-- Address arithmetic of a job at source byte `pos`: its run, the place in the run, source and destination. -/
def Job.runOf (j : Job) (pos : Nat) : Nat := if j.kind = .nest then pos / j.n else 0
def Job.inRun (j : Job) (pos : Nat) : Nat := if j.kind = .nest then pos % j.n else pos
def Job.srcAt (j : Job) (pos : Nat) : Word :=
  if j.kind = .nest ∧ !j.side then j.s + BitVec.ofInt 64 (dimOffset j.dims (j.runOf pos)) + BitVec.ofNat 64 (j.inRun pos)
  else j.s + BitVec.ofNat 64 pos
/-- The destination of the burst from `pos`: with the strided side d, bits of a run count from its first byte (R243). -/
def Job.dstAt (j : Job) (pos : Nat) : Word :=
  let bit (n : Nat) : Nat := n * 8 / j.srcWidth * j.dstWidth
  if j.kind = .nest ∧ j.side then j.d + BitVec.ofInt 64 (dimOffset j.dims (j.runOf pos)) + BitVec.ofNat 64 (bit (j.inRun pos) / 8)
  else j.d + BitVec.ofNat 64 (bit pos / 8)

/-- Source bytes of the next burst, at most 512, within one run. -/
def Job.burstLen (j : Job) : Nat :=
  let left := if j.kind = .nest then j.n - j.inRun j.done else j.n - j.done
  if j.cv then
    let k := if meet j.reads j.writes then 8 else 4096 / max j.srcWidth j.dstWidth / 8 * 8
    min left (k * j.srcWidth / 8)
  else min left (512 - j.done % 512)

/-- A plain copy goes downward when d > s (R234): where in the ranges the burst lies. -/
def Job.place (j : Job) : Nat :=
  if j.kind = .copy ∧ !j.cv ∧ j.s.toNat < j.d.toNat then j.n - j.done - j.burstLen else j.done

/-- Bytes of a plain nest run, copied in ascending order with each byte read just before it is written (R234). -/
def rippled (shift : Nat) (b : List (BitVec 8)) : List (BitVec 8) :=
  if shift = 0 ∨ b.length ≤ shift then b else (List.range b.length).map (fun i => b.getD (i % shift) 0)

/-- The refusals found before any byte (R240 to R244, R414). -/
def State.copyRefused (s : State) (c ch : Nat) (j : Job) : Option Burst :=
  let ag := s.copyAgent c ch j
  let fmt (code operand : Nat) : Option Burst := some (.trap j causeFMT (BitVec.ofNat 64 code) (BitVec.ofNat 64 operand) 0)
  let k := s.coreOfTask j.task c
  if j.qe ≠ 0 ∧ !j.cv then fmt j.qe 4
  else if j.cv ∧ isMarker j.sfmt ∧ s.feat 1 = false then fmt j.sfmt 0
  else if j.cv ∧ isMarker j.dfmt ∧ s.feat 1 = false then fmt j.dfmt 1
  else if j.qe = 1 ∧ j.dfmt ≠ k.cqSrc 1 then fmt j.dfmt 4
  else if j.qe = 2 ∧ j.sfmt ≠ k.cqSink 3 then fmt j.sfmt 4
  else if j.cv ∧ j.n * 8 % j.srcWidth ≠ 0 then fmt j.sfmt 0
  else if j.cv ∧ j.kind = .nest ∧ j.side ∧ j.n * 8 / j.srcWidth * j.dstWidth % 8 ≠ 0 then fmt j.dfmt 1
  else if j.mask.isSome ∧ homeOf j.d ≠ 15 then some (.trap j causePROT j.d 11 (memInfo ag.asid 12 0 0))
  else none

/-- The cores that a multicast names: those with a quadrant member in the mask (R244). -/
def State.mcastCores (s : State) (t : Nat) (mask : Word) : List Nat :=
  (s.task t).cores.filter (fun c => (List.range 4).any (fun u =>
    let q := s.quadOf c u
    !q.idle && decide (q.member.mnum < 64) && mask.getLsbD q.member.mnum))

/-- Are the banks of scratchpad bytes off to off + n − 1 of core c granted to the task? -/
def State.banksOk (s : State) (c off n t : Nat) : Bool :=
  n = 0 || (decide (off + n ≤ 2 ^ 19) && (List.range 8).all (fun b => !(decide (off / 65536 ≤ b) && decide (b ≤ (off + n - 1) / 65536)) || s.bankOk c b t))

/-- Bytes delivered to member cores, each crediting its own barriers. -/
def State.multicast (s : State) (cores : List Nat) (a : Word) (b : List (BitVec 8)) : State :=
  let off := offOf a % 2 ^ 19
  cores.foldl (fun s c => (s.poke (spadKey c off) b).credit c off b.length) s

/-- Bytes of a burst leave for another package in packets of at most 256; the job waits for no acknowledgement before it goes on (R368, R434), and holds its channel while the send
queue has no room (R371). -/
def State.postOut (s : State) (c ch now : Nat) (j : Job) (a : Word) (b : List (BitVec 8)) (moved : Job → Burst) : Nat → State × Burst
  | 0 => (s, .wait { j with nextAt := now + 1 })
  | fuel + 1 =>
    let ag := s.copyAgent c ch j
    let n := j.port.sent
    let at_ := a + BitVec.ofNat 64 n
    let part := (b.drop n).take 256
    let p := s.packetTo ag 6 at_ 0 0 s.tokens part
    if part = [] then (s, moved { j with port := {} })
    else if s.unreachable (pkgOf at_) then (s, .trap { j with since := none } causePROT at_ 15 (memInfo ag.asid 12 0 0))
    else if !s.canSend p then (s, .wait { j with nextAt := now + 1, held := .room })
    else (s.send p).newToken.postOut c ch now
      { j with port := { sent := n + part.length }, posted := j.posted ++ [{ token := s.tokens, pos := j.done, at_ := at_, bytes := part }], held := .none } a b moved fuel

/-- Bytes are written at their destination, and the burst is over. A multicast's reach the member cores 40 cycles and one for each 128 bytes after their
read, each core that does not stand by itself; the next burst is read then (R244, log entry 105). -/
def State.copyOut (s : State) (c ch now : Nat) (j : Job) (a : Word) (b : List (BitVec 8)) (m : Nat) : State × Burst :=
  let ag := s.copyAgent c ch j
  let moved (j : Job) : Job := { j with done := j.done + m, buf := [], phase := 1, port := {}, since := none, held := .none }
  match j.mask with
  | some mask =>
    if j.phase = 4 then
      let s := s.multicast (j.left.filter (fun k => !(s.core k).stands)) a b
      let left := j.left.filter (fun k => (s.core k).stands)
      if left = [] then (s, .moved { moved j with left := [] } m) else (s, .wait { j with left := left, nextAt := now + 1 })
    else
      let cores := s.mcastCores j.task mask
      if !cores.all (fun c => s.banksOk c (offOf a % 2 ^ 19) b.length j.task) then (s, .trap j causePROT a 5 (memInfo ag.asid 12 0 0))
      else if cores = [] then (s, .moved (moved j) m)
      else (s, .wait { j with phase := 4, left := cores, nextAt := now + 40 + cdiv b.length 128 })
  | none =>
    if s.isRemote a && s.feat 6 then s.postOut c ch now j a b (fun j => .moved (moved j) m) 4
    else match s.portWrite j.port ag 12 a b with
      | (s, _, .ok _) => (s.creditAt c a b.length, .moved (moved j) m)
      | (s, p, .error e) => (s, s.copyWait now ag 12 { j with port := p } e)

/-- Elements in a stream of bits with the bits carried from the burst before: whole bytes, and what is left. -/
def joinBits (w carry carryN : Nat) (l : List Nat) (last : Bool) : List (BitVec 8) × Nat × Nat :=
  let x := carry + packElems w l * 2 ^ carryN
  let n := carryN + l.length * w
  let full := if last then cdiv n 8 else n / 8
  (leBytes full x, x / 2 ^ (8 * full), n - 8 * full)

/-- Elements converted for a job: its task's key, and counts and flags with its task (R154, R155). -/
def State.convertJob (s : State) (c : Nat) (j : Job) (stream mode src dst : Nat) (xs : List Nat) : State × List Nat :=
  let r := convertRun (s.task j.task).srkey stream ((s.coreOfTask j.task c).srcnt.get 0 stream) mode (fun m r x => convert src dst m r x) xs 0
  (s.updCoreOfTask j.task c (fun k =>
    let k := k.flag s.cycle (r.any (·.sat)) (r.any (·.nanz))
    if mode = 5 then { k with srcnt := k.srcnt.set 0 stream (k.srcnt.get 0 stream + xs.length) } else k), r.map (·.pat))

/-- Elements popped from queue i of the job's task, converted as they are popped (R159). -/
def State.popJob (s : State) (c : Nat) (j : Job) (i n : Nat) : State × List Nat :=
  let (k, xs) := (s.coreOfTask j.task c).cqTake i n
  (s.updCoreOfTask j.task c (fun _ => k)).convertJob c j (8 + i) (k.cqMode i) (k.cqSrc i) (k.cqSink i) xs

/-- `y` in place of the `w` bits of x from bit `lo`. -/
def setBits (x lo w y : Nat) : Nat := x - bits x lo w * 2 ^ lo + y % 2 ^ w * 2 ^ lo

/-- Source bits from bit address `sb`, of which `n` are left, as they stand once `w` bits have been written at bit address `db`. -/
def overlay (x sb n db w y : Nat) : Nat :=
  (if sb ≤ db then setBits x (db - sb) w y else setBits x 0 (w - (sb - db)) (y / 2 ^ (sb - db))) % 2 ^ n

/-- Elements converted one by one, each read just before it is written (R234): `x` holds the `n` left from bit address `sb`, the next is written at `db`. -/
def State.convertEach (s : State) (c : Nat) (j : Job) : Nat → Nat → Nat → Nat → State × List Nat
  | 0, _, _, _ => (s, [])
  | n + 1, x, sb, db =>
    let (s, ys) := s.convertJob c j 5 j.mode j.sfmt j.dfmt [x % 2 ^ j.srcWidth]
    let y := ys.headD 0
    let (s, l) := s.convertEach c j n (overlay (x / 2 ^ j.srcWidth) (sb + j.srcWidth) (n * j.srcWidth) db j.dstWidth y) (sb + j.srcWidth) (db + j.dstWidth)
    (s, y :: l)

/-- The conversion of a burst: where source and destination overlap, element by element. -/
def State.convertBurst (s : State) (c : Nat) (j : Job) (xs : List Nat) : State × List Nat :=
  if meet j.reads j.writes then
    let sb := (j.srcAt j.done).toNat * 8
    let db := (j.dstAt j.done).toNat * 8
    let n := xs.length
    s.convertEach c j n (overlay (packElems j.srcWidth xs) sb (n * j.srcWidth) db j.carryN j.carry) sb (db + j.carryN)
  else s.convertJob c j 5 j.mode j.sfmt j.dfmt xs

/-- The source elements of the burst, read or popped, are converted and go out. -/
def State.copyConvert (s : State) (c ch now : Nat) (j : Job) (xs : List Nat) (m : Nat) : State × Burst :=
  let ag := s.copyAgent c ch j
  let last := decide (j.done + m = j.total)
  let runEnd := decide (j.kind = .nest) && j.side
  let a := j.dstAt j.done
  if j.qe = 1 then
    let (s, ys) := s.convertJob c j 5 j.mode j.sfmt j.dfmt xs
    (s, .moved { j with done := j.done + m, elems := j.elems ++ ys, buf := [], phase := 1 } m)
  else
    let size := (joinBits j.dstWidth j.carry j.carryN xs (last || runEnd)).1.length
    let chk := (s.acceptAll ag .store (spans a size)).1
    match j.mask.isSome, chk.res with
    | false, .ok _ | false, .remote | true, _ =>
      let (s, ys) := s.convertBurst c j xs
      let (b, carry, carryN) := joinBits j.dstWidth j.carry j.carryN ys (last || runEnd)
      s.copyOut c ch now { j with buf := b, phase := 3, carry := carry, carryN := carryN } a b m
    | false, e => (chk.st, chk.st.copyWait now ag 12 j (perfOf ag.asid 12 0 a e))

/-- Elements popped from cq3, a whole number of bytes of them. -/
def Job.popCount (j : Job) (avail : Nat) : Nat :=
  let need := (if j.kind = .nest ∧ j.side then j.n - j.inRun j.done else j.total - j.done) * 8 / j.srcWidth
  let k := min need (4096 / max j.srcWidth j.dstWidth / 8 * 8)
  if need ≤ avail ∧ need ≤ k then need else min k avail / 8 * 8

/-- What another package has refused traps; after TRET those bytes are sent again (R253, R254). -/
def State.copyAgain (s : State) (c ch now : Nat) (j : Job) : Option (State × Burst) :=
  let ag := s.copyAgent c ch j
  match j.bad, j.redo with
  | some (a, r), _ => some (s, s.copyWait now ag 12 { j with bad := none } (perfOfStatus ag.asid 12 0 a r))
  | none, x :: rest =>
    let p := s.packetTo ag 6 x.at_ 0 0 s.tokens x.bytes
    some (if s.unreachable (pkgOf x.at_) then (s, .trap j causePROT x.at_ 15 (memInfo ag.asid 12 0 0))
      else if !s.canSend p then (s, .wait { j with nextAt := now + 1, held := .room })
      else ((s.send p).newToken, .moved { j with redo := rest, posted := j.posted ++ [{ x with token := s.tokens }], held := .none } x.bytes.length))
  | none, [] => none

/-- One burst of a copy or nest job. It is over when all its bytes are written and its packets acknowledged (R235, R434). -/
def State.copyStep (s : State) (c ch now : Nat) (j : Job) : State × Burst :=
  let ag := s.copyAgent c ch j
  match (s.copyAgain c ch now j).or (if j.phase = 0 then (s.copyRefused c ch j).map (fun t => (s, t)) else none) with
  | some t => t
  | none =>
    if j.qe = 1 ∧ j.elems ≠ [] ∧ (1024 / j.dstWidth ≤ j.elems.length ∨ j.done = j.total) then
      let (k, l) := (s.coreOfTask j.task c).pushElems 1 j.dstWidth (decide (j.done = j.total)) j.elems 8
      if l.length = j.elems.length then (s, .wait { j with nextAt := now + 1 })
      else (s.updCoreOfTask j.task c (fun _ => k), .moved { j with elems := l, phase := 1, fin := decide (l = [] ∧ j.done = j.total) } 128)
    else if j.total ≤ j.done then (s, if j.posted = [] then .moved { j with fin := true } 0 else .wait { j with nextAt := now + 1 })
    else if j.qe = 2 then
      let k := j.popCount ((s.coreOfTask j.task c).cqLeft 3)
      if 3 ≤ j.phase then s.copyOut c ch now j (j.dstAt j.done) j.buf j.taken
      else if k = 0 then (s, .wait { j with phase := 1, nextAt := now + 1 })
      else
        let m := k * j.srcWidth / 8
        let a := j.dstAt j.done
        let chk := (s.acceptAll ag .store (spans a (cdiv (k * j.dstWidth) 8))).1
        match chk.res with
        | .ok _ | .remote =>
          let (s, xs) := s.popJob c j 3 k
          s.copyConvert c ch now { j with phase := 1, taken := m } xs m
        | e => (chk.st, chk.st.copyWait now ag 12 { j with phase := 1 } (perfOf ag.asid 12 0 a e))
    else
      let m := j.burstLen
      let p := j.place
      let src := j.srcAt p
      let dst := j.dstAt p
      let out (s : State) (j : Job) (b : List (BitVec 8)) : State × Burst :=
        if j.cv then s.copyConvert c ch now { j with phase := 2, buf := b } (elemsOf j.srcWidth (m * 8 / j.srcWidth) (leNat b)) m
        else
          let b := if j.kind = .nest then rippled (dst.toNat - src.toNat) b else b
          s.copyOut c ch now { j with phase := 3, buf := b } dst b m
      if 3 ≤ j.phase then s.copyOut c ch now j dst j.buf m
      else if j.phase = 2 then out s j j.buf
      else match s.portRead j.port ag 7 11 src m with
        | (s, _, .ok b) => out s { j with port := {}, since := none, held := .none } b
        | (s, p, .error e) => (s, s.copyWait now ag 11 { j with phase := 1, port := p } e)

/-! ### Chains (R245, R246) -/

/-- The transfer record as a job of the chain; `none` where a field is refused, with the refused code. -/
def recordJob (h : Job) (a : Word) (v token now issue : Nat) : Except Nat Job :=
  let nv := bits v 224 1
  let cv := bits v 228 1
  let tv := bits v 241 1
  let nk := bits v 480 2
  let dim (i : Nat) : Dim := { bound := bits v (256 + 56 * i) 24, stride := signedOf 32 (bits v (280 + 56 * i) 32) }
  let sf := bits v 229 6
  let df := bits v 235 6
  if bits v 482 30 ≠ 0 then .error (bits v 482 30)
  else if bits v 0 6 ≠ 0 then .error (bits v 0 6)
  else if bits v 226 2 = 3 then .error 3
  else if cv = 1 ∧ !queueCode sf then .error sf
  else if cv = 1 ∧ !queueCode df then .error df
  else if cv = 0 ∧ (sf ≠ 0 ∨ df ≠ 0) then .error (max sf df)
  else if tv = 0 ∧ bits v 242 6 ≠ 0 then .error (bits v 242 6)
  else .ok { h with
    kind := if nv = 1 then .nest else .copy
    d := BitVec.ofNat 64 (bits v 128 64), s := BitVec.ofNat 64 (bits v 64 64), n := bits v 192 32
    dims := if nv = 1 then (List.range (nk + 1)).map dim else []
    tag := if tv = 1 then some (bits v 242 6) else none
    slack := bits v 248 4, cv := decide (cv = 1), sfmt := sf, dfmt := df, qe := bits v 226 2, side := decide (bits v 225 1 = 1)
    fpb := decide (bits v 253 1 = 1), fpx := decide (bits v 252 1 = 1)
    record := some a, recByte := bits v 248 8, token := token, entered := some issue, enteredAt := now }

/-- Takes the chain at the head of a channel off its queue once it has ended and its records are complete. -/
def Chan.endChain (x : Chan) : Chan :=
  match x.q with
  | h :: r => if h.isChain && h.entered.isSome && x.next.isNone && x.records.isEmpty then { x with q := r } else x
  | [] => x

/-- A fault in reading a record (R253): no job has entered for it. -/
def State.recordTrap (s : State) (c ch : Nat) (h : Job) (a : Word) (cause : Nat) (e0 e1 e2 : Word) : State :=
  if (s.core c).task ≠ some h.task ∧ !isWalk c then
    ((s.updChan c ch (fun x => ({ x with next := none, port := {} } : Chan).endChain)).updCoreOfTask h.task c (fun k => { k with
      chans := k.chans.set {} ch { k.chan ch with park := a } })).failCopy h.task
  else (s.copyTrap c ch { h with record := some a, entered := some (s.core c).issue } cause e0 e1 e2).updChan c ch (fun x => { x with badRecord := true, port := {} })

/-- A copy job enters: it is counted, and a replayed task's job takes the slack of its copy entry (R344). -/
def State.enterJob (s : State) (c : Nat) (j : Job) : State × Job :=
  let s := match j.tag with | some t => s.updTagHome c j (fun k => k.tagEnter t) | none => s
  if !j.isCopy then (s, j)
  else
    let n := (s.task j.task).jobs
    let sl := (((s.task j.task).slacks.find? (fun x => decide (x.1 = n))).map Prod.snd).getD j.slack
    (s.updTask j.task (fun t => { t with jobs := n + 1 }), { j with slack := sl, num := n, own := j.slack })

/-- CHAIN_RECORD_FETCH: the engine reads the next record of a running chain. -/
def State.fetchRecord (s : State) (c ch : Nat) : State :=
  let x := (s.core c).chan ch
  match x.q, x.next with
  | h :: _, some a =>
    if !h.isChain || x.halted.isSome then s
    else
      let now := max s.cycle x.fetchAt
      let ag := s.copyAgent c ch h
      let again (s : State) (p : Port) : State := s.updChan c ch (fun x => { x with port := p, fetchAt := now + 1 })
      if a.toNat % 64 ≠ 0 then s.recordTrap c ch h a causeALIGN a 64 (memInfo ag.asid 11 0 0)
      else match s.portRead x.port ag 7 11 a 64 with
        | (s, p, .error e) =>
          match s.copyWait now ag 11 h e with
          | .trap _ cause e0 e1 e2 => s.recordTrap c ch h a cause e0 e1 e2
          | .wait h => again (s.setJob c ch h) p
          | .moved _ _ => s
        | (s, _, .ok b) =>
          let v := leNat b
          let h := { h with held := .none, since := none }
          let s := s.setJob c ch h
          if bits v 255 1 = 0 then
            (s.updChan c ch (fun x => ({ x with next := none, port := {} } : Chan).endChain)).updCoreOfTask h.task c (fun k => { k with
              chans := k.chans.set {} ch { k.chan ch with park := a } })
          else match recordJob h a v s.tokens now (s.core c).issue with
            | .error code => s.recordTrap c ch h a causeFMT (BitVec.ofNat 64 code) 5 0
            | .ok j =>
              if (match j.tag with | some t => decide (255 ≤ (s.coreOfTask h.task c).tagcnt.get 0 t) | none => false) then again s {}
              else
                let nx := bits v 0 64
                let s := s.newToken.updCore c (fun k => { k with issue := k.issue + 1 })
                let (s, j) := s.enterJob c j
                s.updChan c ch (fun x => { x with
                  records := x.records ++ [j], next := if nx = 0 then none else some (BitVec.ofNat 64 nx), port := {}, fetchAt := now + 1 })
  | _, _ => s

/-! ### Entering, choosing, completing (R231, R232, R235) -/

/-- PFH (R247): a hint; the adapter form fills the cache where its entry can be had at once. -/
def State.prefetch (s : State) (c ch : Nat) (j : Job) : State :=
  match j.kind with
  | .pfh true =>
    let ag := s.copyAgent c ch j
    let ix := j.n % 4096
    if (s.core c).adapters.any (fun ad => decide (ad.table = j.s) && decide (ad.idx = ix)) then s
    else match (s.read ag (j.s + BitVec.ofNat 64 (16 * ix)) 16).res with
      | .ok b =>
        match s.adapterHead (leNat b) with
        | .error _ => s
        | .ok (fmt, rank, ptr) =>
          let (na, nb) := factorBytes fmt rank
          if ptr.toNat % 4 ≠ 0 then s
          else match (s.read ag ptr (na + nb)).res with
            | .ok f => s.updCore c (fun k => k.cacheAdapter (adapterOf j.s ix fmt rank ptr f))
            | _ => s
      | _ => s
  | _ => s

/-- Does the head of a channel queue enter the engine: it has not yet, no trap holds its channel, and the count of its tag has room (R231, R236)? -/
def State.canEnter (s : State) (c ch : Nat) : Bool :=
  let x := (s.core c).chan ch
  match x.q with
  | [] => false
  | h :: _ => h.entered.isNone && x.halted.isNone
    && (h.isPfh || h.isChain || !(match h.tag with | some t => decide (255 ≤ (s.coreOfTask h.task c).tagcnt.get 0 t) | none => false))

/-- The head of a channel queue enters the engine. -/
def State.enterHead (s : State) (c ch now : Nat) : State :=
  let x := (s.core c).chan ch
  match x.q with
  | [] => s
  | h :: r =>
    if !s.canEnter c ch then s
    else if h.isPfh then (s.prefetch c ch h).updChan c ch (fun x => { x with q := r })
    else if h.isChain then
      s.updChan c ch (fun x => { x with q := { h with entered := some 0, enteredAt := now } :: r, next := some h.s, fetchAt := now })
    else
      let n := (s.core c).issue
      let s := s.updCore c (fun k => { k with issue := n + 1 })
      let (s, h) := s.enterJob c h
      s.updChan c ch (fun x => { x with q := { h with entered := some n, enteredAt := now } :: r })

/-- SEND and PQRY write their register (R261, R269). -/
def State.payJob (s : State) (c : Nat) (j : Job) : State :=
  if j.kind = .send ∨ j.kind = .pqry then
    s.updTagHome c j (fun k =>
      let q := k.quad j.quad
      k.setQuad j.quad ({ q with owed := q.owed.filter (fun o => decide (o.token ≠ j.token)) }.setG j.reg (BitVec.ofNat 64 j.status)))
  else s

/-- A job completes (R235, R236): a record clears OWN, then the tag is set and the job leaves its channel. -/
def State.completeJob (s : State) (c ch now : Nat) (j : Job) : State :=
  let finish (s : State) : State :=
    let s := s.payJob c j
    let s := if j.isCopy then s.updTask j.task (fun t => { t with
        trace := t.trace ++ [{ num := j.num, ch := ch, tag := j.tag, own := j.own, eff := j.slack, doneAt := now, wait := j.waitAt }] }) else s
    let s := match j.tag with | some t => s.updTagHome c j (fun k => k.tagDone t) | none => s
    s.updChan c ch (fun x =>
      ({ x with q := x.q.filter (fun y => decide (y.token ≠ j.token) || y.isChain),
                records := x.records.filter (fun y => decide (y.token ≠ j.token)) } : Chan).endChain)
  match j.record with
  | none => finish s
  | some a =>
    let ag := s.copyAgent c ch j
    let byte := j.recByte % 128 ||| (if j.err then 64 else 0)
    match s.portWrite j.port ag 12 (a + 31) [BitVec.ofNat 8 byte] with
    | (s, _, .ok _) => finish s
    | (s, p, .error e) =>
      match s.copyWait now ag 12 { j with port := p } e with
      | .trap j cause e0 e1 e2 =>
        -- a task that is away takes no trap: the job ends with its record as it is (R317)
        if (s.core c).task ≠ some j.task ∧ !isWalk c then (finish s).failCopy j.task else s.copyTrap c ch j cause e0 e1 e2
      | .wait j | .moved j _ => s.setJob c ch j

/-! ### TRET's part (R253, R394) -/

/-- The image of a channel is replayed: from where the job stopped, or from a DONE that the handler has written (log entry 104); with CSKIP the faulting job
is dropped. DESIGN CHOICE, log entry 131: a dropped PQRY writes 9 into its destination, as R261 says of SEND. -/
def State.replayChan (s : State) (c ch : Nat) (skip : Bool) (done : Option Nat) : State :=
  let x := (s.core c).chan ch
  match x.halted with
  | none => s
  | some n =>
    let s := s.updChan c ch (fun x => { x with halted := none, badRecord := false })
    if x.badRecord then
      if skip then s.updChan c ch (fun x => ({ x with park := x.next.getD 0, next := none } : Chan).endChain) else s
    else match x.active.find? (fun j => decide (j.entered = some n)) with
      | none => s
      | some j =>
        if skip then s.setJob c ch { j with fin := true, err := true, status := 9, redo := [], bad := none }
        else match done with
          | none => s
          | some d => if d = j.shown then s else s.setJob c ch { j with done := min d j.total, buf := [], redo := [], bad := none, port := {}, phase := 0, carry := 0, carryN := 0 }

end Sys2Proof.Machine
end

