-- ==== Sys2Proof/Machine/Projection.lean ====
section
/-! DEFINITION. Projections: what a home does with a command on a slot or a link (R259 to R270, R460), and the SEND, DROP, PQRY and PULL jobs
of the copy engine (R261, R267 to R270). -/

namespace Sys2Proof.Machine

/-! ### Descriptors -/

/-- The rules of R257 and R258 that SEND checks: reserved bits, dimensions, tiles, format, and the extent in one package and one home of 0 to 7. -/
def descLegal (d : Nat) : Bool :=
  let sp := originSpan d
  let lo := (descBase d : Int) + sp.1
  let hi := (descBase d : Int) + sp.2
  descOk d && decide (descTl d 0 * descW d / 8 * descTl d 1 * descTl d 2 * descTl d 3 ≤ 65536)
    && decide (0 ≤ lo) && decide (hi < 2 ^ 64) && decide (lo / 2 ^ 54 = hi / 2 ^ 54) && decide (lo / 2 ^ 54 % 16 < 8)

/-- LDESC (R260): the descriptor of the receiver's copy. -/
def localDesc (d : Nat) (slot : Word) : Nat :=
  let st (j : Nat) : Nat := if j < descNd d then denseStride d j * 2 ^ (192 + 64 * (j - 1)) else 0
  (slot + 4096).toNat + bits d 64 128 * 2 ^ 64 + st 1 + st 2 + st 3 + bits d 384 72 * 2 ^ 384 + 2 ^ 456 + bits d 457 1 * 2 ^ 457

def byte1 (n : Nat) : List (BitVec 8) := leBytes 1 n

/-! ### Commands at a home (log entry 33 gives their AUX codes and payloads) -/

/-- What a command has come to: its answer, a wait, or a wait for a page that is present later (R255). -/
inductive Answer where
  | now (b : List (BitVec 8))
  | later
  | page (fac off : Nat)

/-- Are the pages of a span writable (R460)? The status 0, or 6. -/
def State.pagesOk (s : State) (f asid : Nat) (ns : Bool) : List (Word × Nat) → State × Answer
  | [] => (s, .now (byte1 0))
  | (a, _) :: r =>
    match s.translate f asid a.toNat ns .store with
    | (s, .at _) => s.pagesOk f asid ns r
    | (s, .page g o) => (s, .page g o)
    | (s, .prot _) => (s, .now (byte1 6))

/-- The receiver's step of SEND (R261): the slot becomes PENDING, or a status; it waits for a page (R460). -/
def State.claimSlot (s : State) (f asid off : Nat) (ns : Bool) (d : Nat) : State × Answer :=
  match s.slotAt f asid off ns with
  | none => (s, .now (byte1 6))
  | some (k, base, sz) =>
    if base ≠ off then (s, .now (byte1 6))
    else match s.pagesOk f asid ns (spans (BitVec.ofNat 64 off) (4096 + denseSize d)) with
      | (s, .now r) =>
        if leNat r ≠ 0 then (s, .now r)
        else if 2 ^ sz < 4096 + denseSize d then (s, .now (byte1 5))
        else if (s.slot f k).st ≠ .free then (s, .now (byte1 3))
        else
          (s.updSlot f k (fun _ => { st := .pending, asid := asid, ns := ns, stime := s.time,
                                     addr := BitVec.ofNat 64 (s.pkg * 2 ^ 58 + f * 2 ^ 54 + off) }), .now (byte1 0))
      | x => x

/-- The record and the bitmap of a slot are written (R259, R260); where a page refuses, a LIVE slot is severed (R460). -/
def State.writeSlot (s : State) (f off k : Nat) : State :=
  let x := s.slot f k
  match s.homeWrite f x.asid (off + 2048) x.ns (leBytes 2048 x.bitmap) with
  | some s => s.showSlot f x.asid off x.ns k
  | none => if x.st = .live then s.breakSlot f x.asid off x.ns k else s.showSlot f x.asid off x.ns k

/-- The end of SEND at the receiver: FREE again (0), DONE with every tile (1), or LIVE (2). -/
def State.settleSlot (s : State) (f asid off : Nat) (ns : Bool) (kind d : Nat) (obase : Word) (link : Nat) (ostr : List Word) : State :=
  match s.slotAt f asid off ns with
  | none => s
  | some (k, _, _) =>
    let n := descTileCount d
    if kind = 0 then s.updSlot f k (fun _ => {})
    else
      (s.updSlot f k (fun x => { x with
        st := if kind = 1 then .done else .live
        pulled := if kind = 1 then n else 0
        bitmap := if kind = 1 then 2 ^ n - 1 else 0
        ntm1 := n - 1, link := link, obase := obase, ostr := ostr, ldesc := localDesc d x.addr, renewAt := s.time + 1000000 })).writeSlot f off k

/-- What a re-send needs to know of the slot its BASE lies in (R268): 0 an ordinary tensor, 7 SEVERED, 4 another descriptor, 1 a LIVE slot. -/
def State.sourceQuery (s : State) (f asid off : Nat) (ns : Bool) (d : Nat) : Option (List (BitVec 8)) :=
  match s.slotAt f asid off ns with
  | none => some (byte1 0)
  | some (k, _, _) =>
    let x := s.slot f k
    match x.st with
    | .free | .done => some (byte1 0)
    | .pending => none
    | .severed => some (byte1 7)
    | .live =>
      if x.ldesc ≠ d then some (byte1 4)
      else some (byte1 1 ++ leBytes 8 x.obase.toNat ++ (List.range 3).flatMap (fun j => leBytes 8 (x.ostr.getD j 0).toNat) ++ leBytes 2 (x.link + 1))

/-- A link is installed (R262, R263), or added beside `old` − 1 over its extent (R268): 0 and its number, 2 FULL, 7 no such link. -/
def State.addLink (s : State) (f asid : Nat) (ns : Bool) (rslot : Word) (ntm1 lo hi old : Nat) : State × List (BitVec 8) :=
  let tab := (s.facet f).links
  let o := tab.get {} (old - 1)
  if old ≠ 0 ∧ !o.v then (s, byte1 7)
  else match (List.range 4096).find? (fun i => !(tab.get {} i).v) with
    | none => (s, byte1 2)
    | some i =>
      let l : Link := if old = 0 then { v := true, rslot := rslot, lo := lo, hi := hi, asid := asid, ns := ns, ntm1 := ntm1, renewed := s.time }
        else { o with rslot := rslot, pulled := 0, renewed := s.time }
      (s.updFacet f (fun x => { x with links := x.links.set {} i l }), byte1 0 ++ leBytes 2 i)

/-- A renewal at the origin's home (R266): LAGE := 0, or the SEVER reason. -/
def State.renewLink (s : State) (f k : Nat) (addr : Word) : State × Nat :=
  let l := (s.facet f).links.get {} k
  if l.why addr ≠ 0 then (s, l.why addr)
  else (s.updFacet f (fun x => { x with links := x.links.set {} k { l with renewed := s.time } }), 0)

/-- PQRY's image (R269). -/
def State.pqryImage (s : State) (f asid off : Nat) (ns : Bool) : Nat :=
  match s.slotAt f asid off ns with
  | some (k, _, _) =>
    let x := s.slot f k
    slotCode x.st * 2 ^ 48 + x.link * 2 ^ 32 + (if x.st = .free ∨ x.st = .pending then 0 else x.ntm1 + 1) * 2 ^ 16 + x.pulled
  | none =>
    let l := ((s.facet f).links.cells.filter (fun c => c.2.v && decide (c.2.asid = asid) && decide (c.2.ns = ns)
      && decide (c.2.lo ≤ off) && decide (off ≤ c.2.hi))).map Prod.fst
    7 * 2 ^ 48 + l.headD 0xFFF * 2 ^ 32 + l.length

/-- The pulls of a LIVE slot that a page of the origin holds, or that could not yet leave for another package, are tried again. -/
def State.pullAsked (s : State) (f asid base : Nat) (ns : Bool) (k : Nat) : State :=
  let x := s.slot f k
  if x.st ≠ .live then s
  else ((List.range (x.ntm1 + 1)).filter (fun i => decide (bits x.asked i 1 = 1) && decide (bits x.bitmap i 1 = 0))).foldl
    (fun s i => if (s.slot f k).st = .live then s.pullTile f asid base ns k i else s) s

/-- DROP at the slot's home (R267); false while it waits. -/
def State.dropSlot (s : State) (f asid off : Nat) (ns : Bool) : State × Bool :=
  match s.slotAt f asid off ns with
  | none => (s, true)
  | some (k, base, _) =>
    let s := s.pullAsked f asid base ns k
    let x := s.slot f k
    let clear (s : State) : State :=
      ((s.updSlot f k (fun x => { x with st := .free, bitmap := 0, pulled := 0 })).writeSlot f base k).updSlot f k (fun _ => {})
    match x.st with
    | .free => (s, true)
    | .pending => (s, false)
    | .live => if x.asked &&& x.bitmap ≠ x.asked then (s, false) else (clear (s.releaseLink f asid ns x), true)
    | .done | .severed => (clear s, true)

/-- The named tiles of a slot that are not present (R270). -/
def Slot.missing (x : Slot) (b c : Nat) : List Nat :=
  ((List.range (min c (x.ntm1 + 1 - b))).map (fun i => b + i)).filter (fun i => decide (bits x.bitmap i 1 = 0))

/-- PULL at the slot's home (R270): `none` while it waits; else 0, or 1 with the SEVER reason, the address of the first
missing tile and the link. -/
def State.pullTiles (s : State) (f asid off : Nat) (ns : Bool) (b c : Nat) (started : Bool) : State × Option (List (BitVec 8)) :=
  match s.slotAt f asid off ns with
  | none => (s, some (byte1 0))
  | some (k, base, _) =>
    let severed (x : Slot) : Option (List (BitVec 8)) :=
      match x.missing b c with
      | [] => some (byte1 0)
      | i :: _ =>
        let o := ((tileRows x.ldesc (fun _ => 0) i).head?.map (fun r => r.1)).getD 0
        some (byte1 1 ++ byte1 x.reason ++ leBytes 8 (x.addr.toNat + 4096 + o) ++ leBytes 2 x.link)
    let x := s.slot f k
    match x.st with
    | .live =>
      let s := (x.missing b c).foldl (fun s i => if (s.slot f k).st = .live then s.pullTile f asid base ns k i else s) s
      let y := s.slot f k
      if y.st = .severed then (s, severed y) else if y.missing b c = [] then (s, some (byte1 0)) else (s, none)
    | .severed => (s, if started then severed x else some (byte1 0))
    | _ => (s, some (byte1 0))

/-- A command of AUX code `op` at home f, tried before or not. -/
def State.slotCmd (s : State) (f asid off : Nat) (ns : Bool) (op : Nat) (b : List (BitVec 8)) (started : Bool) : State × Answer :=
  let opt (r : Option (List (BitVec 8))) : Answer := match r with | some b => .now b | none => .later
  match op with
  | 0 => match s.renewLink f (payNat b 0 2) (BitVec.ofNat 64 (payNat b 2 8)) with | (s, r) => (s, .now (byte1 r))
  | 1 => match s.addLink f asid ns (BitVec.ofNat 64 (payNat b 0 8)) (payNat b 8 2) (payNat b 10 8) (payNat b 18 8) (payNat b 26 2) with
    | (s, r) => (s, .now r)
  | 2 => (s.dropLink f (payNat b 0 2) (BitVec.ofNat 64 (payNat b 2 8)), .now (byte1 0))
  | 3 => s.claimSlot f asid off ns (payNat b 0 64)
  | 4 =>
    (s.settleSlot f asid off ns (payNat b 0 1) (payNat b 1 64) (BitVec.ofNat 64 (payNat b 65 8)) (payNat b 73 2)
      ((List.range 3).map (fun j => BitVec.ofNat 64 (payNat b (75 + 8 * j) 8))), .now (byte1 0))
  | 5 => (s, .now (leBytes 8 (s.pqryImage f asid off ns)))
  | 6 => match s.dropSlot f asid off ns with | (s, ok) => (s, if ok then .now (byte1 0) else .later)
  | 7 => match s.pullTiles f asid off ns (payNat b 0 8) (payNat b 8 8) (started || decide (payNat b 16 1 = 1)) with | (s, r) => (s, opt r)
  | _ => (s, opt (s.sourceQuery f asid off ns (payNat b 0 64)))

/-- A job's command: at once at a home of this package, else by a TYPE 12 packet (R368). An answer that waits is `retry`. -/
def State.jobAsk (s : State) (c ch : Nat) (j : Job) (a : Word) (op : Nat) (b : List (BitVec 8)) :
    State × Port × Except Perf (List (BitVec 8)) :=
  let ag := s.copyAgent c ch j
  if !s.isRemote a then
    match s.slotCmd (homeOf a) ag.asid (offOf a) ag.ns op b false with
    | (s, .now r) => (s, {}, .ok r)
    | (s, .later) => (s, {}, .error .retry)
    | (s, .page f off) => (s, {}, .error (.page f off))
  else if !s.feat 6 then (s, {}, .error (.trap causePROT a 4 (memInfo ag.asid 12 0 0)))
  else s.portAsk j.port ag 12 a op 12 b

/-- Bytes of an eager copy go into a PENDING slot, as a copy burst's go anywhere (R230, R261). -/
def State.fillWrite (s : State) (p : Port) (ag : Agent) (a : Word) (b : List (BitVec 8)) : State × Port × Except Perf Unit :=
  let r := s.write { ag with fills := true } a b
  match r.res with
  | .ok _ => (r.st, {}, .ok ())
  | .remote =>
    match s.portAsk p ag 12 a 8 12 b with
    | (s, _, .ok _) => (s, {}, .ok ())
    | (s, p, .error e) => (s, p, .error e)
  | x => (r.st, p, .error (perfOf ag.asid 12 0 a x))

/-! ### The jobs -/

def Job.finish (j : Job) (st : Nat) : Burst := .moved { j with status := st, fin := true, port := {}, since := none, held := .none } 0

/-- Does a SEND copy its tensor? -/
def Job.isEager (j : Job) : Bool := decide (j.kind = .send) && decide (j.phase = 5)

/-- Row and byte of the eager copy's next piece, of at most `most` bytes: the origin's offset, the offset in the dense copy, the bytes. -/
def eagerPiece (most d row x : Nat) : Nat × Nat × Nat :=
  let i1 := row % descExt d 1
  let i2 := row / descExt d 1 % descExt d 2
  let i3 := row / descExt d 1 / descExt d 2
  (i1 * descStride d 1 + i2 * descStride d 2 + i3 * descStride d 3 + x, row * denseRow d + x, min most (cdiv (descDim d 0 * descW d) 8 - x))

/-- SEND (R261, R268). Steps: 0 the descriptor, 1 the receiver's slot, 2 the slot of BASE, 3 the link, 4 LIVE, 5 the eager copy, 6 FREE with a
status, 7 FREE with a trap, 8 DONE. `carry` is the descriptor, `elems` the origin's base, strides and link, or the trap; `n` the byte in row `done`. -/
def State.sendStep (s : State) (c ch now : Nat) (j : Job) : State × Burst :=
  let ag := s.copyAgent c ch j
  let d := j.carry
  let base := BitVec.ofNat 64 (j.elems.getD 0 0)
  let go (j : Job) (ph : Nat) : Burst := .moved { j with phase := ph, port := {}, since := none, held := .none, nextAt := now + 1 } 0
  let ask (a : Word) (op : Nat) (b : List (BitVec 8)) (k : State → List (BitVec 8) → State × Burst) : State × Burst :=
    match s.jobAsk c ch j a op b with
    | (s, _, .ok r) => k s r
    | (s, _, .error (.trap cause e0 r info)) =>
      if r = 4 ∧ j.phase = 1 then (s, .trap { j with port := {}, phase := 0 } cause e0 r info)
      else if r = 4 ∧ (j.phase = 2 ∨ j.phase = 3) then (s, go { j with elems := [cause, e0.toNat, r.toNat, info.toNat], buf := [] } 7)
      else k s (byte1 (if j.phase = 1 ∧ r ≠ 15 then 6 else 8))
    | (s, p, .error e) => (s, s.copyWait now ag 12 { j with port := p } e)
  let settle (kind : Nat) : List (BitVec 8) :=
    leBytes 1 kind ++ leBytes 64 d ++ leBytes 8 base.toNat ++ leBytes 2 (j.elems.getD 5 0) ++ (List.range 3).flatMap (fun i => leBytes 8 (j.elems.getD (i + 1) 0))
  match j.phase with
  | 0 =>
    if j.s.toNat % 64 ≠ 0 then (s, j.finish 4)
    else match s.portRead j.port ag 7 11 j.s 64 with
      | (s, p, .error e) => (s, s.copyWait now ag 11 { j with port := p } e)
      | (s, _, .ok b) =>
        let d := leNat b
        if !descLegal d then (s, j.finish 4) else if 16384 < descTileCount d then (s, j.finish 5)
        else (s, go { j with carry := d, elems := [descBase d, descStride d 1, descStride d 2, descStride d 3, 0, 0] } 1)
  | 1 => ask j.d 3 (leBytes 64 d) (fun s r => (s, if leNat r = 0 then go j 2 else j.finish (leNat r)))
  | 2 => ask base 9 (leBytes 64 d) (fun s r =>
      let code := payNat r 0 1
      if (code = 0 ∨ code = 8) ∧ bits d 456 1 = 0 then (s, go { j with done := 0, n := 0 } 5)
      else if code = 0 then (s, go j 3)
      else if code = 1 then
        (s, go { j with elems := [payNat r 1 8, payNat r 9 8, payNat r 17 8, payNat r 25 8, payNat r 33 2, 0] } 3)
      else (s, go { j with status := code } 6))
  | 3 =>
    let sp := originSpan d
    let lo := ((offOf base : Int) + sp.1).toNat
    let hi := ((offOf base : Int) + sp.2).toNat
    ask base 1 (leBytes 8 j.d.toNat ++ leBytes 2 (descTileCount d - 1) ++ leBytes 8 lo ++ leBytes 8 hi ++ leBytes 2 (j.elems.getD 4 0)) (fun s r =>
      let code := payNat r 0 1
      if code = 0 then (s, go { j with elems := j.elems.take 5 ++ [payNat r 1 2] } 4)
      else if code = 2 ∧ bits d 457 1 = 1 then (s, go { j with done := 0, n := 0 } 5)
      else (s, go { j with status := code } 6))
  | 4 => ask j.d 4 (settle 2) (fun s r => (s, j.finish (leNat r)))
  | 5 =>
    let rows := descExt d 1 * descExt d 2 * descExt d 3
    if rows ≤ j.done then (s, go j 8)
    else
      let (oo, lo, m) := eagerPiece (if s.isRemote j.d then 256 else 512) d j.done j.n
      let src := BitVec.ofNat 64 (descBase d + oo)
      let fail (x : Burst) : Burst := match x with
        | .trap j cause e0 e1 e2 => go { j with elems := [cause, e0.toNat, e1.toNat, e2.toNat], buf := [] } 7
        | x => x
      let put (s : State) (j : Job) (b : List (BitVec 8)) : State × Burst :=
        match s.fillWrite j.port ag (j.d + BitVec.ofNat 64 (4096 + lo)) b with
        | (s, _, .ok _) =>
          let rowOver := decide (cdiv (descDim d 0 * descW d) 8 ≤ j.n + m)
          (s, .moved { j with done := if rowOver then j.done + 1 else j.done, n := if rowOver then 0 else j.n + m, buf := [], port := {}, since := none, held := .none } m)
        | (s, p, .error e) => (s, fail (s.copyWait now ag 12 { j with buf := b, port := p } e))
      if j.buf ≠ [] then put s j j.buf
      else match s.portRead j.port ag 7 11 src m with
        | (s, _, .ok b) => put s { j with port := {} } b
        | (s, p, .error e) => (s, fail (s.copyWait now ag 11 { j with port := p } e))
  | 6 => ask j.d 4 (settle 0) (fun s _ => (s, j.finish j.status))
  | 7 => ask j.d 4 (settle 0) (fun s _ =>
      (s, .trap { j with done := 0, n := 0 } (j.elems.getD 0 0) (BitVec.ofNat 64 (j.elems.getD 1 0)) (BitVec.ofNat 64 (j.elems.getD 2 0))
        (BitVec.ofNat 64 (j.elems.getD 3 0))))
  | _ => ask j.d 4 (settle 1) (fun s r => (s, j.finish (if leNat r = 8 then 8 else 1)))

/-- The slot that a job waits for, where it lies in this package. -/
def State.slotHeld (s : State) (ag : Agent) (a : Word) : WaitFor :=
  if s.isRemote a then .none
  else match s.slotAt (homeOf a) ag.asid (offOf a) ag.ns with
    | some (k, _, _) => .tile (homeOf a) k
    | none => .none

/-- A step of a projection job. -/
def State.projStep (s : State) (c ch now : Nat) (j : Job) : State × Burst :=
  let ag := s.copyAgent c ch j
  let wait (s : State) (j : Job) (e : Perf) : State × Burst := (s, s.copyWait now ag 12 j e)
  match j.kind with
  | .send => s.sendStep c ch now j
  | .drop =>
    match s.jobAsk c ch j j.s 6 [] with
    | (s, _, .ok _) => (s, j.finish 0)
    | (s, p, .error e) => wait s { j with port := p } e
  | .pqry =>
    match s.jobAsk c ch j j.s 5 [] with
    | (s, _, .ok r) => (s, j.finish (leNat r))
    | (s, p, .error e) => wait s { j with port := p } e
  | _ =>
    match s.jobAsk c ch j j.s 7 (leBytes 8 j.d.toNat ++ leBytes 8 j.n ++ leBytes 1 j.phase) with
    | (s, _, .ok r) =>
      if payNat r 0 1 = 0 then (s, j.finish 0)
      else (s, .trap { j with port := {} } causeSEVER (BitVec.ofNat 64 (payNat r 2 8)) (BitVec.ofNat 64 (payNat r 1 1)) (memInfo ag.asid 11 0 (payNat r 10 2)))
    | (s, p, .error e) =>
      match e with
      | .retry => (s, .wait { j with port := p, phase := if s.isRemote j.s ∧ p.ask.isNone then j.phase else 1, nextAt := now + 1, held := s.slotHeld ag j.s })
      | e => wait s { j with port := p } e

end Sys2Proof.Machine
end

