-- ==== Sys2Proof/Machine/CopyWords.lean ====
section
/-! DEFINITION. The meanings of the copy and projection words of E = 4 (R238 to R251, R261, R267 to R270) and the steps of the copy engine. -/

namespace Sys2Proof.Machine

/-! ### Entering a channel queue -/

/-- A job as the splitter captures it (R42, R94, R150). -/
def State.newJob (s : State) (kind : JobKind) : Job :=
  { kind := kind, task := s.taskAt s.cur.core, mode := s.me.rmode % 8, quad := s.cur.quad, wordAt := s.me.pc, pattern := s.me.inst, token := s.tokens }

/-- The job takes a place among the eight of its channel. A SEND or PQRY owes its register. -/
def State.enqueue (s : State) (ch : Nat) (j : Job) (owes : Bool) : State :=
    let s := (s.newToken.updChan s.cur.core ch (fun x => { x with q := x.q ++ [j] })).updMyCore (fun k => k.serve s.cur.quad)
    s.updMe (fun q => ({ q with
      owed := if owes ∧ j.reg ≠ 0 then q.owed ++ [{ token := j.token, dst := .g j.reg, latch := 4, size := 8, sg := false }] else q.owed } : Quad).retire 0)

/-- A copy word, with the register that it owes (0 for none): it waits for a place in its channel (R230), and one steered after a MARK or FENCE waits for it (R237). -/
def State.copyWord (s : State) (l : List (BitVec 6)) (d : BitVec 6) (ch : BitVec 3) (mk : State → Job) : State :=
  if 8 ≤ (s.myCore.chan ch.toNat).q.length ∨ s.me.memQ.any (fun e => match e.op with | .sync _ _ => true | _ => false) then s.poll
  else s.steer (useOf l d 4) (fun s => s.enqueue ch.toNat (mk s) (decide (d ≠ 0)))

def tagOf (tv : BitVec 1) (tag : BitVec 6) : Option Nat := if tv = 1 then some tag.toNat else none
def low32 (x : Word) : Nat := fieldNat x 31 0

/-! ### Copies (R240 to R244) -/

def execCpy (c : BitVec 3) (d y b : BitVec 6) (s : State) : Host.Outcome State Fault Refusal :=
  .next (s.copyWord [d, y, b] 0 c (fun s => { s.newJob .copy with d := s.me.src d, s := s.me.src y, n := low32 (s.me.src b) }))
def execCpyLong (c : BitVec 3) (d y b : BitVec 6) (tv : BitVec 1) (tag : BitVec 6) (sl : BitVec 4) (cv : BitVec 1) (sf df : BitVec 6) (qe : BitVec 2)
    (s : State) : Host.Outcome State Fault Refusal :=
  .next (s.copyWord [d, y, b] 0 c (fun s => { s.newJob .copy with
    d := s.me.src d, s := s.me.src y, n := low32 (s.me.src b), tag := tagOf tv tag, slack := sl.toNat, cv := decide (cv = 1), sfmt := sf.toNat,
    dfmt := df.toNat, qe := qe.toNat }))
def execCpyn (c : BitVec 3) (d y r : BitVec 6) (k : BitVec 3) (s : State) : Host.Outcome State Fault Refusal :=
  .next (s.copyWord [d, y, r] 0 c (fun s => { s.newJob .nest with
    d := s.me.src d, s := s.me.src y, n := low32 (s.me.src r), dims := s.me.dims k.toNat }))
/-- The multicast form is a walk engine's (R244). -/
def execCpynLong (c : BitVec 3) (d y r : BitVec 6) (k : BitVec 3) (tv : BitVec 1) (tag : BitVec 6) (sl : BitVec 4) (cv : BitVec 1) (sf df : BitVec 6)
    (sd mc : BitVec 1) (s : State) : Host.Outcome State Fault Refusal :=
  .next (
    if mc = 1 ∧ !isWalk s.cur.core then s.steer {} (fun s => s.ill 0x0C)
    else s.copyWord ([d, y, r] ++ (if mc = 1 then [tag] else [])) 0 c (fun s => { s.newJob .nest with
      d := s.me.src d, s := s.me.src y, n := low32 (s.me.src r), dims := s.me.dims k.toNat, tag := if mc = 1 then none else tagOf tv tag
      slack := sl.toNat, cv := decide (cv = 1), sfmt := sf.toNat, dfmt := df.toNat, side := decide (sd = 1)
      mask := if mc = 1 then some (s.me.src tag) else none }))

/-! ### Chains and prefetch (R246, R247) -/

def execChain (c : BitVec 3) (a : BitVec 6) (s : State) : Host.Outcome State Fault Refusal :=
  .next (s.copyWord [a] 0 c (fun s => { s.newJob .chain with s := s.me.src a }))
def execPfh (c : BitVec 3) (a b : BitVec 6) (s : State) : Host.Outcome State Fault Refusal :=
  .next (s.copyWord [a, b] 0 c (fun s => { s.newJob (.pfh false) with s := s.me.src a, n := low32 (s.me.src b) }))
def execPfhAdapt (c : BitVec 3) (a b : BitVec 6) (s : State) : Host.Outcome State Fault Refusal :=
  .next (s.copyWord [a, b] 0 c (fun s => { s.newJob (.pfh true) with s := s.me.src a, n := fieldNat (s.me.src b) 11 0 }))

/-! ### Waits and tags (R248 to R251) -/

/-- A cycle at a wait for copies is counted (R428). -/
def State.stood (s : State) : State := s.updMe (fun q => { q with waited := q.waited + 1 })

/-- A quadrant that waits for a job held by a page or a tile has its task suspended (R255); else the wait stands. A walk engine stands. -/
def State.waitFor (s : State) (jobs : List Job) (limit : Nat) (e0 e1 e2 : Word) : State :=
  let s := s.stood
  match (if isWalk s.cur.core then none else jobs.find? (fun j => match j.held with | .page _ _ _ | .tile _ _ => true | _ => false)) with
  | some j =>
    (s.updMe (fun q => { q with wait := none }.poll)).suspendFor (match j.held with | .tile _ _ => .pull | _ => .page) j.held
  | none => s.hold limit e0 e1 e2

/-- A wait of the task on the jobs whose channel and tag `p` names, of those queued before number `upto` and the records of such a chain: one that no wait has named takes the cycle of its
issue, and so does a trace of one that has completed (R428). -/
def State.markWait (s : State) (p : Nat → Option Nat → Bool) (upto : Nat) : State :=
  let at_ := (s.me.wait.map (·.since)).getD s.me.cyc
  let s := s.updTask (s.taskAt s.cur.core) (fun t => { t with
    trace := t.trace.map (fun j => if p j.ch j.tag ∧ j.wait = none then { j with wait := some at_ } else j) })
  s.updMyCore (fun k => { k with chans := k.chans.keys.foldl (fun m ch =>
    let x := m.get {} ch
    let u (j : Job) : Job := if p ch j.tag ∧ j.waitAt = none then { j with waitAt := some at_ } else j
    m.set {} ch { x with q := x.q.map (fun j => if j.token < upto then u j else j)
                         records := if x.q.head?.any (fun j => decide (j.token < upto)) then x.records.map u else x.records }) k.chans })

def namesTag (m : Word) (_ : Nat) (tag : Option Nat) : Bool := tag.any (fun t => m.getLsbD t)

/-- Jobs of the core that name a tag of the mask. -/
def Core.tagged (k : Core) (m : Word) : List Job :=
  k.inFlight.filter (fun j => match j.tag with | some t => m.getLsbD t | none => false)

def execTwall (a : BitVec 6) (i : BitVec 16) (s : State) : Host.Outcome State Fault Refusal :=
  .next (s.steer (useOf [a] 0 4) (fun s =>
    let m := s.me.src a
    let t := s.myCore.tagmap
    let s := s.markWait (namesTag m) s.tokens
    if t &&& m = m then s.retire else s.waitFor (s.myCore.tagged m) i.toNat m t 0xF0))
def execTwany (a : BitVec 6) (i : BitVec 16) (s : State) : Host.Outcome State Fault Refusal :=
  .next (s.steer (useOf [a] 0 4) (fun s =>
    let m := s.me.src a
    let t := s.myCore.tagmap
    let s := s.markWait (namesTag m) s.tokens
    if t &&& m ≠ 0 then s.retire else s.waitFor (s.myCore.tagged m) i.toNat m t 0xF1))

/-- The jobs that a DRAIN waits for: those of its channels that were queued when it issued, prefetches apart (R247, R250). -/
def State.drained (s : State) (chans : List Nat) : List Job :=
  let upto := (s.me.wait.map (·.upto)).getD s.tokens
  chans.flatMap (fun ch => (s.myCore.chan ch).q.filter (fun j => decide (j.token < upto) && !j.isPfh))

/-- Those still outstanding: a chain's are its records (R231, R251). -/
def State.outstanding (s : State) (chans : List Nat) : Nat :=
  (chans.map (fun ch => ((s.drained [ch]).map (fun j => if !j.isChain then 1 else if j.entered.isSome then (s.myCore.chan ch).records.length else 0)).sum)).sum

def execDrain (c : BitVec 3) (l : BitVec 1) (i : BitVec 16) (s : State) : Host.Outcome State Fault Refusal :=
  .next (s.steer {} (fun s =>
    let chans := if l = 1 then List.range 8 else [c.toNat]
    let left := s.drained chans
    let s := s.markWait (fun ch _ => chans.contains ch) ((s.me.wait.map (·.upto)).getD s.tokens)
    if left = [] then s.retire
    else s.waitFor (left ++ chans.flatMap (fun ch => (s.myCore.chan ch).records)) i.toNat (if l = 1 then 8 else zext64 c) (BitVec.ofNat 64 (s.outstanding chans)) 0xF2))

/-- The lowest set bit, 64 for none (R249). -/
def lowestBit (x : Word) : Nat := ((List.range 64).find? (fun i => x.getLsbD i)).getD 64

def execTfind (d a : BitVec 6) (s : State) : Host.Outcome State Fault Refusal :=
  .next (s.steer (useOf [a] d 4) (fun s =>
    let x := lowestBit (s.myCore.tagmap &&& s.me.src a)
    s.updMe (fun q => (q.writeG d.toNat (BitVec.ofNat 64 x)).retire 0)))
def execTclr (a : BitVec 6) (s : State) : Host.Outcome State Fault Refusal :=
  .next (s.steer (useOf [a] 0 4) (fun s =>
    let m := s.me.src a
    (s.updMyCore (fun k => { k with tagmap := k.tagmap &&& ~~~m })).retire))

/-! ### Releases at the splitter (R107, R110, R386) -/

/-- Is an earlier load of the quadrant not yet performed, or an earlier store not yet visible to others (R103): an entry is queued, a value on its way, a store to another package
unacknowledged? -/
def State.unsettled (s : State) : Bool := !s.me.memQ.isEmpty || !(s.me.inFlight s.me.cyc).isEmpty || s.postedLeft s.agent true

/-- A releasing word waits until its quadrant's earlier loads are performed and its earlier stores visible; at gang scope it closes the batches, and an error raises BATCH. -/
def State.release (s : State) (gang : Bool) (k : State → State) : State :=
  let ag := s.agent
  if s.unsettled then s.poll
  else if !gang then k s
  else match s.closing ag 5 with
    | (s, none) => s.poll
    | (s, some (err, peers, lost)) =>
      if err = 0 then k s
      else s.trap causeBATCH s.me.pc (BitVec.ofNat 64 err) (BitVec.ofNat 64 peers) (BitVec.ofNat 64 lost) s.me.pc

/-! ### Projections (R261, R267, R269, R270) -/

def execSend (c : BitVec 3) (d a b : BitVec 6) (s : State) : Host.Outcome State Fault Refusal :=
  .next (if 8 ≤ (s.myCore.chan c.toNat).q.length then s.poll
    else s.steer (useOf [a, b] d 4) (fun s => s.release true (fun s =>
    s.enqueue c.toNat { s.newJob .send with s := s.me.src a, d := s.me.src b, reg := d.toNat } true)))
def execDrop (c : BitVec 3) (a : BitVec 6) (s : State) : Host.Outcome State Fault Refusal :=
  .next (s.copyWord [a] 0 c (fun s => { s.newJob .drop with s := s.me.src a }))
def execPqry (c : BitVec 3) (d a : BitVec 6) (s : State) : Host.Outcome State Fault Refusal :=
  .next (s.copyWord [a] d c (fun s => { s.newJob .pqry with s := s.me.src a, reg := d.toNat }))
def execPull (h : BitVec 3) (a b n : BitVec 6) (s : State) : Host.Outcome State Fault Refusal :=
  .next (s.copyWord [a, b, n] 0 h (fun s => { s.newJob .pull with s := s.me.src a, d := s.me.src b, n := (s.me.src n).toNat }))
def execPullLong (h : BitVec 3) (a b n : BitVec 6) (tv : BitVec 1) (tag : BitVec 6) (s : State) : Host.Outcome State Fault Refusal :=
  .next (s.copyWord [a, b, n] 0 h (fun s => { s.newJob .pull with
    s := s.me.src a, d := s.me.src b, n := (s.me.src n).toNat, tag := tagOf tv tag }))

/-! ### The steps of the engine -/

/-- The task of a core whose copy channels have stopped: it is being saved, and not for a voluntary switch (R256). -/
def State.stoppedTask (s : State) (c : Nat) : Option Nat :=
  match (s.core c).task with
  | some t => if (s.task t).stage ≠ 0 ∧ (s.task t).cause ≠ 0 then some t else none
  | none => none

def Job.runs (stop : Option Nat) (j : Job) : Bool := decide (stop ≠ some j.task)

/-- Effective slack (R232). -/
def Job.eff (j : Job) (now : Nat) : Nat := j.slack - (now - j.enteredAt) / 1024

/-- The copies that may move a burst, with their channels, the least effective slack first, then the earliest. -/
def Core.candidates (k : Core) (now : Nat) : List (Nat × Job) :=
  let all := (List.range 8).flatMap (fun ch => ((k.chan ch).active.filter (fun j =>
    j.entered.isSome && (j.isCopy || j.isEager) && !j.fin && decide (j.nextAt ≤ now) && k.mayRun (k.chan ch) j)).map (fun j => (ch, j)))
  let less (a b : Nat × Job) : Bool :=
    decide (a.2.eff now < b.2.eff now) || (decide (a.2.eff now = b.2.eff now) && before a.2 b.2)
  all.foldl (fun l x => (l.takeWhile (fun y => !less x y)) ++ x :: l.dropWhile (fun y => !less x y)) []

/-- The first candidate that can moves its burst; those before it wait, and what waits for a page, a tile or room in a send queue holds its channel (R255, R371). The cycles that the burst
takes. -/
def State.pickBurst (s : State) (c now : Nat) (shut : List Nat) : List (Nat × Job) → State × Nat
  | [] => (s, 1)
  | (ch, j) :: r =>
    if shut.contains ch then s.pickBurst c now shut r
    else match (if j.isCopy then s.copyStep c ch now j else s.sendStep c ch now j) with
    | (s, .moved j n) => (s.setJob c ch j, max 1 (cdiv n 128))
    | (s, .wait j) => (s.setJob c ch j).pickBurst c now (if j.held = .none then shut else ch :: shut) r
    | (s, .trap j cause e0 e1 e2) => (s.copyTrap c ch j cause e0 e1 e2, 1)

/-- The projection job at the head of a channel goes on; the eager copy of a SEND moves bursts. -/
def State.projTurn (s : State) (c ch now : Nat) : State :=
  match ((s.core c).chan ch).active with
  | j :: _ =>
    if !j.runs (s.stoppedTask c) || j.isCopy || j.isEager || j.fin || j.entered.isNone || decide (now < j.nextAt) || !(s.core c).mayRun ((s.core c).chan ch) j then s
    else match s.projStep c ch now j with
      | (s, .moved j _) | (s, .wait j) => s.setJob c ch j
      | (s, .trap j cause e0 e1 e2) => s.copyTrap c ch j cause e0 e1 e2
  | [] => s

/-- The channels whose heads enter now (R231). -/
def State.entering (s : State) (c : Nat) : List Nat :=
  (List.range 8).filter (fun ch => ((s.core c).chan ch).q.head?.any (fun j => j.runs (s.stoppedTask c)) && s.canEnter c ch)

/-- A turn of the engine: heads that have reached their place enter, in the cycle in which they do (R231); else projection jobs go on, and one copy job moves a burst (R232). -/
def State.copyTurn (s : State) (c : Nat) : State :=
  let now := max s.cycle (s.core c).burst
  let stop := s.stoppedTask c
  let heads := s.entering c
  if heads ≠ [] then heads.foldl (fun s ch => s.enterHead c ch s.cycle) s
  else
  let s := (List.range 8).foldl (fun s ch => s.projTurn c ch now) s
  match s.pickBurst c now [] (((s.core c).candidates now).filter (fun x => x.2.runs stop)) with
  | (s, n) => s.updCore c (fun k => { k with burst := now + n })

def execCopyBurst (core : Nat) (s : State) : Host.Outcome State Fault Refusal := .next (s.copyTurn core)

/-- The job of a channel that is over and not yet complete; what a trap has stopped waits for TRET (R253). -/
def Chan.over (x : Chan) : Option Job := x.active.find? (fun j => j.fin && (match x.halted with | some n => decide (j.entered.getD 0 < n) | none => true))

def execCopyJobCompletion (core ch : Nat) (s : State) : Host.Outcome State Fault Refusal :=
  .next (match ((s.core core).chan ch).over with
    | some j => s.completeJob core ch (max s.cycle j.nextAt) j
    | none => s)

def execChainRecordFetch (core ch : Nat) (s : State) : Host.Outcome State Fault Refusal := .next (s.fetchRecord core ch)

/-- What a core's copy engine could do, with the cycle in which it could. -/
def State.copyTimes (s : State) (c : Nat) : List (Nat × Instr) :=
  let k := s.core c
  let stop := s.stoppedTask c
  let on := k.chans.cells.filter (fun x => x.2.q.head?.any (fun j => j.runs stop))
  let jobs := on.flatMap (fun x => x.2.active.filter (fun j => j.entered.isSome && !j.fin && k.mayRun x.2 j))
  on.flatMap (fun x =>
    (match x.2.over with | some j => [(max k.burst j.nextAt, Instr.copyJobCompletion c x.1)] | none => [])
    ++ (if x.2.next.isSome ∧ x.2.halted.isNone then [(x.2.fetchAt, Instr.chainRecordFetch c x.1)] else []))
  ++ (if s.entering c ≠ [] then [(s.cycle, Instr.copyBurst c)]
      else if jobs = [] then [] else [(max k.burst (jobs.foldl (fun t j => min t j.nextAt) (2 ^ 64)), Instr.copyBurst c)])

end Sys2Proof.Machine
end

