-- ==== Sys2Proof/Machine/LoadStore.lean ====
section
/-! DEFINITION. The meanings of the words of E = 1 (R109 to R128): loads, stores, vector accesses, atomics, MARK, FENCE and the tag
table. Each is one entry of the memory engine. -/

namespace Sys2Proof.Machine

/-! ### Scalar loads and stores (R109, R110, R113) -/

def execLdB (d a : BitVec 6) (o : BitVec 12) (s : State) : Host.Outcome State Fault Refusal := .next (s.memWord (.ldB d a o))
def execLdBn (d a : BitVec 6) (o : BitVec 12) (s : State) : Host.Outcome State Fault Refusal := .next (s.memWord (.ldBn d a o))
def execLdH (d a : BitVec 6) (o : BitVec 12) (s : State) : Host.Outcome State Fault Refusal := .next (s.memWord (.ldH d a o))
def execLdHn (d a : BitVec 6) (o : BitVec 12) (s : State) : Host.Outcome State Fault Refusal := .next (s.memWord (.ldHn d a o))
def execLdW (d a : BitVec 6) (o : BitVec 12) (s : State) : Host.Outcome State Fault Refusal := .next (s.memWord (.ldW d a o))
def execLdWn (d a : BitVec 6) (o : BitVec 12) (s : State) : Host.Outcome State Fault Refusal := .next (s.memWord (.ldWn d a o))
def execLdD (d a : BitVec 6) (o : BitVec 12) (s : State) : Host.Outcome State Fault Refusal := .next (s.memWord (.ldD d a o))
/-- LDA (R110): no later access of the quadrant goes before it. -/
def execLda (d a : BitVec 6) (z c : BitVec 2) (g : BitVec 1) (o : BitVec 7) (s : State) : Host.Outcome State Fault Refusal := .next (s.memWord (.lda d a z c g o))
/-- LDX (R113). -/
def execLdx (d a b : BitVec 6) (z : BitVec 2) (g : BitVec 1) (s : State) : Host.Outcome State Fault Refusal := .next (s.memWord (.ldx d a b z g))
def execStB (v a : BitVec 6) (g : BitVec 4) (o : BitVec 8) (s : State) : Host.Outcome State Fault Refusal := .next (s.memWord (.stB v a g o))
def execStH (v a : BitVec 6) (g : BitVec 4) (o : BitVec 8) (s : State) : Host.Outcome State Fault Refusal := .next (s.memWord (.stH v a g o))
def execStW (v a : BitVec 6) (g : BitVec 4) (o : BitVec 8) (s : State) : Host.Outcome State Fault Refusal := .next (s.memWord (.stW v a g o))
def execStD (v a : BitVec 6) (g : BitVec 4) (o : BitVec 8) (s : State) : Host.Outcome State Fault Refusal := .next (s.memWord (.stD v a g o))
/-- STL (R110): a release at its scope. -/
def execStl (v a : BitVec 6) (g : BitVec 4) (z c : BitVec 2) (o : BitVec 4) (s : State) : Host.Outcome State Fault Refusal := .next (s.memWord (.stl v a g z c o))

/-! ### Vector accesses (R114, R115) -/

def execVld (v : BitVec 5) (a : BitVec 6) (o : BitVec 12) (s : State) : Host.Outcome State Fault Refusal := .next (s.memWord (.vld v a o))
def execVst (v : BitVec 5) (a : BitVec 6) (g : BitVec 4) (k : BitVec 1) (m : BitVec 3) (o : BitVec 4) (s : State) : Host.Outcome State Fault Refusal := .next (s.memWord (.vst v a g k m o))
def execVgath (d : BitVec 5) (a : BitVec 6) (i : BitVec 5) (z : BitVec 2) (g : BitVec 1) (s : State) : Host.Outcome State Fault Refusal := .next (s.memWord (.vgath d a i z g))
def execVscat (v : BitVec 5) (a : BitVec 6) (g : BitVec 4) (i : BitVec 5) (z : BitVec 2) (s : State) : Host.Outcome State Fault Refusal := .next (s.memWord (.vscat v a g i z))

/-! ### Atomics (R117, R118) -/

def execAadd (d a b : BitVec 6) (g : BitVec 4) (c : BitVec 2) (s : State) : Host.Outcome State Fault Refusal := .next (s.memWord (.aadd d a b g c))
def execAand (d a b : BitVec 6) (g : BitVec 4) (c : BitVec 2) (s : State) : Host.Outcome State Fault Refusal := .next (s.memWord (.aand d a b g c))
def execAor (d a b : BitVec 6) (g : BitVec 4) (c : BitVec 2) (s : State) : Host.Outcome State Fault Refusal := .next (s.memWord (.aor d a b g c))
def execAxor (d a b : BitVec 6) (g : BitVec 4) (c : BitVec 2) (s : State) : Host.Outcome State Fault Refusal := .next (s.memWord (.axor d a b g c))
def execAmin (d a b : BitVec 6) (g : BitVec 4) (c : BitVec 2) (s : State) : Host.Outcome State Fault Refusal := .next (s.memWord (.amin d a b g c))
def execAmax (d a b : BitVec 6) (g : BitVec 4) (c : BitVec 2) (s : State) : Host.Outcome State Fault Refusal := .next (s.memWord (.amax d a b g c))
def execAminn (d a b : BitVec 6) (g : BitVec 4) (c : BitVec 2) (s : State) : Host.Outcome State Fault Refusal := .next (s.memWord (.aminn d a b g c))
def execAmaxn (d a b : BitVec 6) (g : BitVec 4) (c : BitVec 2) (s : State) : Host.Outcome State Fault Refusal := .next (s.memWord (.amaxn d a b g c))
def execAswp (d a b : BitVec 6) (g : BitVec 4) (c : BitVec 2) (s : State) : Host.Outcome State Fault Refusal := .next (s.memWord (.aswp d a b g c))
def execAcas (d a b : BitVec 6) (g : BitVec 4) (c : BitVec 2) (s : State) : Host.Outcome State Fault Refusal := .next (s.memWord (.acas d a b g c))

/-! ### Fences and the tag table (R107, R120, R128) -/

/-- MARK and FENCE stand in both queues (R107). -/
def execMark (c : BitVec 2) (s : State) : Host.Outcome State Fault Refusal := .next (s.memWord (.mark c))
def execFence (c : BitVec 2) (s : State) : Host.Outcome State Fault Refusal := .next (s.memWord (.fence c))
def execLkup (d a : BitVec 6) (s : State) : Host.Outcome State Fault Refusal := .next (s.memWord (.lkup d a))
def execTins (a b : BitVec 6) (s : State) : Host.Outcome State Fault Refusal := .next (s.memWord (.tins a b))
def execTinv (a : BitVec 6) (s : State) : Host.Outcome State Fault Refusal := .next (s.memWord (.tinv a))
def execTstat (d a : BitVec 6) (s : State) : Host.Outcome State Fault Refusal := .next (s.memWord (.tstat d a))

/-- An answer from another package has come back: the head of the quadrant's load queue takes it (R126). -/
def execLoadReturn (core quad : Nat) (s : State) : Host.Outcome State Fault Refusal :=
  let s := { s with cur := { core := core, quad := quad } }
  .next (if s.me.memReply.isSome then s.memTurn false else s)

end Sys2Proof.Machine
end

