-- ==== Sys2Proof/Machine/System.lean ====
section
/-! DEFINITION. The system words but TRET (R389 to R400): CSRs, traps, the dictionary and the instruction caches. -/

namespace Sys2Proof.Machine

/-! ### CSRs (R390, R391) -/

/-- Cores that run a task on a facet now (R415). -/
def State.coresBusy (s : State) (f : Nat) : Nat :=
  (s.cores.cells.filter (fun c => !isWalk c.1 && decide (facetOf c.1 = f) && c.2.task.isSome)).length

/-- The value of a CSR, by its number, for quadrant `qn` of core `c` at cycle `now`. -/
def State.csrValue (s : State) (c qn now : Nat) (n : Nat) : Word :=
  let k := s.core c
  let q := k.quad qn
  match n with
  | 0x000 => s.statusOf c qn
  | 0x001 => q.cause
  | 0x002 => q.epc
  | 0x003 => q.trapvec
  | 0x004 => q.einf 0
  | 0x005 => q.einf 1
  | 0x006 => q.einf 2
  | 0x007 => q.einf 3
  | 0x010 => q.rndmode
  | 0x011 => BitVec.ofNat 64 q.batchTag
  | 0x012 => zext64 (s.hub.featoff &&& s.hub.featacc)
  | 0x020 => s.cycleCount c now
  | 0x021 => BitVec.ofNat 64 s.time
  | 0x030 => q.taskid
  | 0x031 => q.nodeid
  | 0x032 => q.instidx
  | 0x033 => q.member.image
  | 0x034 => q.dictbase
  | 0x040 => k.tagmap
  | 0x041 => k.mstatus
  | 0x042 => k.cqf 0
  | 0x043 => k.cqf 1
  | 0x044 => k.cqf 2
  | 0x045 => k.cqf 3
  | 0x050 => BitVec.ofNat 64 q.prog0
  | 0x051 => BitVec.ofNat 64 k.prog1
  | 0x052 => BitVec.ofNat 64 q.prog2
  | 0x053 => q.prog3
  | 0x060 => q.watch.get 0 0
  | 0x061 => q.watch.get 0 1
  | 0x062 => q.watch.get 0 2
  | 0x063 => q.watch.get 0 3
  | _ => BitVec.ofNat 64 ((s.facet (facetOf c)).forecast % 2 ^ 16 * 2 ^ 16 + s.coresBusy (facetOf c))

/-- A value with its low `n` bits cleared. -/
def clearLow (x : Word) (n : Nat) : Word := (x >>> n) <<< n

/-- Is a value of CQFMTk refused (R158, R414)? -/
def State.cqfRefused (s : State) (k : Nat) (x : Word) : Bool :=
  let src := fieldNat x 5 0
  let snk := fieldNat x 11 6
  let mode := fieldNat x 14 12
  !queueCode src || !queueCode snk || (decide (k < 2) && decide (20 ≤ snk)) || decide (6 ≤ mode)
    || (decide (mode = 5) && !s.feat 5) || ((isMarker src || isMarker snk) && !s.feat 1)

/-- Does CSRW of this value raise FMT (R149, R158, R414)? -/
def State.csrRefused (s : State) (n : Nat) (x : Word) : Bool :=
  if n = 0x010 then decide (6 ≤ fieldNat x 2 0) || (decide (fieldNat x 2 0 = 5) && !s.feat 5)
  else if 0x042 ≤ n ∧ n ≤ 0x045 then s.cqfRefused (n - 0x042) x
  else false

/-- The write of a quadrant's own CSR under its access codes; PROG0, PROG2 and PROG3 only while the handler holds an image of that
engine (R390, R392). -/
def Quad.csrPut (q : Quad) (now n : Nat) (x : Word) : Quad :=
  match n with
  | 0x000 => if q.inh then { q with mskip := x.getLsbD 4, xskip := x.getLsbD 5, cskip := x.getLsbD 6, disp := x.getLsbD 7 } else q
  | 0x001 => { q with cause := x }
  | 0x002 => { q with epc := clearLow x 2 }
  | 0x003 => { q with trapvec := clearLow x 2 }
  | 0x004 => { q with einfo := q.einfo.set 0 0 x }
  | 0x005 => { q with einfo := q.einfo.set 0 1 x }
  | 0x006 => { q with einfo := q.einfo.set 0 2 x }
  | 0x007 => { q with einfo := q.einfo.set 0 3 x }
  | 0x010 => { q with rmode := fieldNat x 2 0, cvnanz := w1c q.cvnanz q.cvnanzAt now (x.getLsbD 6), cvsat := w1c q.cvsat q.cvsatAt now (x.getLsbD 7) }
  | 0x050 => if q.inh && !q.vecImg.isEmpty then { q with prog0 := fieldNat x 31 0 } else q
  | 0x052 => if q.inh && !q.memImg.isEmpty then { q with prog2 := fieldNat x 4 0 } else q
  | 0x053 => if q.inh && !q.chImg.keys.isEmpty then
      { q with prog3 := BitVec.ofNat 64 (fieldNat x 58 56 * 2 ^ 56 + fieldNat x 47 0) } else q
  | 0x060 => { q with watch := q.watch.set 0 0 (clearLow x 1) }
  | 0x061 => { q with watch := q.watch.set 0 1 (clearLow x 1) }
  | 0x062 => { q with watch := q.watch.set 0 2 (clearLow x 1) }
  | 0x063 => { q with watch := q.watch.set 0 3 (clearLow x 1) }
  | _ => q

/-- Does the handler of quadrant `qn` hold the matrix image? (R226) -/
def Core.holdsMatrix (k : Core) (qn : Nat) : Bool := k.halt && k.mq.any (fun m => m.fault && decide (m.quad = qn))

/-- The write of a core's CSR. -/
def Core.csrPut (k : Core) (now qn n : Nat) (x : Word) : Core :=
  match n with
  | 0x040 => { k with tagmap := k.tagmap &&& ~~~x }
  | 0x041 => { k with
    satov := w1c k.satov k.satovAt now (x.getLsbD 0), cvnanz := w1c k.cvnanz k.cvnanzAt now (x.getLsbD 1), cvsat := w1c k.cvsat k.cvsatAt now (x.getLsbD 2) }
  | 0x042 => k.setCqfBy now qn 0 (BitVec.ofNat 64 (fieldNat x 14 0))
  | 0x043 => k.setCqfBy now qn 1 (BitVec.ofNat 64 (fieldNat x 14 0))
  | 0x044 => k.setCqfBy now qn 2 (BitVec.ofNat 64 (fieldNat x 14 0))
  | 0x045 => k.setCqfBy now qn 3 (BitVec.ofNat 64 (fieldNat x 14 0))
  | 0x051 => if k.holdsMatrix qn && (k.quad qn).inh then { k with prog1 := fieldNat x 31 0 } else k
  | _ => k

/-- Cycle from which every earlier vector word of the quadrant has completed (R156). -/
def Quad.vecDone (q : Quad) : Nat := (q.pend.filter (fun p => decide (engOf p.eng = 2))).foldl (fun t p => max t p.land) (max q.cyc q.vcyc)

/-- CSRR (R390): RNDMODE waits for earlier vector words, BATCH for earlier BOPEN and BSEL. -/
def execCsrr (d : BitVec 6) (c : BitVec 12) (s : State) : Host.Outcome State Fault Refusal :=
  .next (
    if c.toNat = 0x010 ∧ !s.me.vecQ.isEmpty then s.poll
    else if c.toNat = 0x011 ∧ s.me.memQ.any (fun e => match e.op with | .batch op _ => decide (op ≠ 1) | _ => false) then s.poll
    else s.issue (useOf [] d 4) (fun s =>
      let t := if c.toNat = 0x010 then s.me.vecDone else s.me.cyc
      let x := s.csrValue s.cur.core s.cur.quad t c.toNat
      s.updMe (fun q => (({ q with cyc := t }).writeG d.toNat x).retire 0)))

/-- CSRW (R390): a refused value raises FMT and changes nothing (R149, R158). -/
def execCsrw (a : BitVec 6) (c : BitVec 12) (s : State) : Host.Outcome State Fault Refusal :=
  .next (s.issue (useOf [a] 0 4) (fun s =>
    let x := s.me.src a
    if s.csrRefused c.toNat x then s.trap causeFMT s.me.pc x (zext64 c) 0 0
    else
      let qn := s.cur.quad
      let now := s.me.cyc
      (s.updMyCore (fun k => k.csrPut now qn c.toNat x)).updMe (fun q => (q.csrPut now c.toNat x).retire 0)))

/-! ### Traps (R395, R396) -/

/-- TRAP raises SWT; EPC is the word after it (R395). -/
def execTrap (c : BitVec 16) (s : State) : Host.Outcome State Fault Refusal :=
  .next (s.issue {} (fun s => s.trap causeSWT (s.me.pc + 4) (zext64 c) s.me.pc 0 0))

/-- BRK raises BRKPT before any effect (R396). -/
def execBrk (c : BitVec 16) (s : State) : Host.Outcome State Fault Refusal :=
  .next (s.issue {} (fun s => s.trap causeBRKPT s.me.pc (zext64 c) (s.curPattern &&& 0xFFFFFFFF) 0 0))

/-- A word that decodes to no legal instruction, or that the executing unit may not execute (R71, R72). -/
def execIllegalEncoding (sub : BitVec 8) (s : State) : Host.Outcome State Fault Refusal :=
  .next (s.issue {} (fun s => s.ill sub.toNat))

/-! ### Dictionary and caches (R398 to R400) -/

/-- The core's dictionary is replaced; until its next DFENCE each quadrant may expand with either table (R56, R400). -/
def Core.loadDict (k : Core) (new : Tab (BitVec 128)) : Core :=
  { k with
    dictPrev := k.dict
    dict := new
    q0 := { k.q0 with dictStale := true }
    q1 := { k.q1 with dictStale := true }
    q2 := { k.q2 with dictStale := true }
    q3 := { k.q3 with dictStale := true } }

/-- 256 entries of 16 bytes (R53). -/
def dictOf (b : List (BitVec 8)) : Tab (BitVec 128) :=
  (List.range 256).foldl (fun t i => t.set 0 i (BitVec.ofNat 128 (leNat ((b.drop (16 * i)).take 16)))) Tab.empty

/-- DLOAD (R399). -/
def execDload (a : BitVec 6) (s : State) : Host.Outcome State Fault Refusal :=
  .next (s.issue (useOf [a] 0 4) (fun s =>
    let x := s.me.src a
    let finish (s : State) (d : Tab (BitVec 128)) (t : Nat) : State :=
      (s.updMyCore (fun k => { k.loadDict d with dictFrom := x })).updMe (fun q => ({ q with dictbase := x }).retire t)
    if x = 0 then finish s Tab.empty 0
    else if x.toNat % 16 ≠ 0 then s.trap causeALIGN s.me.pc x 16 (memInfo s.agent.asid 15 0 0) s.me.pc
    else if s.loadsHeld x then s.poll
    else match s.splitRead 15 x 4096 with
      | (s, none) => s
      | (s, some b) => finish s (dictOf b) (if homeOf x = 15 then 39 else s.latency s.agent x + 31)))

/-- DFENCE (R400): the quadrant expands with the new table from here on. -/
def execDfence (s : State) : Host.Outcome State Fault Refusal :=
  .next (s.issue {} (fun s => s.updMe (fun q => ({ q with dictStale := false }).retire 3)))

/-- Cached words that overlap the bytes `a` to `a + n - 1` are dropped. -/
def Quad.dropCached (q : Quad) (a n : Nat) : Quad :=
  { q with icache := ⟨q.icache.cells.filter (fun c => !(decide (a < c.1 + 4) && decide (c.1 < a + n)))⟩ }

/-- Every instruction cache of the package drops the lines of a range (R398, R403). -/
def State.flushCaches (s : State) (a n : Nat) : State :=
  s.cores.keys.foldl (fun s c => s.updCore c (fun k => { k with
    q0 := k.q0.dropCached a n, q1 := k.q1.dropCached a n, q2 := k.q2.dropCached a n, q3 := k.q3.dropCached a n })) s

/-- IFLUSH (R398): it waits for the quadrant's earlier stores to its own package. -/
def execIflush (a b : BitVec 6) (s : State) : Host.Outcome State Fault Refusal :=
  .next (
    if s.me.memQ.any (fun e => inStores e.op && (e.waits || (e.runs 0).any (fun r => !s.isRemote r.1))) then s.poll
    else s.issue (useOf [a, b] 0 4) (fun s =>
      let n := fieldNat (s.me.src b) 31 0
      (s.flushCaches (s.me.src a).toNat n).updMe (fun q => q.retire (if n = 0 then 0 else 199 + cdiv n 64))))

end Sys2Proof.Machine
end

