-- ==== Sys2Proof/Machine/Rings.lean ====
section
/-! DEFINITION. Rings, teams, barriers, semaphores, signals and stage barriers: the words of E = 5 of R280 (R273 to R306). -/

namespace Sys2Proof.Machine

/-! ### Ring control blocks (R273, R275) -/

/-- The fields of a control block. -/
structure Ring where
  blk : Word
  v : Nat

def Ring.base (r : Ring) : Nat := bits r.v 0 64
def Ring.lg (r : Ring) : Nat := bits r.v 64 5
def Ring.z (r : Ring) : Nat := bits r.v 69 5
def Ring.spl (r : Ring) : Nat := bits r.v 74 5
def Ring.spen (r : Ring) : Bool := decide (bits r.v 79 1 = 1)
def Ring.gang (r : Ring) : Bool := decide (bits r.v 80 1 = 1)
def Ring.hp (r : Ring) : Nat := bits r.v 88 8
def Ring.hc (r : Ring) : Nat := bits r.v 96 8
def Ring.pidx (r : Ring) : Nat := bits r.v 160 32
def Ring.aidx (r : Ring) : Nat := bits r.v 192 32
def Ring.cidx (r : Ring) : Nat := bits r.v 224 32
def Ring.spbase (r : Ring) : Nat := bits r.v 256 64
def Ring.spw (r : Ring) : Nat := bits r.v 320 32
def Ring.spa (r : Ring) : Nat := bits r.v 352 32
def Ring.spr (r : Ring) : Nat := bits r.v 384 32

/-- a − b modulo 2^32 (R273). -/
def sub32 (a b : Nat) : Nat := (a + 2 ^ 32 - b) % 2 ^ 32

/-- Home, and package where the home has one. -/
def placeOf (a : Nat) : Nat := let h := a / 2 ^ 54 % 16; if 14 ≤ h then h else a / 2 ^ 54

/-- The checks of QBIND (R282). -/
def Ring.ok (r : Ring) : Bool :=
  let b := r.blk.toNat
  let h := b / 2 ^ 54 % 16
  decide (b % 64 = 0) && decide (1 ≤ r.lg) && decide (r.lg ≤ 20) && decide (4 ≤ r.z) && decide (r.z ≤ 16)
    && (!r.spen || (decide (1 ≤ r.spl) && decide (r.spl ≤ 16)))
    && decide (r.base % 2 ^ r.z = 0) && decide (r.spbase % 2 ^ r.z = 0)
    && decide (bits r.v 416 96 = 0) && decide (bits r.v 104 56 = 0) && decide (bits r.v 81 7 = 0)
    && (decide (h < 8) || decide (h = 14) || decide (h = 15))
    && decide (placeOf r.base = placeOf b) && decide (placeOf (r.base + 2 ^ (r.lg + r.z) - 1) = placeOf b)
    && (!r.spen || (decide (placeOf r.spbase = placeOf b) && decide (placeOf (r.spbase + 2 ^ (r.spl + r.z) - 1) = placeOf b)))

/-- An entry's index: of the ring, or of the spill area. -/
structure Entry where
  spill : Bool
  idx : Nat
  deriving DecidableEq, Repr

def Ring.addrOf (r : Ring) (e : Entry) : Word :=
  if e.spill then BitVec.ofNat 64 (r.spbase + e.idx % 2 ^ r.spl * 2 ^ r.z) else BitVec.ofNat 64 (r.base + e.idx % 2 ^ r.lg * 2 ^ r.z)
/-- The expected phase (R275, R276). -/
def Ring.phase (r : Ring) (e : Entry) : Nat := if e.spill then e.idx / 2 ^ r.spl % 2 else e.idx / 2 ^ r.lg % 2

/-- The index of an address among `first ≤ j < last` of an area of 2^lg entries. -/
def findIdx (base lg z first last : Nat) (a : Word) : Option Nat :=
  let off := (a.toNat + 2 ^ 64 - base) % 2 ^ 64
  if off % 2 ^ z ≠ 0 ∨ 2 ^ (lg + z) ≤ off then none
  else
    let d := (off / 2 ^ z + 2 ^ lg - first % 2 ^ lg) % 2 ^ lg
    if d < sub32 last first then some ((first + d) % 2 ^ 32) else none

/-- The entry at an address: reserved from CIDX, or SPR, up to `last` of the ring or `lastS` of the spill area. -/
def Ring.find (r : Ring) (last lastS : Nat) (a : Word) : Option Entry :=
  match findIdx r.base r.lg r.z r.cidx last a with
  | some j => some { spill := false, idx := j }
  | none => (findIdx r.spbase r.spl r.z r.spr lastS a).map (fun j => { spill := true, idx := j })

/-- An index of the block advanced by one. -/
def Ring.bump (r : Ring) (lo : Nat) : Ring := { r with v := r.v - bits r.v lo 32 * 2 ^ lo + (bits r.v lo 32 + 1) % 2 ^ 32 * 2 ^ lo }

/-! ### The ring operations at the home of the block (R276) -/

/-- The outcome of a ring operation: an address, misuse, a wait with the indexes that WAITX reports, a spill page that is present later, or
a refused access. -/
inductive RingRes where
  | ok (addr : Word)
  | misuse
  | wait (p c : Nat)
  | spill (fac off : Nat)
  | fail (e : Perf)

/-- A word of ring state read under kind 13. -/
def State.ringRead (s : State) (ag : Agent) (a : Word) (n : Nat) : State × Except Perf Nat :=
  let r := s.read ag a n
  match r.res with
  | .ok b => (r.st, .ok (leNat b))
  | x => (r.st, .error (perfOf ag.asid 13 0 a x))
def State.ringWrite (s : State) (ag : Agent) (a : Word) (b : List (BitVec 8)) : State × Except Perf Unit :=
  let r := s.write ag a b
  match r.res with
  | .ok _ => (r.st, .ok ())
  | x => (r.st, .error (perfOf ag.asid 13 0 a x))

/-- The indexes of the ring, or those of its spill area, are written back. -/
def State.ringKeep (s : State) (ag : Agent) (r : Ring) (spill : Bool) (res : RingRes) : State × RingRes :=
  match s.ringWrite ag (r.blk + if spill then 40 else 20) (leBytes 12 (bits r.v (if spill then 320 else 160) 96)) with
  | (s, .error e) => (s, .fail e)
  | (s, .ok _) => (s, res)

/-- Is the ring full, and does a Reserve go to the spill area (R276)? -/
def Ring.full (r : Ring) : Bool := decide (sub32 r.pidx r.cidx = 2 ^ r.lg)
def Ring.spills (r : Ring) : Bool := r.spen && (decide (r.spw ≠ r.spa) || r.full)

def State.reserve (s : State) (ag : Agent) (r : Ring) : State × RingRes :=
  if r.spills then
    if sub32 r.spw r.spr = 2 ^ r.spl then (s, .wait r.spw r.spr)
    else
      let a := r.addrOf { spill := true, idx := r.spw }
      match (s.acceptAll ag .store (spans a (2 ^ r.z))).1 with
      | ⟨s, .ok _⟩ => s.ringKeep ag (r.bump 320) true (.ok a)
      | ⟨s, .page f off⟩ => (s, .spill f off)
      | ⟨s, x⟩ => (s, .fail (perfOf ag.asid 13 0 a x))
  else if r.full then (s, .wait r.pidx r.cidx)
  else s.ringKeep ag (r.bump 160) false (.ok (r.addrOf { spill := false, idx := r.pidx }))

def State.commit (s : State) (ag : Agent) (r : Ring) (a : Word) : State × RingRes :=
  match r.find r.pidx r.spw a with
  | none => (s, .misuse)
  | some e =>
    match s.ringRead ag a 4 with
    | (s, .error x) => (s, .fail x)
    | (s, .ok w) =>
      if w % 2 = r.phase e then (s, .misuse)
      else match s.ringWrite ag a (leBytes 4 (r.phase e)) with
        | (s, .error x) => (s, .fail x)
        | (s, .ok _) => (s, .ok a)

def State.acquire (s : State) (ag : Agent) (r : Ring) : State × RingRes :=
  let e : Option (Entry × Nat) :=
    if r.aidx ≠ r.pidx then some ({ spill := false, idx := r.aidx }, 192)
    else if r.spa ≠ r.spw then some ({ spill := true, idx := r.spa }, 352)
    else none
  match e with
  | none => (s, .wait r.pidx r.cidx)
  | some (e, lo) =>
    let a := r.addrOf e
    match s.ringRead ag a 4 with
    | (s, .error x) => (s, .fail x)
    | (s, .ok w) => if w % 2 = r.phase e then s.ringKeep ag (r.bump lo) e.spill (.ok a) else (s, .wait r.pidx r.cidx)

/-- Released entries at the tail are passed: RL := 0 and the index advances. -/
def State.passReleased (s : State) (ag : Agent) (spill : Bool) : Nat → Ring → State × Except Perf Ring
  | 0, r => (s, .ok r)
  | fuel + 1, r =>
    let a := r.addrOf { spill := spill, idx := if spill then r.spr else r.cidx }
    match s.ringRead ag a 4 with
    | (s, .error x) => (s, .error x)
    | (s, .ok w) =>
      if w / 2 % 2 = 0 then (s, .ok r)
      else match s.ringWrite ag a (leBytes 4 (w % 2)) with
        | (s, .error x) => (s, .error x)
        | (s, .ok _) => s.passReleased ag spill fuel (r.bump (if spill then 384 else 224))

def State.releaseEntry (s : State) (ag : Agent) (r : Ring) (a : Word) : State × RingRes :=
  match r.find r.aidx r.spa a with
  | none => (s, .misuse)
  | some e =>
    match s.ringRead ag a 4 with
    | (s, .error x) => (s, .fail x)
    | (s, .ok w) =>
      if w / 2 % 2 = 1 ∨ w % 2 ≠ r.phase e then (s, .misuse)
      else match s.ringWrite ag a (leBytes 4 (2 + r.phase e)) with
        | (s, .error x) => (s, .fail x)
        | (s, .ok _) =>
          match s.passReleased ag e.spill (if e.spill then sub32 r.spa r.spr else sub32 r.aidx r.cidx) r with
          | (s, .error x) => (s, .fail x)
          | (s, .ok r) => s.ringKeep ag r e.spill (.ok a)

/-- The walks that an attempt has started or joined stay under way where it comes to nothing else (R121). -/
def State.withWalks (s s' : State) : State :=
  (List.range 9).foldl (fun s f => s.updFacet f (fun x => { x with walks := (s'.facet f).walks })) s

/-- An operation on the ring at `blk`, whole or not at all: 0 Reserve, 1 Commit, 2 Acquire, 3 Release, 4 Reserve and Commit. The Reserve of a Commit
that proves misuse stands (R294). -/
def State.ringAt (s : State) (ag : Agent) (blk : Word) (op : Nat) (a : Word) : State × RingRes :=
  match s.ringRead ag blk 64 with
  | (s, .error e) => (s, .fail e)
  | (s0, .ok v) =>
    let r : Ring := { blk := blk, v := v }
    let out := match op with
      | 0 => s0.reserve ag r
      | 1 => s0.commit ag r a
      | 2 => s0.acquire ag r
      | 3 => s0.releaseEntry ag r a
      | _ => match s0.reserve ag r with
        | (s, .ok a) =>
          (match s.ringRead ag blk 64 with
          | (s, .error e) => (s, .fail e)
          | (s, .ok v) =>
            match s.commit ag { blk := blk, v := v } a with
            | (_, .misuse) => (s, .misuse)
            | x => x)
        | (_, .misuse) => (s0, .misuse)
        | x => x
    match out with
    | (s, .ok x) => (s, .ok x)
    | (s, .misuse) => (s, .misuse)
    | (s, .fail (.walk t)) => (s0.withWalks s, .fail (.walk t))
    | (_, x) => (s0, x)

/-! ### Ring operations in packets (log entry 33) -/

/-- The bytes of an outcome: 0 done, 1 misuse, 2 wait, 3 a spill page; its address or indexes. -/
def RingRes.bytes : RingRes → List (BitVec 8)
  | .ok a => leBytes 1 0 ++ leBytes 8 a.toNat
  | .misuse => leBytes 1 1
  | .wait p c => leBytes 1 2 ++ leBytes 4 p ++ leBytes 4 c
  | .spill _ _ => leBytes 1 3
  | .fail _ => []

/-- An operation that a packet asks for. One that comes after its limit, a TIME that the packet carries, does nothing, and is answered as a wait (R288). -/
def State.ringServe (s : State) (ag : Agent) (blk : Word) (op : Nat) (a : Word) (limit : Nat) : State × RingRes :=
  if limit = 0 ∨ s.time ≤ limit then s.ringAt ag blk op a
  else match s.ringRead ag blk 64 with
    | (s, .error e) => (s, .fail e)
    | (s, .ok v) =>
      let r : Ring := { blk := blk, v := v }
      (s, if (op = 0 ∨ op = 4) ∧ r.spills then .wait r.spw r.spr else .wait r.pidx r.cidx)

/-- The TIME at which the limit of the wait at the splitter runs out, 0 for none: cycles of 940 MHz (R288). -/
def State.limitTime (s : State) (limit : Nat) : Nat :=
  let w := s.waitOf limit 0 0 0
  if limit = 0 then 0 else s.time + (w.since + w.limit - s.me.cyc) * 50 / 47

/-- An operation by the word at the splitter: at a home of this package at once, else by request; `none` while the answer is awaited. -/
def State.ringOp (s : State) (blk : Word) (op limit : Nat) (a : Word) : State × Option RingRes :=
  let ag := s.agent
  if !s.isRemote blk then match s.ringAt ag blk op a with | (s, r) => (s, some r)
  else if !s.feat 6 then (s, some (.fail (.trap causePROT blk 4 (memInfo ag.asid 13 0 0))))
  else match s.portAsk { ask := s.me.ask, answer := s.me.answer } ag 3 blk (0x40 + op) 13 (leBytes 8 a.toNat ++ leBytes 8 (s.limitTime limit)) with
    | (s, p, x) =>
      let s := s.updMe (fun q => { q with ask := p.ask, answer := p.answer })
      match x with
      | .error .retry => (s, none)
      | .error e => (s, some (.fail e))
      | .ok b =>
        (s, some (match payNat b 0 1 with
          | 0 => .ok (BitVec.ofNat 64 (payNat b 1 8))
          | 1 => .misuse
          | 2 => .wait (payNat b 1 4) (payNat b 5 4)
          | _ => .spill (homeOf blk) (offOf blk)))

/-! ### Handles (R279, R282) -/

def Quad.handle (q : Quad) (h : Nat) : Handle := q.handles.get {} h
def Quad.setHandle (q : Quad) (h : Nat) (x : Handle) : Quad := { q with handles := q.handles.set {} h x }

/-- The binding of a checked block. -/
def Ring.bind (r : Ring) : Handle := { block := some r.blk, gang := r.gang, hp := r.hp, hc := r.hc }

/-- QBIND (R282): the block is read and checked, then bound. -/
def State.qbind (s : State) (h : Nat) (blk : Word) : State :=
  let bad (s : State) : State := s.trap causePROT s.me.pc blk 13 (memInfo s.agent.asid 13 0 0) s.me.pc
  if blk.toNat % 64 ≠ 0 then bad s
  else match s.splitRead 13 blk 64 with
    | (s, none) => s
    | (s, some b) =>
      let r : Ring := { blk := blk, v := leNat b }
      if r.ok then s.updMe (fun q => (q.setHandle h r.bind).retire 0) else bad s

def execQbindReg (q : BitVec 4) (a : BitVec 6) (s : State) : Host.Outcome State Fault Refusal :=
  .next (s.steer (useOf [a] 0 4) (fun s => s.qbind q.toNat (s.me.src a)))
def execQbindLabel (q : BitVec 4) (o : BitVec 19) (s : State) : Host.Outcome State Fault Refusal :=
  .next (s.steer {} (fun s => s.qbind q.toNat (clearLow s.me.pc 6 + (sext64 o <<< 6))))

/-! ### Ring words (R283 to R287, R294) -/

/-- A word through an unbound handle (R287). -/
def State.unbound (s : State) (h : Nat) : State := s.trap causePROT s.me.pc (BitVec.ofNat 64 h) 14 (memInfo s.agent.asid 13 0 0) s.me.pc

/-- The end of a ring word: the latency of an atomic at the home (R126). -/
def State.ringDone (s : State) (blk : Word) (u : Quad → Quad) : State :=
  let lat := if s.isRemote blk then 1 else s.latency s.agent blk
  s.updMe (fun q => (u q).retire (lat - 1))

/-- A bounded wait whose access is refused: a trap, or a page that is present later, takes effect at the word; a walk, a home that cannot take the access now, and a stalled page are waited
for under its limit (R288). -/
def State.waitFail (s : State) (limit : Nat) (e0 e1 e2 : Word) (r : Perf) : State :=
  match r with
  | .trap .. => s.splitFail r
  | .page .. => (s.updMe (fun q => { q with wait := none })).splitFail r
  | .walk t =>
    let w := s.waitOf limit e0 e1 e2
    if w.over s.me.cyc then s.hold limit e0 e1 e2
    else s.updMe (fun q => { q with wait := some w, cyc := max (q.cyc + 1) (if limit = 0 then t else min t (w.since + w.limit)) })
  | _ => s.hold limit e0 e1 e2

/-- The indexes that the wait has shown last, zero before. -/
def State.shownIdx (s : State) : Word × Word := ((s.me.wait.map (·.e1)).getD 0, (s.me.wait.map (·.e2)).getD 0)

/-- Does an operation wait under a limit? Commit and Release do not (R284, R285). -/
def ringWaits (op : Nat) : Bool := decide (op ≠ 1 ∧ op ≠ 3)

/-- What comes of an operation: its effect, misuse, a wait under the limit, a suspension, a trap at the word. -/
def State.ringEnd (s : State) (h op limit : Nat) (blk : Word) (r : RingRes) (u : Word → Quad → Quad) : State :=
  match r with
  | .ok a => s.ringDone blk (u a)
  | .misuse => s.ringDone blk (fun q => q.setHandle h { q.handle h with err := true })
  | .wait p c => s.hold limit blk (BitVec.ofNat 64 p) (BitVec.ofNat 64 c)
  | .spill f off => if isWalk s.cur.core then s.hold limit blk s.shownIdx.1 s.shownIdx.2 else (s.updMe (fun q => { q with wait := none }.poll)).suspendFor .spill (.page f s.agent.asid off)
  | .fail e => if ringWaits op then s.waitFail limit blk s.shownIdx.1 s.shownIdx.2 e else s.splitFail e

/-- The answer of another package is awaited: an operation that may wait has its limit counted from its issue (R288). Its trap is taken once the answer
shows that nothing has been reserved or acquired (R283): the home performs nothing after the limit (`State.ringServe`; log entry 33). -/
def State.ringAsked (s : State) (op limit : Nat) (blk : Word) : State :=
  if ringWaits op then s.stand limit blk s.shownIdx.1 s.shownIdx.2 else s.poll

def State.ringWord (s : State) (h op limit : Nat) (a : Word) (u : Word → Quad → Quad) : State :=
  match (s.me.handle h).block with
  | none => s.unbound h
  | some blk =>
    match s.ringOp blk op limit a with
    | (s, none) => s.ringAsked op limit blk
    | (s, some r) => s.ringEnd h op limit blk r u

def execQres (d : BitVec 6) (q : BitVec 4) (i : BitVec 12) (s : State) : Host.Outcome State Fault Refusal :=
  .next (s.steer (useOf [] d 4) (fun s => s.ringWord q.toNat 0 i.toNat 0 (fun a x => x.writeG d.toNat a)))
def execQacq (d : BitVec 6) (q : BitVec 4) (i : BitVec 12) (s : State) : Host.Outcome State Fault Refusal :=
  .next (s.steer (useOf [] d 4) (fun s => s.ringWord q.toNat 2 i.toNat 0 (fun a x =>
    (x.writeG d.toNat a).setHandle q.toNat { x.handle q.toNat with last := some a })))

/-- A releasing ring word waits as its scope asks (R278), once its handle is bound. DESIGN CHOICE (log entry 123): the limit of a HAND that reserves counts from its Reserve, after this wait. -/
def State.ringRelease (s : State) (h : Nat) (k : State → State) : State :=
  if (s.me.handle h).block.isNone then s.unbound h
  else if s.me.ask.isSome then k s
  else s.release (s.me.handle h).gang k

def execQcmt (a : BitVec 6) (q : BitVec 4) (s : State) : Host.Outcome State Fault Refusal :=
  .next (s.steer (useOf [a] 0 4) (fun s => s.ringRelease q.toNat (fun s => s.ringWord q.toNat 1 0 (s.me.src a) (fun _ x => x))))

/-- QREL (R285): a = 0 releases LAST. -/
def execQrel (a : BitVec 6) (q : BitVec 4) (s : State) : Host.Outcome State Fault Refusal :=
  .next (s.steer (useOf [a] 0 4) (fun s => s.ringRelease q.toNat (fun s =>
    let h := s.me.handle q.toNat
    match (if a = 0 then h.last else some (s.me.src a)) with
    | none => s.updMe (fun x => (x.setHandle q.toNat { h with err := true }).retire 0)
    | some addr => s.ringWord q.toNat 3 0 addr (fun _ x =>
        x.setHandle q.toNat { h with last := if a = 0 ∨ h.last = some addr then none else h.last }))))

/-- QSTAT's image (R286). -/
def Ring.image (r : Ring) (err : Bool) : Nat :=
  2 ^ 63 * bit err + 2 ^ 62 * bit (decide (r.spw ≠ r.spa)) + sub32 r.aidx r.cidx % 2 ^ 21 * 2 ^ 41 + sub32 r.pidx r.aidx % 2 ^ 21 * 2 ^ 20
    + sub32 r.spw r.spr % 2 ^ 20

def execQstat (d : BitVec 6) (q : BitVec 4) (s : State) : Host.Outcome State Fault Refusal :=
  .next (s.steer (useOf [] d 4) (fun s =>
    let h := s.me.handle q.toNat
    match h.block with
    | none => s.unbound q.toNat
    | some blk =>
      match s.splitRead 13 blk 64 with
      | (s, none) => s
      | (s, some b) => s.ringDone blk (fun x =>
          (x.writeG d.toNat (BitVec.ofNat 64 (({ blk := blk, v := leNat b } : Ring).image h.err))).setHandle q.toNat { h with err := false })))

/-- HAND (R294). -/
def execHand (g : BitVec 6) (q : BitVec 4) (i : BitVec 12) (s : State) : Host.Outcome State Fault Refusal :=
  .next (s.steer { reads := srcRegs [g], writes := gDsts g } (fun s =>
    let h := s.me.handle q.toNat
    let r := s.me.member.role
    match h.block with
    | none => s.unbound q.toNat
    | some _ =>
      if h.hp &&& h.hc ≠ 0 then s.updMe (fun x => (x.setHandle q.toNat { h with err := true }).retire 0)
      else if bits h.hp r 1 = 1 then
        s.ringRelease q.toNat (fun s =>
          if g = 0 then s.ringWord q.toNat 4 i.toNat 0 (fun _ x => x) else s.ringWord q.toNat 1 0 (s.me.src g) (fun _ x => x))
      else if bits h.hc r 1 = 1 then
        s.ringWord q.toNat 2 i.toNat 0 (fun a x => (x.writeG g.toNat a).setHandle q.toNat { x.handle q.toNat with last := some a })
      else s.retire))

/-! ### Choreography (R291 to R293) -/

/-- The words from an address up to another. -/
def wordsTo (a b : Word) : Nat := (b.toNat + 2 ^ 64 - a.toNat) % 2 ^ 64 / 4

/-- Fetch passes the words up to `target`, which count (R295): the loop end test takes place where the last word of the innermost body is passed. -/
def Quad.pass (q : Quad) (target : Word) : Nat → Word → Quad
  | 0, a => { q with pc := a }
  | fuel + 1, a =>
    let all : Quad := { q with pc := target, words := q.words + wordsTo a target }
    match q.loops with
    | l :: _ =>
      if a.toNat ≤ l.last.toNat ∧ l.last.toNat < target.toNat then
        let x := { q with words := q.words + wordsTo a (l.last + 4) }.endTest l.last 4 5
        if x.pc = l.last + 4 ∧ x.loops.length < q.loops.length then x.pass target fuel (l.last + 4) else x
      else all
    | [] => all

/-- ROLE (R292, R293): no issue slot; the words it skips count (R295). -/
def execRole (m : BitVec 8) (y : BitVec 12) (s : State) : Host.Outcome State Fault Refusal :=
  .next (s.updMe (fun q =>
    let n := if m.getLsbD q.member.role then 0 else y.toNat
    { q.pass (q.pc + BitVec.ofNat 64 (4 + 4 * n)) 5 q.pc with inject := none, doneAt := q.cyc }))

def execTeamid (d : BitVec 6) (s : State) : Host.Outcome State Fault Refusal :=
  .next (s.steer (useOf [] d 4) (fun s => s.updMe (fun q => (q.writeG d.toNat q.member.image).retire 0)))

/-! ### Barriers (R298) -/

/-- The quadrants and walk engines of a core's task, as core and quadrant. -/
def State.members (s : State) (t : Nat) : List (Nat × Nat) :=
  ((s.task t).cores.flatMap (fun c => (List.range 4).map (fun u => (c, u))) ++ (s.task t).walks.map (fun c => (c, 0))).filter
    (fun x => !(s.quadOf x.1 x.2).idle)

/-- The last arrival at a barrier over several facets is noted with the context (R415). -/
def State.noteArrival (s : State) (ms : List (Nat × Nat)) : State :=
  if (ms.map (fun x => facetOf x.1)).eraseDups.length ≤ 1 then s
  else s.updCtx s.myTask.ctx (fun x => { x with arrivals := (facetOf s.cur.core :: x.arrivals).take 16 })

/-- A barrier of the listed members: the member arrives once its accesses are done, and passes after the last arrival. -/
def State.barrierWord (s : State) (core : Bool) (ms : List (Nat × Nat)) : State :=
  let q := s.me
  let n (x : Quad) : Nat := if core then x.cbarrier else x.barrier
  let mine := s.cur
  let here (x : Quad) : Option Nat := match x.arrived with | some (k, t) => if k = core ∧ n x = n q then some t else none | none => none
  let others := (ms.filter (fun x => decide (x ≠ (mine.core, mine.quad)))).map (fun x => s.quadOf x.1 x.2)
  let came (x : Quad) : Option Nat := if n q < n x then some 0 else if x.ended then some x.doneAt else here x
  match here q with
  | none =>
    if s.unsettled then s.poll
    else (if others.all (fun x => (came x).isSome) then s.noteArrival ms else s).updMe (fun q => { q with arrived := some (core, q.cyc) }.poll)
  | some t =>
    if others.any (fun x => (came x).isNone) then s.poll
    else
      let last := others.foldl (fun t x => max t ((came x).getD 0)) t
      let lag := if ms.all (fun x => decide (x.1 = mine.core)) then 3 else 100
      if q.cyc < last + lag then s.poll
      else s.updMe (fun q => { (q.retire 0) with
        arrived := none, barrier := if core then q.barrier else q.barrier + 1, cbarrier := if core then q.cbarrier + 1 else q.cbarrier })

def execTbar (s : State) : Host.Outcome State Fault Refusal :=
  .next (s.steer {} (fun s => s.barrierWord false (s.members (s.taskAt s.cur.core))))
def execCbar (s : State) : Host.Outcome State Fault Refusal :=
  .next (s.steer {} (fun s => s.barrierWord true ((s.members (s.taskAt s.cur.core)).filter (fun x => decide (x.1 = s.cur.core)))))

/-! ### Semaphores (R299) -/

def execSmwait (k : BitVec 4) (i : BitVec 12) (s : State) : Host.Outcome State Fault Refusal :=
  .next (s.steer {} (fun s =>
    if s.myCore.smReady s.me.cyc k.toNat then (s.updMyCore (fun c => (c.smTake s.me.cyc k.toNat).serve s.cur.quad)).retire
    else s.hold i.toNat (zext64 k) (BitVec.ofNat 64 (s.myCore.sm.get 0 k.toNat)) 0))
def execSmsig (k : BitVec 4) (s : State) : Host.Outcome State Fault Refusal :=
  .next (s.steer {} (fun s =>
    if s.unsettled then s.poll else (s.updMyCore (fun c => c.smSignal s.me.cyc k.toNat)).retire))

/-! ### Completion signals (R300, R301) -/

/-- Whose watch the splitter's is. -/
def State.watcher (s : State) : Nat × Nat := (s.taskAt s.cur.core, s.seat (s.taskAt s.cur.core) s.cur.core s.cur.quad)
def State.unwatch (s : State) (who : Nat × Nat) : State := { s with watches := s.watches.filter (fun w => decide (w.who ≠ who)) }

/-- The limit of a SIGW on another package has run out: its home is told once, and answers the request with the value as it then stands, unless the
signal has been given (log entry 33). -/
def State.endAsked (s : State) (a : Word) : State :=
  match s.me.ask, s.me.wait with
  | some tok, some w =>
    let p := s.packetTo s.agent 3 a 0 0x46 0 (leBytes 8 tok)
    if w.over s.me.cyc && !w.ended && s.canSend p then (s.send p).updMe (fun q => { q with wait := some { w with ended := true } }) else s
  | _, _ => s

/-- SIGW on a location of another package: one request, which its home answers when the condition holds. -/
def State.signalAsk (s : State) (a b : Word) (cond limit : Nat) : State :=
  match s.portAsk { ask := s.me.ask, answer := s.me.answer } s.agent 3 a 0x45 14 (leBytes 1 cond ++ leBytes 8 b.toNat) with
  | (s, p, x) =>
    let s := s.updMe (fun q => { q with ask := p.ask, answer := p.answer })
    match x with
    | .ok r => if payNat r 0 1 = 1 then s.retire else s.hold limit a (BitVec.ofNat 64 (payNat r 1 8)) b
    | .error .retry => (s.endAsked a).stand limit a 0 b
    | .error e => s.waitFail limit a 0 b e

/-- SIGW (R300): the home tests the value at arrival, then every value the location takes. -/
def State.signalWait (s : State) (a b : Word) (cond limit : Nat) : State :=
  let ag := s.agent
  let who := s.watcher
  let q := s.me
  let wait (s : State) (x : Word) : State := s.hold limit a x b
  if a.toNat % 8 ≠ 0 then s.trap causeALIGN q.pc a 8 (memInfo ag.asid 14 0 0) q.pc
  else if s.isRemote a && s.feat 6 then s.signalAsk a b cond limit
  else match (s.acceptAll ag .load (spans a 8)) with
    | (⟨s, .ok _⟩, (key, _) :: _) =>
      let x := BitVec.ofNat 64 (leNat (s.bytesAt key 8))
      if q.wait.isSome ∧ s.watches.any (fun w => decide (w.who = who)) then
        if s.watches.any (fun w => decide (w.who = who) && w.met) then (s.unwatch who).retire else wait s x
      else
        let s := (s.unwatch who).count key ag.asid (requester s ag)
        if signalHolds cond x b then s.retire
        else wait { s with watches := s.watches ++ [{ who := who, key := key, cond := cond, b := b, met := false }] } x
    | (⟨s, .ok _⟩, []) => if signalHolds cond 0 b then (s.unwatch who).retire else wait s 0
    | (⟨s, x⟩, _) => s.waitFail limit a 0 b (perfOf ag.asid 14 0 a x)

def execSigw (a b : BitVec 6) (i : BitVec 12) (s : State) : Host.Outcome State Fault Refusal :=
  .next (s.steer (useOf [a, b] 0 4) (fun s => s.signalWait (s.me.src a) (s.me.src b) 0 i.toNat))
def execSigwCond (a b : BitVec 6) (i : BitVec 12) (c : BitVec 2) (s : State) : Host.Outcome State Fault Refusal :=
  .next (s.steer (useOf [a, b] 0 4) (fun s => s.signalWait (s.me.src a) (s.me.src b) c.toNat i.toNat))

/-- SIGADD (R301): a release, then a posted atomic add. -/
def execSigadd (a b : BitVec 6) (c : BitVec 2) (s : State) : Host.Outcome State Fault Refusal :=
  .next (s.steer (useOf [a, b] 0 4) (fun s =>
    let ag := s.agent
    let addr := s.me.src a
    let v := s.me.src b
    if addr.toNat % 8 ≠ 0 then s.trap causeALIGN s.me.pc addr 8 (memInfo ag.asid 14 0 0) s.me.pc
    else s.release (decide (c = 3)) (fun s =>
      let r := s.atomically ag addr (fun x => some (x + v))
      match r.res with
      | .ok _ => r.st.retire
      | .remote =>
        match s.post ag 2 0x14 [(addr, leBytes 8 v.toNat)] 8 with
        | (s, .done _ _) => s.retire
        | (s, _) => s.poll
      | x => r.st.splitFail (perfOf ag.asid 14 0 addr x))))

/-! ### Stage barriers (R303, R305) -/

/-- STGE (R303). -/
def execStge (k : BitVec 3) (a b : BitVec 6) (s : State) : Host.Outcome State Fault Refusal :=
  .next (s.steer (useOf [a, b] 0 4) (fun s =>
    let x := s.me.src a
    let n := low32 (s.me.src b)
    let c := s.cur.core
    let st := s.myCore.stb.get {} k.toNat
    let prot (r : Word) : State := s.trap causePROT s.me.pc x r (memInfo s.agent.asid 8 0 0) s.me.pc
    if homeOf x ≠ 15 then prot 11
    else if !s.banksOk c (fieldNat x 18 0) n (s.taskAt c) then prot 5
    else if st.armed ∧ st.credited ≠ st.announced then
      s.trap causeSTAGE s.me.pc (zext64 k + 8) (BitVec.ofNat 64 st.announced) (BitVec.ofNat 64 st.credited) s.me.pc
    else
      let new : Stage := { armed := true, base := fieldNat x 18 0, len := n, announced := n, credited := 0, quad := s.cur.quad }
      (s.updMyCore (fun core => { core with stb := core.stb.set {} k.toNat new })).retire))

/-- STWT (R305). -/
def execStwt (k : BitVec 3) (i : BitVec 12) (s : State) : Host.Outcome State Fault Refusal :=
  .next (s.steer {} (fun s =>
    let st := s.myCore.stb.get {} k.toNat
    if !st.armed ∨ st.credited = st.announced then s.retire
    else s.hold i.toNat (zext64 k) (BitVec.ofNat 64 st.announced) (BitVec.ofNat 64 st.credited)))

end Sys2Proof.Machine
end

