-- ==== Sys2Proof/Machine/Tasks.lean ====
section
/-! DEFINITION. Tasks on cores: frames and parked banks (R352 to R357), stopping and saving the units of a task (R316, R351, R354, R423),
putting a task on a core and restoring it (R340, R356), the words AWAIT, YIELD and TEND, and the waits and limits of a task. -/

namespace Sys2Proof.Machine

/-! ### Units of a task -/

def quadsIn (c : Nat) : List Nat := List.range (if isWalk c then 1 else 4)

/-- The quadrants of a task that are not idle, by core and quadrant, wherever their state is kept. -/
def State.quadsOfTask (s : State) (t : Nat) : List (Nat × Nat) :=
  ((s.task t).units.flatMap (fun c => (quadsIn c).map (fun u => (c, u)))).filter (fun x => !((s.coreOfTask t x.1).quad x.2).idle)

def State.updQuadOfTask (s : State) (t c u : Nat) (f : Quad → Quad) : State := s.updCoreOfTask t c (fun k => k.setQuad u (f (k.quad u)))

/-- The task whose first unit is c: the steps of its save are named by it. -/
def State.leads (s : State) (c : Nat) : Option Nat :=
  match (s.core c).task with
  | some t => if (s.task t).units.head? = some c then some t else none
  | none => none

def State.at_ (s : State) (c u : Nat) : State := { s with cur := { core := c, quad := u } }

/-! ### Frames (R352 to R355, R357) -/

def maskBits (m : Nat) : List Nat := (List.range 8).filter (fun b => decide (bits m b 1 = 1))

/-- FRAMEO or FRAMEF (R357): context-fatal; the frames are not used again. -/
def State.frameFault (s : State) (t cause : Nat) : State :=
  let x := s.task t
  let c := x.units.headD 0
  (s.updCtx x.ctx (fun y => { y with badFrames := y.badFrames ++ x.frames })).contextFatal x.ctx
    { core := c, k := 0, cause := cause, epc := 0, e0 := 0, e1 := 0, e2 := 0, e3 := 0, useInfo := false }

/-- A saved bank: its bytes, then its 128 tag entries (R353). -/
def State.bankImage (s : State) (c b : Nat) : List (BitVec 8) :=
  s.bytesAt (spadKey c (65536 * b)) 65536 ++ (List.range 128).flatMap (fun i =>
    let e := (s.core c).tags.get {} (128 * b + i)
    leBytes 8 (2 ^ 63 * bit e.v + 2 ^ 62 * bit e.v + e.line) ++ leBytes 8 e.asid)

/-- Bytes of a frame, or none. -/
def State.frameRead (s : State) (t : Nat) (a : Word) (n : Nat) : State × Option (List (BitVec 8)) :=
  let r := s.read (s.saver t a) a n
  match r.res with
  | .ok b => (r.st, some b)
  | _ => (r.st, none)

def tailAt (i : Nat) : Nat := 0x29000 + 67584 * i

/-- Does a job write into bank b of its own core c? -/
def Job.hits (c b : Nat) (j : Job) : Bool :=
  let at_ := (j.d.toNat : Int) - offOf j.d + 65536 * b + (if homeOf j.d = 14 then ((2 ^ 19 * idxInFacet c : Nat) : Int) else 0)
  (decide (homeOf j.d = 14) || decide (homeOf j.d = 15)) && meet j.writes (some (at_, at_ + 65535))

/-- Do copies of a task in flight on core c pin its bank b (R317)? A chain may name any bank in the records that it has yet to read. -/
def State.pinned (s : State) (t c b : Nat) : Bool :=
  (List.range 8).any (fun ch =>
    let x := (s.core c).chan ch
    (x.q ++ x.records).any (fun j => decide (j.task = t) && !j.isPfh && (if j.isChain then j.entered.isNone || x.next.isSome else j.hits c b)))

/-- The banks that a task parks on core c and that may be saved (R355), as a mask. -/
def State.savable (s : State) (t c : Nat) : Nat :=
  (((maskBits ((s.core c).parkedMask t)).filter (fun b => !s.pinned t c b)).map (2 ^ ·)).foldl (· + ·) 0

/-- What the tail of a frame is to hold: banks that it holds are read, others taken from core c. -/
def State.tailImages (s : State) (t c i : Nat) : List Nat → State × Option (List (List (BitVec 8)))
  | [] => (s, some [])
  | b :: r =>
    let old := (s.task t).tails.get 0 c
    let (s, x) := if bits old b 1 = 1 then s.frameRead t (s.frameAddr t i + BitVec.ofNat 64 (tailAt ((maskBits old).idxOf b))) 67584 else (s, some (s.bankImage c b))
    match x, s.tailImages t c i r with
    | some x, (s, some l) => (s, some (x :: l))
    | _, (s, _) => (s, none)

/-- The banks that a task parks on core c, pinned ones apart, are saved to its frame's tail (R355), or a frame fault. -/
def State.saveBanks (s : State) (t c : Nat) (inprog : Bool) : State × Bool :=
  let x := s.task t
  let i := x.cores.idxOf c
  let new := s.savable t c
  let all := maskBits (x.tails.get 0 c ||| new)
  if (s.ctx x.ctx).fpsz < tailAt all.length then (s.frameFault t 0x31, false)
  else match s.tailImages t c i all with
    | (s, none) => (s.frameFault t 0x32, false)
    | (s, some l) =>
      let (s, ok, _) := l.foldl (fun (p : State × Bool × Nat) b =>
        let r := p.1.frameWrite t (p.1.frameAddr t i + BitVec.ofNat 64 (tailAt p.2.2)) b
        (r.1, p.2.1 && r.2, p.2.2 + 1)) (s, true, 0)
      let s := s.updTask t (fun x => { x with tails := x.tails.set 0 c (x.tails.get 0 c ||| new) })
      let s := s.updCore c (fun k => { k with banks := (maskBits new).foldl (fun m b => m.set {} b {}) k.banks })
      let (s, ok') := s.writeHeaders t inprog
      if ok && ok' then (s, true) else (s.frameFault t 0x32, false)

/-- Does a frame of a task lie where a write waits, for a migration or a link (R132, R262)? Its saves and restores wait too. -/
def State.frameWaits (s : State) (t : Nat) : Bool :=
  let x := s.task t
  (List.range x.frames.length).any (fun i =>
    let a := s.frameAddr t i
    match (s.acceptAll (s.saver t a) .store (spans a (s.ctx x.ctx).fpsz)).1.res with
    | .wait | .stall _ _ _ | .pull _ _ => true
    | _ => false)

/-- The banks of a tail are loaded into core c, with their tags. -/
def State.loadBanks (s : State) (t c : Nat) : State × Bool :=
  let x := s.task t
  let i := x.cores.idxOf c
  let (s, ok, _) := (maskBits (x.tails.get 0 c)).foldl (fun (p : State × Bool × Nat) b =>
    match p.1.frameRead t (p.1.frameAddr t i + BitVec.ofNat 64 (tailAt p.2.2)) 67584 with
    | (s, none) => (s, false, p.2.2 + 1)
    | (s, some d) =>
      let s := s.poke (spadKey c (65536 * b)) (d.take 65536)
      let tag (j : Nat) : TagEntry :=
        let e := (d.drop (65536 + 16 * j)).take 16
        let w := leNat (e.take 8)
        { v := decide (bits w 63 1 = 1), asid := if bits w 63 1 = 1 then leNat (e.drop 8) % 65536 else 0, line := bits w 0 55 }
      (s.updCore c (fun k => { k with tags := (List.range 128).foldl (fun m j => m.set {} (128 * b + j) (tag j)) k.tags }), p.2.1, p.2.2 + 1)) (s, true, 0)
  (s.updTask t (fun x => { x with tails := x.tails.set 0 c 0 }), ok)

/-- Rows of 256 bytes. -/
def rowsBytes (n : Nat) (f : Nat → Row) : List (BitVec 8) := (List.range n).flatMap (fun i => leBytes 256 (f i).toNat)
def rowsOf (n : Nat) (b : List (BitVec 8)) : Tab Row := (List.range n).foldl (fun m i => m.set 0 i (rowOf (b.drop (256 * i)))) Tab.empty

/-! ### Stopping the units of a task (R76, R227, R256, R354) -/

/-- The accumulator rows that a stopped command has yet to write or to read. -/
def MRun.rowsLeft (r : MRun) : Shape :=
  let x := r.cmd.shape
  let m := r.stopped.row
  { x with base := x.base + m, rows := x.rows - m }

/-- Is a write of an output on its way to another package? It is awaited, and its row is not done before (R423). -/
def MRun.travels (r : MRun) : Bool := decide (r.cmd.op = 6) && r.port.ask.isSome && r.port.answer.isNone

/-- The commands that stop: streams and outputs with rows to come, at a row, MGRP at a block, MNB at a row, an output whose row or whose queue cannot take what it has read;
accumulator commands over rows that a stopped command has yet to write or to read; MSIG, MSTAT and MPROG that a stopped command holds (log entry 121); and what a page holds
(R227, R431). -/
def MRun.stops (stopped : List MRun) (r : MRun) : Bool :=
  r.doneAt.isNone && !r.cmd.reload && (r.paged || decide (r.cmd.op = 0x0C)
    || (r.cmd.isStream && decide (r.row < r.cmd.shape.rows))
    || (decide (r.cmd.op = 6) && !r.travels && (decide (r.row < r.cmd.shape.rows) || decide (r.data ≠ [] ∨ r.elems ≠ [])))
    || (r.cmd.isAccPort && stopped.any (fun x => rowsMeet x.rowsLeft r.cmd.shape))
    || ((r.cmd.op = 0x0D || r.cmd.op = 0x0F) && !stopped.isEmpty)
    || (match r.cmd.word with
      | .mprog _ _ n => stopped.any (fun x => decide (x.cmd.token = r.watch) && decide (x.landed < n.toNat + 1))
      | _ => false))

/-- The matrix engine stops at row boundaries. -/
def State.stopMatrix (s : State) (c : Nat) : State :=
  let (s, stopped, rest) := (s.core c).mrun.foldl (fun (p : State × List MRun × List MRun) r =>
    let (s, x) := p.1.landAll c r
    if r.stops p.2.1 then (s, p.2.1 ++ [x], p.2.2) else (s, p.2.1, p.2.2 ++ [x])) (s, [], [])
  s.updCore c (fun k => { k with
    mrun := rest, mq := stopped.map MRun.stopped ++ k.mq, prog1 := if k.halt then k.prog1 else (stopped.head?.map (fun r => r.stopped.row)).getD k.prog1 })

/-- An entry takes its place in program order. -/
def insertEntry (e : MemEntry) : List MemEntry → List MemEntry
  | [] => [e]
  | x :: r => if e.seq < x.seq then e :: x :: r else x :: insertEntry e r

/-- The lane of a gather that a result is for. -/
def Pend.lane (p : Pend) : Nat := ((List.range 32).find? (fun l => decide (p.mask = (2 ^ 32 - 1) * 2 ^ (32 * l)))).getD 32

/-- A load whose value has not returned in cycle `now` is not performed: the value is discarded, the entry kept (R456). Of a gather these are the lanes from the first one that has
not returned: PROG2 goes back to it (R116). -/
def Quad.recall (q : Quad) (now : Nat) : Quad :=
  let q := (q.flying.filter (fun x => decide (now < x.2))).foldl (fun q x =>
    let d := memDst x.1.op
    let mine (p : Pend) : Bool := decide (p.eng = 1) && decide (p.dst = d.1) && decide (p.latch = d.2) && decide (p.land = x.2)
    { q with
      pend := if x.1.byLanes then q.pend else q.pend.filter (fun p => !mine p)
      memQ := insertEntry x.1 q.memQ }) { q with flying := [] }
  match q.memQ.find? (·.byLanes) with
  | none => q
  | some e =>
    let mine (p : Pend) : Bool := decide (p.eng = 1) && decide (p.dst = (memDst e.op).1) && decide (p.dst ≠ .none) && decide (p.lane < 32) && decide (now < p.land)
    match q.pend.filter mine with
    | [] => q
    | p :: r => { q with pend := q.pend.filter (fun p => !mine p), prog2 := (r.map Pend.lane).foldl min p.lane }

/-- A member stops at its word boundary: at a voluntary switch all its results have landed; else those of the multiply unit enter the
snapshot buffer (R76), unless the buffer is a handler's, and loads under way are kept (R456). DESIGN CHOICE, log entry 125: a handler's own
results stay in flight across such a stop, since R78 holds one snapshot only. -/
def Quad.stop (q : Quad) (voluntary : Bool) (now : Nat) : Quad :=
  if q.idle || q.ended then q
  else if voluntary then q.settle
  else
    let q := q.recall now
    let q := if q.inh then q else q.snapMultiply
    { q with cond := none, arrived := none }

/-- The units of a task stop, for a cause of R353. -/
def State.beginStop (s : State) (t cause : Nat) : State :=
  let x := s.task t
  if x.st ≠ .running ∨ x.stage ≠ 0 then s
  else
    let s := s.updTask t (fun x => { x with stage := 1, cause := cause, saveAt := s.cycle })
    x.units.foldl (fun s c => (s.updCore c (fun k => (quadsIn c).foldl (fun k u => k.setQuad u ((k.quad u).stop (decide (cause = 0)) s.cycle)) k)).stopMatrix c) s

/-- Does a word wait for a partner at a conversion queue, which a pre-emption ends (R192)? -/
def Core.partnerless (k : Core) : Instr → Bool
  | .vqput _ f => decide (k.cqSrc 0 = f.toNat) && !k.cqRoom 0
  | .vqget _ f => decide (k.cqSink 2 = f.toNat) && (k.cq.get [] 2).isEmpty && decide ((k.cqBits.get (0, 0) 2).2 = 0)
  | _ => false

/-- Has the vector unit of a quadrant stopped: its queue is empty, or its head is a repeated word, or waits for a result that is held, or for a partner (R76, R170, R192)? -/
def Core.vecStopped (k : Core) (q : Quad) : Bool :=
  match q.vecQ with
  | [] => true
  | e :: _ => isRepeated e.word || q.vecHeld || q.owesMemTo e.seq (vecUse e.word) || k.partnerless e.word

/-- Is a question of the splitter to another package still open? Those of SIGW and of a condition stay open while the task is away (R300, R316). -/
def Quad.asking (q : Quad) : Bool :=
  q.ask.isSome && q.answer.isNone && q.cond.isNone && !(match q.word with | .sigw .. | .sigwCond .. => true | _ => false)

def Quad.atomicOut (q : Quad) : Bool :=
  q.memTok.isSome && q.memReply.isNone
    && ((q.headOf false).bind (fun i => q.memQ[i]?)).any (fun e => match e.op with | .atomic .. => true | _ => false)

/-- Jobs of a task in the channels of core c. -/
def State.jobsOf (s : State) (t c : Nat) : List Job :=
  (List.range 8).flatMap (fun ch => (((s.core c).chan ch).q ++ ((s.core c).chan ch).records).filter (fun j => decide (j.task = t)))

/-- What a save waits for before it is written (R423, R431). -/
def State.stopReady (s : State) (t : Nat) : Bool :=
  (s.task t).units.all (fun c =>
    let k := s.core c
    k.mrun.isEmpty
      && (quadsIn c).all (fun u =>
        let q := k.quad u
        q.idle || (k.vecStopped q && !q.asking && !q.atomicOut && !s.postedLeft (s.agentOf c 0 u) true
          && (List.range 4).all (fun i => let b := q.batches.get {} i; decide (b.st ≠ .closing) && (decide (b.st ≠ .open) || b.peers.isEmpty))))
      && (decide ((s.task t).cause = 0) || (s.jobsOf t c).all (fun j => j.posted.isEmpty && (j.port.ask.isNone || j.port.answer.isSome))))

/-- The batches of a member that hold peers are closed and opened again; an error is kept (R423). -/
def State.closeForSave (s : State) (c u : Nat) : State :=
  let cur := s.cur
  match (s.at_ c u).closing ((s.at_ c u).agentOf c 0 u) 5 with
  | (s, some (err, peers, lost)) =>
    { (if err = 0 then s else s.updQuad c u (fun q => { q with kept := some (err, peers, lost) })) with cur := cur }
  | (s, none) => { s with cur := cur }

/-- CONTEXT_SAVE (R354): the units of a task that have stopped: when all of it is done, the frame is written. -/
def execContextSave (core : Nat) (s : State) : Host.Outcome State Fault Refusal :=
  .next (match s.leads core with
    | none => s
    | some t =>
      let x := s.task t
      if x.stage ≠ 1 then s
      else
        let s := x.units.foldl (fun s c =>
          ((quadsIn c).filter (fun u => !(isWalk c) && !(s.quadOf c u).idle)).foldl (fun s u => s.closeForSave c u) (s.stopMatrix c)) s
        if !s.stopReady t ∨ s.frameWaits t then s.updTask t (fun x => { x with saveAt := s.cycle + 1 })
        else
          let s := s.updTask t (fun x => { x with stage := 2, saveAt := s.cycle + 1312, valid := false, savedFrom := x.cores })
          match s.writeHeaders t true with
          | (s, true) => s
          | (s, false) => s.frameFault t 0x32)

/-! ### What is kept of a core (R353) -/

/-- A quadrant as its image keeps it. -/
def Quad.kept_ (q : Quad) (voluntary : Bool) (lost : Nat → Word) : Quad :=
  if q.idle then q
  else
    let q := q.settleList (q.pend.filter (fun p => decide (engOf p.eng = 1)))
    let q := { q with pend := q.pend.filter (fun p => decide (engOf p.eng = 0 ∨ engOf p.eng = 2)), memTok := none, memReply := none }
    if q.ended then q
    else if voluntary then
      let q := { q with b := (List.range 4).foldl (fun m i => m.set 0 i (lost i)) Tab.empty }
      if q.cond.isSome then { q.retire 0 with cond := q.cond } else q
    else if q.inh then q else q.snapVector

/-- The channels of a core that go to the image of a task: at a voluntary switch only those that a trap has stopped (R317). -/
def Chan.moves (x : Chan) (t : Nat) (voluntary : Bool) : Bool :=
  x.q.head?.any (fun j => decide (j.task = t)) && (!voluntary || x.halted.isSome)

def Chan.kept (x : Chan) (t : Nat) (voluntary : Bool) : Chan :=
  if x.moves t voluntary then
    { x with q := (x.q.filter (fun j => decide (j.task = t))).map Job.stopped, records := x.records.map Job.stopped, port := {} }
  else if voluntary then { park := x.park }
  else { q := (x.q.filter (fun j => decide (j.task = t))).map Job.stopped, park := x.park }

def Chan.left (x : Chan) (t : Nat) (voluntary : Bool) : Chan :=
  if x.moves t voluntary then { q := x.q.filter (fun j => decide (j.task ≠ t)) }
  else if voluntary then { x with park := 0 }
  else { x with q := x.q.filter (fun j => decide (j.task ≠ t)), park := 0 }

/-- Every channel of an engine changed. -/
def mapChans (l : Tab Chan) (f : Chan → Chan) : Tab Chan := l.keys.foldl (fun m ch => m.set {} ch (f (m.get {} ch))) l

/-- The image of a core. -/
def Core.image (k : Core) (t now : Nat) (voluntary : Bool) (lost : Nat → Word) : Core :=
  { k with
    q0 := k.q0.kept_ voluntary lost, q1 := k.q1.kept_ voluntary (fun i => lost (4 + i)), q2 := k.q2.kept_ voluntary (fun i => lost (8 + i))
    q3 := k.q3.kept_ voluntary (fun i => lost (12 + i))
    chans := mapChans k.chans (fun x => x.kept t voluntary)
    mq := k.mq.filter (fun m => !m.reload)
    task := none, preload := none, banks := Tab.empty, tags := Tab.empty, since := now }

/-- Held banks of a task are parked. -/
def Core.parkBanks (k : Core) (t : Nat) : Core :=
  { k with banks := (List.range 8).foldl (fun b i =>
      if (b.get {} i).task = t ∧ (b.get {} i).st = .held then b.set {} i { st := .parked, task := t } else b) k.banks }

/-- The CSRs that a frame keeps of a quadrant, by number. -/
def frameCsrs : List Nat := [0x000, 0x001, 0x002, 0x003, 0x004, 0x005, 0x006, 0x007, 0x010, 0x011, 0x030, 0x031, 0x032, 0x033, 0x034, 0x050, 0x052, 0x053, 0x060, 0x061, 0x062, 0x063]

/-- The fields of quadrant u of a frame, as offsets and bytes: EPC, where it resumes (R356), its CSRs, registers and latches. DESIGN CHOICE (log entry 107): their places in the area that R353
gives them. -/
def State.quadFields (s : State) (c u : Nat) (q : Quad) : List (Nat × List (BitVec 8)) :=
  let base := 0x1000 + 0x1800 * u
  let words (l : List Word) : List (BitVec 8) := l.flatMap (fun x => leBytes 8 x.toNat)
  if q.idle then []
  else [(base, words (q.pc :: frameCsrs.map (s.csrValue c u s.cycle))),
    (base + 0x100, words ((List.range 48).map q.gr ++ (List.range 4).map q.br ++ [zext64 q.p])),
    (base + 0x2C0, (List.range 8).flatMap (fun i => leBytes 4 (q.mr i).toNat)),
    (base + 0x400, (List.range 32).flatMap (fun i => leBytes 128 (q.vr i).toNat))]

/-- Those of the core: FADE, PROG1, MSTATUS, TAGMAP, sm1 to sm7, and the matrix queue image as patterns (R53, R353). -/
def Core.fields (k img : Core) : List (Nat × List (BitVec 8)) :=
  let n (l : List Nat) : List (BitVec 8) := l.flatMap (leBytes 8)
  [(0x7000, n ([k.fade.toNat, k.prog1, k.mstatus.toNat, k.tagmap.toNat] ++ (List.range 7).map (fun i => k.sm.get 0 (i + 1)))),
    (0x7080, n (img.mq.length :: (img.mq.take 64).flatMap (fun m => [patternOf m.word, m.wordAt.toNat])))]

/-- Core c gives its task up: image, parked banks, and the frame's fixed part (R353, R354); false where the frame refuses. The values are kept in the image too; what no field of the frame
holds is free bytes there (log entry 107). Rows that a reload has yet to bring are in the frame already. -/
def State.saveCore (s : State) (t c : Nat) : State × Bool :=
  let x := s.task t
  let k := s.core c
  let vol := decide (x.cause = 0)
  let n := s.draws
  let img := k.image t s.cycle vol (fun i => Config.lostLatch (n + i))
  let fields := k.fields img ++ (List.range 4).flatMap (fun u => s.quadFields c u (img.quad u))
  let s := { s with draws := if vol then n + 16 else n }
  let s := s.updTask t (fun x => { x with images := x.images.set {} c img })
  let s := s.updCore c (fun k => { k.vacate s.cycle with lastKernel := x.kernel, chans := mapChans k.chans (fun x => x.left t vol) })
  let s := s.updCore c (fun k => k.parkBanks t)
  if isWalk c then (s, true)
  else
    let a := s.frameAddr t (x.cores.idxOf c)
    let n := s.draws
    let (s, ok0) := s.drawn.frameWrite t (a + 0x40) ((List.range 0x8FC0).map (Config.frameByte n))
    let (s, ok0) := fields.foldl (fun (p : State × Bool) x => let r := p.1.frameWrite t (a + BitVec.ofNat 64 x.1) x.2; (r.1, p.2 && r.2)) (s, ok0)
    let (s, ok) := if k.mq.any (·.reload) then (s, true) else s.frameWrite t (a + 0x9000) (rowsBytes 256 (fun i => img.acc.get 0 i))
    let (s, ok') := s.frameWrite t (a + 0x19000) (rowsBytes 128 (fun i => img.wb0.rows.get 0 i) ++ rowsBytes 128 (fun i => img.wb1.rows.get 0 i))
    (s, ok0 && ok && ok')

/-! ### Putting a task on a core (R310, R340, R356, R378) -/

/-- A quadrant goes on in cycle `now`: everything that counts cycles counts from there; a snapshot lands under R77. DESIGN CHOICE, log
entry 125: a handler's results in flight have the cycles left that they had at the stop. -/
def Quad.resumed (q : Quad) (now : Nat) : Quad :=
  if q.idle || q.ended then q
  else { q with
    cyc := now, vcyc := now, vecAt := now, memAt := now, storeAt := now, memStall := none, storeStall := none, flying := [], doneAt := now, icache := Tab.empty, arrived := none
    memQ := q.memQ.map (fun e => { e with since := 0, paged := false })
    pend := q.pend.map (fun p => { p with land := now + (p.land - q.cyc) })
    wait := q.wait.map (fun w => { w with since := now - (q.cyc - w.since) })
    snapBack := q.snapBack || !q.inh, cond := none, condMet := false }

/-- Channels of a restored task: the numbers of its jobs follow those of the copies still running on the core. -/
def Core.joinChan (old img : Core) (now ch : Nat) : Chan :=
  let x := old.chan ch
  let y := img.chan ch
  let job (j : Job) : Job := { j with entered := j.entered.map (· + old.issue), enteredAt := j.enteredAt + (now - img.since), nextAt := now }
  if x.q.isEmpty then { y with q := y.q.map job, records := y.records.map job, halted := y.halted.map (· + old.issue), fetchAt := now }
  else { x with park := y.park }

/-- The image of a task on a core. -/
def Core.install (old img : Core) (t now : Nat) : Core :=
  { img with
    q0 := img.q0.resumed now, q1 := img.q1.resumed now, q2 := img.q2.resumed now, q3 := img.q3.resumed now
    task := some t, preload := old.preload, since := now, tags := old.tags, banks := old.banks, mAt := now, adapters := []
    chans := (List.range 8).foldl (fun (m : Tab Chan) ch => m.set {} ch (old.joinChan img now ch)) Tab.empty
    issue := old.issue + img.issue, burst := max old.burst now, ecccnt := old.ecccnt, eccFreeze := old.eccFreeze, frozen := old.frozen
    stopAt := old.stopAt, dbgAt := old.dbgAt, lost := 0
    lastKernel := old.lastKernel, freeAt := old.freeAt, epoch := old.epoch, epochDue := old.epochDue }

/-- The flows of a unit of core c. -/
def flowOfUnit (pkg c u key : Nat) : Bool := decide (key / 64 = ((pkg * 16 + facetOf c) * 256 + idxInFacet c) * 16 + u)

/-- A source unit takes its next flow epoch and numbers from 0 again (R378). One that still carries packets of a copy of a task that is away does so once they are
acknowledged: a new epoch never meets one (log entry 53). -/
def State.newEpoch (s : State) (c u : Nat) : State :=
  let mine (f : Nat × Flow) : Bool := flowOfUnit s.pkg c u f.1
  if s.fabric.flows.any (fun f => mine f && !f.2.unacked.isEmpty) then s.updCore c (fun k => { k with epochDue := k.epochDue ++ [u] })
  else
    let s := { s with fabric := { s.fabric with flows := s.fabric.flows.filter (fun f => !mine f) } }
    s.updCore c (fun k => { k with epoch := k.epoch.set 0 u ((k.epoch.get 0 u + 1) % 65536) })

/-- Every source unit of a core does at a start and at a restore of a task there. -/
def State.newEpochs (s : State) (c : Nat) : State := (if isWalk c then [13] else List.range 13).foldl (fun s u => s.newEpoch c u) s

/-- The epochs that are due, tried again. -/
def State.lateEpochs (s : State) : State :=
  s.cores.cells.foldl (fun s (c, k) =>
    if k.epochDue = [] then s else k.epochDue.foldl (fun s u => s.newEpoch c u) (s.updCore c (fun k => { k with epochDue := [] }))) s

/-- The prepared or saved images of a task go onto its units, whose first words issue from cycle `now` on. -/
def State.installTask (s : State) (t now : Nat) : State :=
  let x := s.task t
  let s := x.units.foldl (fun s c => (s.updCore c (fun k => k.install (x.images.get {} c) t now)).newEpochs c) s
  s.updTask t (fun x => { x with st := .running, stage := 0, images := Tab.empty, cycleBase := now, waitFor := .none, pageReady := false, joined := none })

/-- The dictionary that a task is restored with on core c (R57): that of its last DLOAD, `old`, read again as the task reads it, from its banks too; one that cannot be read leaves every entry
invalid, and one of another package is not read again (log entry 124). -/
def State.reloadDict (s : State) (t c : Nat) (old : Tab (BitVec 128)) (a : Word) : State × Tab (BitVec 128) :=
  if a = 0 then (s, Tab.empty)
  else
    let r := s.read { s.saver t a with unitCore := c, task := t, fac := facetOf c } a 4096
    match r.res with
    | .ok b => (r.st, dictOf b)
    | .remote => (s, old)
    | _ => (r.st, Tab.empty)

/-- The reload of the accumulators that a restore puts ahead of the matrix queue image (R228, R356). -/
def reloadCmd (a : Word) (quad token : Nat) : MCmd :=
  { word := .maccld 0 0 0 0 255, ops := [a + 0x9000], quad := quad, token := token, reload := true }

/-- The fixed part of a core's frame is loaded (R356): weight buffers, dictionary, and the reload of the accumulators. -/
def State.reloadCore (s : State) (t c : Nat) : State × Bool :=
  let x := s.task t
  let img := x.images.get {} c
  let a := s.frameAddr t (x.cores.idxOf c)
  match s.frameRead t a 0x19000 with
  | (s, none) => (s, false)
  | (s, some _) =>
    match s.frameRead t (a + 0x19000) 65536 with
    | (s, none) => (s, false)
    | (s, some w) =>
      let (s, d) := s.reloadDict t c img.dict img.dictFrom
      let u := ((List.range 4).find? (fun u => !(img.quad u).idle)).getD 0
      (s.newToken.updTask t (fun x => { x with images := x.images.set {} c { img with
        acc := Tab.empty, mq := reloadCmd a u s.tokens :: img.mq.filter (fun m => !m.reload), dict := d
        wb0 := { img.wb0 with rows := rowsOf 128 w }, wb1 := { img.wb1 with rows := rowsOf 128 (w.drop 32768) } } }), true)

/-- Do copies of other tasks still run in a channel of core c that the image of a task fills? -/
def State.chanClash (s : State) (t c : Nat) : Bool :=
  ((s.task t).images.get {} c).chans.cells.any (fun y => !y.2.q.isEmpty && !((s.core c).chan y.1).q.isEmpty)

/-- A preloaded task takes its core over (R340): one that is being restored, once that has taken its time. -/
def State.promote (s : State) (c : Nat) : State :=
  let k := s.core c
  match k.preload, k.task with
  | some t, none =>
    if s.cycle < (s.task t).saveAt ∨ s.chanClash t c then s.updCore c (fun k => { k with freeAt := max (s.cycle + 1) (s.task t).saveAt })
    else
      let x := s.task t
      if x.valid && s.frameWaits t then s.updCore c (fun k => { k with freeAt := s.cycle + 1 })
      else match (if x.valid then s.writeHeaders t false else (s, true)) with
        | (s, true) => (s.updCore c (fun k => { k with preload := none })).installTask t (s.cycle + 16)
        | (s, false) => s.frameFault t 0x32
  | _, _ => s

/-- What a restore loads: the tail of every frame, and its fixed part, whose dictionary may lie in the banks. -/
def State.loadTask (s : State) (t : Nat) : State × Bool :=
  (s.task t).cores.foldl (fun (p : State × Bool) c =>
    let (s, b) := p.1.loadBanks t c
    let (s, a) := s.reloadCore t c
    (s, p.2 && a && b)) (s, true)

/-- RESTORE_COMPLETE (R356): frames and tails are loaded, and every quadrant goes on, once the copies of other tasks have left its channels (log entry 108); a context pre-empted meanwhile is saved again (R358). -/
def execRestoreComplete (core : Nat) (s : State) : Host.Outcome State Fault Refusal :=
  .next (match s.leads core with
    | none => s
    | some t =>
      let x := s.task t
      if x.stage ≠ 3 then s
      else if s.frameWaits t ∨ x.cores.any (s.chanClash t) then s.updTask t (fun x => { x with saveAt := s.cycle + 1 })
      else
        let (s, ok) := s.loadTask t
        match (if ok then s.writeHeaders t false else (s, false)) with
        | (s, true) => let s := s.installTask t s.cycle; if (s.ctx x.ctx).preReq then s.beginStop t 0xFF else s
        | (s, false) => s.frameFault t 0x32)

/-! ### Conditions of a task that is away (R289, R316) -/

/-- Whose watch that of a condition is. -/
def State.awayWatcher (s : State) (t c u : Nat) : Nat × Nat := (t, 2 ^ 16 + s.seat t c u)
def condPlace : Cond → Option (Word × Word × Nat)
  | .eq a b => some (a, b, 0)
  | .ge a b => some (a, b, 2)
  | _ => none

/-- The memory key of a word of this package that a task may load, as its home sees it now. -/
def State.keyFor (s : State) (ag : Agent) (a : Word) : Option Nat :=
  match s.acceptAll { ag with instant := true } .load (spans a 8) with
  | (⟨_, .ok _⟩, (key, _) :: _) => some key
  | _ => none

/-- The agent of a quadrant of a task, on its core or away, as a home looks for it. -/
def State.agentFor (s : State) (t c u : Nat) : Agent :=
  let x := s.ctx (s.task t).ctx
  { s.agentOf c 0 u with task := t, asid := x.asid, ns := x.ns, instant := true }

/-- The ring operation that the word at a quadrant's splitter performs: the block, the operation, its operand. -/
def Quad.ringAsk (q : Quad) : Option (Word × Nat × Word) :=
  let at_ (h : BitVec 4) (op : Nat) (a : Word) : Option (Word × Nat × Word) := (q.handle h.toNat).block.map (fun blk => (blk, op, a))
  match q.word with
  | .qres _ h _ => at_ h 0 0
  | .qacq _ h _ => at_ h 2 0
  | .hand g h _ =>
    if bits (q.handle h.toNat).hp q.member.role 1 = 1 then (if g = 0 then at_ h 4 0 else at_ h 1 (q.src g)) else at_ h 2 0
  | _ => none

/-- What a quadrant of a task that is away asks of another package: the location of a condition, or the ring operation that its word stands at. -/
def State.awayAsk (s : State) (t c u : Nat) : Option (Word × Nat × List (BitVec 8)) :=
  let q := (s.coreOfTask t c).quad u
  match q.cond.bind condPlace, q.cond, q.ringAsk with
  | some (a, b, code), _, _ => if s.isRemote a then some (a, 0x45, leBytes 1 code ++ leBytes 8 b.toNat) else none
  | none, none, some (blk, op, a) => if s.isRemote blk ∧ q.wait.isSome then some (blk, 0x40 + op, leBytes 8 a.toNat) else none
  | _, _, _ => none

/-- Has the answer come that ends the wait? An error ends the wait of a ring word, which then takes its trap; a condition is asked for again. -/
def Quad.answered (q : Quad) : Bool :=
  q.answer.any (fun r => if q.cond.isSome then decide (r.status = 0) else decide (r.status ≠ 0) || decide (payNat r.bytes 0 1 ≠ 2))

/-- The question of a quadrant that is away is asked, anew where the last answer did not end the wait; a package that is unreachable is not asked. -/
def State.askAway (s : State) (t c u : Nat) : State :=
  let q := (s.coreOfTask t c).quad u
  match s.awayAsk t c u with
  | none => s
  | some (a, aux, b) =>
    if q.ask.isSome ∧ q.answer.isNone then s
    else match s.portAsk {} (s.agentFor t c u) 3 a aux (if aux = 0x45 then 14 else 13) b with
      | (s, p, .error .retry) => s.updQuadOfTask t c u (fun q => { q with ask := p.ask, answer := p.answer })
      | (s, _, _) => s.updQuadOfTask t c u (fun q => { q with ask := none, answer := none })

/-- Has a local condition of a quadrant that is away no watch yet: its page migrates, or is present later? -/
def State.unwatched (s : State) (t c u : Nat) : Bool :=
  match ((s.coreOfTask t c).quad u).cond.bind condPlace with
  | some (a, _, _) => !s.isRemote a && !s.watches.any (fun w => decide (w.who = s.awayWatcher t c u))
  | none => false

/-- The location of a condition is watched at its home (R316): there now, or asked for in another package. -/
def State.watchCond (s : State) (t c u : Nat) : State :=
  match ((s.coreOfTask t c).quad u).cond.bind condPlace with
  | some (a, b, code) =>
    let ag := s.agentFor t c u
    if !s.unwatched t c u then s.askAway t c u
    else match s.keyFor ag a with
      | none => s
      | some key =>
        let v := BitVec.ofNat 64 (leNat (s.bytesAt key 8))
        { s.count key ag.asid (requester s ag) with
          watches := s.watches ++ [{ who := s.awayWatcher t c u, key := key, cond := code, b := b, met := signalHolds code v b }] }
  | none => s.askAway t c u

/-- The locations of the conditions are watched from the switch on (R316). -/
def State.watchConds (s : State) (t : Nat) : State :=
  ((s.quadsOfTask t).filter (fun x => (((s.coreOfTask t x.1).quad x.2).cond.bind condPlace).isSome)).foldl (fun s x => s.watchCond t x.1 x.2) s

def State.watchMet (s : State) (who : Nat × Nat) : Bool := s.watches.any (fun w => decide (w.who = who) && w.met)

/-- Would the ring operation of a quadrant go on now? -/
def State.ringMoves (s : State) (t c u : Nat) (q : Quad) : Bool :=
  match q.ringAsk with
  | none => true
  | some (blk, op, a) =>
    if s.isRemote blk then q.answered
    else match (s.ringAt (s.agentFor t c u) blk op a).2 with | .wait _ _ => false | _ => true

/-- Has the wait that a quadrant stands at come to its end? -/
def State.waitOver (s : State) (t c u : Nat) : Bool :=
  let k := s.coreOfTask t c
  let q := k.quad u
  let left (chs : List Nat) : Bool := !(chs.any (fun ch =>
    (((s.core c).chan ch).q ++ (k.chan ch).q).any (fun j => !j.isPfh && decide (j.token < (q.wait.map (·.upto)).getD s.tokens))))
  match q.word with
  | .twall a _ => decide (k.tagmap &&& q.src a = q.src a)
  | .twany a _ => decide (k.tagmap &&& q.src a ≠ 0)
  | .drain ch l _ => left (if l = 1 then List.range 8 else [ch.toNat])
  | .smwait i _ => k.smReady s.cycle i.toNat
  | .stwt i _ => let b := k.stb.get {} i.toNat; !b.armed || decide (b.credited = b.announced)
  | .qres .. | .qacq .. | .hand .. => s.ringMoves t c u q
  | .sigw a _ _ | .sigwCond a _ _ _ => if s.isRemote (q.src a) then q.answer.isSome else s.watchMet (t, s.seat t c u)
  | _ => true

/-- Does the condition of a quadrant hold now? -/
def State.condNow (s : State) (t c u : Nat) : Bool :=
  let k := s.coreOfTask t c
  let q := k.quad u
  match q.cond with
  | some (.eq a _) | some (.ge a _) => if s.isRemote a then q.answered else s.watchMet (s.awayWatcher t c u)
  | some (.tags b) => decide (k.tagmap &&& b = b)
  | some .free => true
  | none => q.atTend || q.ended || s.waitOver t c u

/-- Could a step of AWAIT_CONDITION_MET do something for a task? -/
def State.condDue (s : State) (t : Nat) : Bool :=
  let x := s.task t
  let open_ := (s.quadsOfTask t).filter (fun p => !((s.coreOfTask t p.1).quad p.2).condMet)
  (decide (x.st = .away) || (decide (x.st = .running) && (decide (x.stage = 2) || decide (x.stage = 4)) && decide (x.cause = 0)))
    && (open_.any (fun p => s.condNow t p.1 p.2) || (open_.isEmpty && decide (x.st = .away)))

/-- Does a quadrant of a task that is away have to ask another package, or to look again for the place of its condition? -/
def State.condAsks (s : State) (t : Nat) : Bool :=
  decide ((s.task t).st = .away) && (s.quadsOfTask t).any (fun p =>
    let q := (s.coreOfTask t p.1).quad p.2
    !q.condMet && (s.unwatched t p.1 p.2 || ((q.ask.isNone || q.answer.isSome) && (s.awayAsk t p.1 p.2).isSome)))

/-- Does a task wait for nothing: do all its members that run stand at YIELD (R316)? -/
def State.yields (s : State) (t : Nat) : Bool :=
  (s.quadsOfTask t).all (fun p => let q := (s.coreOfTask t p.1).quad p.2; q.atTend || decide (q.cond = some .free))

/-- AWAIT_CONDITION_MET (R316): every condition that holds is noted; once each has held, the task is RESTORABLE. The watch of a SIGW stays, with what it has
seen (R300). A task that only yielded joins its list at the tail. -/
def execAwaitConditionMet (task : Nat) (s : State) : Host.Outcome State Fault Refusal :=
  .next (
    let s := if (s.task task).st = .away then s.updTask task (fun x => { x with saveAt := s.cycle + 1 }) else s
    let s := (s.quadsOfTask task).foldl (fun s p =>
      if ((s.coreOfTask task p.1).quad p.2).condMet then s
      else if s.condNow task p.1 p.2 then s.updQuadOfTask task p.1 p.2 (fun q =>
        if q.cond.isSome then { q with condMet := true, ask := none, answer := none } else { q with condMet := true })
      else if (s.task task).st = .away then s.watchCond task p.1 p.2 else s) s
    if (s.task task).st = .away ∧ (s.quadsOfTask task).all (fun p => ((s.coreOfTask task p.1).quad p.2).condMet) then
      { s.updTask task (fun x => { x with st := .restorable, joined := if s.yields task then some s.cycle else none }) with watches := s.watches.filter (fun w => decide (w.who.1 ≠ task) || decide (w.who.2 < 2 ^ 16)) }
    else s)

/-! ### The end of a save (R354) -/

/-- Does the event that a suspended task waits for lie behind it (R265, R351)? -/
def State.eventCame (s : State) (x : Task) : Bool :=
  x.pageReady || (match x.waitFor with
    | .tile f k =>
      let y := s.slot f k
      decide (y.st ≠ .live) || (decide (pkgOf y.obase ≠ s.pkg) && decide (y.asked &&& y.bitmap = y.asked))
    | .none => true
    | _ => false)

/-- A suspended task whose event has come is RESTORABLE (R351). -/
def State.wakeTasks (s : State) : State :=
  (s.tasks.cells.filter (fun t => decide (t.2.st = .suspended) && s.eventCame t.2)).foldl (fun s t => s.updTask t.1 (fun x => { x with st := .restorable })) s

/-- A pre-emption is done when every running task of the context is saved (R358). -/
def State.checkPreempted (s : State) (cx : Nat) : State :=
  let c := s.ctx cx
  if c.preReq && !c.preDone && !s.tasks.cells.any (fun t => decide (t.2.ctx = cx) && decide (t.2.st = .running)) then
    (s.updCtx cx (fun c => { c with preDone := true })).event (.preempted cx)
  else s

/-! ### Why a task leaves its core -/

def suspCode : SuspCause → Nat | .page => 1 | .pull => 2 | .spill => 3 | .ropf => 4

/-- TASK_SUSPEND (R351): a task that is not RUNNING, or is being saved, is not suspended. -/
def execTaskSuspend (core : Nat) (cause : SuspCause) (s : State) : Host.Outcome State Fault Refusal :=
  .next (match (s.core core).task with
    | some t => s.beginStop t (suspCode cause)
    | none => s)

/-- PULL_WAIT_TIMEOUT (R265). -/
def execPullWaitTimeout (core quad : Nat) (s : State) : Host.Outcome State Fault Refusal :=
  .next (match (s.core core).task with
    | some t => if (s.quadOf core quad).memStall.isSome then s.beginStop t (suspCode .pull) else s
    | none => s)

/-- The memory and vector queues of a core have run empty, or to an entry that a page holds (R316, R351). -/
def Core.queuesRun (k : Core) : Bool :=
  (List.range 4).all (fun u => let q := k.quad u; (q.memQ.isEmpty || q.memQ.head?.any (·.paged)) && q.vecQ.isEmpty && q.trapReqs.isEmpty && q.trapWait.isNone)

/-- Can the plain task on a core switch away: all its quadrants stand, and its queues have run? -/
def State.switchReady (s : State) (c : Nat) : Bool :=
  match (s.core c).task with
  | some t => decide ((s.task t).st = .running) && decide ((s.task t).stage = 0) && s.allStand t && (s.core c).queuesRun
  | none => false

/-- The task leaves its core at a voluntary switch: what it waits for is watched from here. -/
def State.switchTask (s : State) (t : Nat) : State := (s.beginStop t 0).watchConds t

/-- SWITCH_AWAY (R316). -/
def execSwitchAway (core : Nat) (s : State) : Host.Outcome State Fault Refusal :=
  .next (match (s.core core).task with
    | some t => if s.switchReady core then s.switchTask t else s
    | none => s)

/-- May the waits of a core yield now: each has lasted the threshold (R289)? -/
def State.yieldReady (s : State) (c : Nat) : Bool :=
  match (s.core c).task with
  | some t =>
    let x := s.task t
    let qs := ((List.range 4).map (fun u => s.quadOf c u)).filter (fun q => !q.idle)
    decide (x.st = .running) && decide (x.stage = 0) && !x.team && decide (x.ythr ≠ 0) && (s.core c).queuesRun
      && qs.any Quad.mayYield
      && qs.all (fun q => q.atTend || (q.mayYield && q.wait.any (fun w => decide (w.since + 64 * x.ythr ≤ max q.cyc s.cycle))))
  | none => false

/-- WAIT_YIELD (R289). -/
def execWaitYield (core : Nat) (s : State) : Host.Outcome State Fault Refusal :=
  .next (match (s.core core).task with
    | some t => if s.yieldReady core then s.switchTask t else s
    | none => s)

/-- WAIT_LIMIT_EXPIRY (R251, R288, R385): the wait that stands past its limit raises WAITX. -/
def execWaitLimitExpiry (core quad : Nat) (s : State) : Host.Outcome State Fault Refusal :=
  .next (match (s.quadOf core quad).wait with
    | some w =>
      if w.limit = 0 ∨ (s.quadOf core quad).cyc < w.since + w.limit then s
      else ({ s.updQuad core quad (fun q => { q with wait := none }) with
          watches := s.watches.filter (fun x => decide (x.who ≠ (s.taskAt core, s.seat (s.taskAt core) core quad))) } : State).trapAt core quad causeWAITX
        (s.quadOf core quad).pc w.e0 w.e1 w.e2 w.e3
    | none => s)

/-- When the watchdog of a quadrant expires, in cycles (R395). -/
def State.watchdogAt (s : State) (c u : Nat) : Option Nat :=
  match (s.core c).task with
  | none => none
  | some t =>
    let x := s.task t
    let q := s.quadOf c u
    let lim := (s.ctx x.ctx).wdoglim
    if lim = 0 ∨ x.st ≠ .running ∨ x.stage ≠ 0 ∨ q.idle ∨ q.ended then none else some (q.doneAt + 940 * lim)

/-- WATCHDOG_EXPIRY (R395): context-fatal WDOG. -/
def execWatchdogExpiry (core quad : Nat) (s : State) : Host.Outcome State Fault Refusal :=
  .next (match s.watchdogAt core quad with
    | some t =>
      if s.cycle < t then s
      else s.contextFatal (s.task (s.taskAt core)).ctx
        { core := core, k := quad, cause := 0x34, epc := (s.quadOf core quad).epc, e0 := 0, e1 := 0, e2 := 0, e3 := 0, useInfo := false }
    | none => s)

/-- EXPOSED_RESULT_LANDING (R43, R77): the results whose cycle has come land. -/
def execExposedResultLanding (core quad : Nat) (s : State) : Host.Outcome State Fault Refusal :=
  .next (s.updQuad core quad (fun q => q.landDue s.cycle))

/-! ### AWAIT, YIELD and TEND (R312, R316, R318) -/

/-- The quadrant stands at its switch point, once every exposed result has landed. -/
def State.standAt (s : State) (c : Cond) : State :=
  s.updMe (fun q =>
    let t := q.pend.foldl (fun t p => max t p.land) q.cyc
    if q.cyc < t then { q with cyc := t } else { q.settle with cond := some c, waited := q.waited + (match c with | .tags _ => 1 | _ => 0) }.poll)

def State.inTeam (s : State) : Bool := s.myTask.team

/-- AWAIT on a location of another package: its home is asked once whether the task may load it, then the quadrant stands. -/
def State.awaitAsk (s : State) (a : Word) (c : Cond) : State :=
  if s.me.cond.isSome ∨ s.me.pend.any (fun p => decide (s.me.cyc < p.land)) then s.standAt c
  else match s.portAsk { ask := s.me.ask, answer := s.me.answer } s.agent 4 a 7 14 [] with
    | (s, p, x) =>
      let s := s.updMe (fun q => { q with ask := p.ask, answer := p.answer })
      match x with
      | .ok _ => s.standAt c
      | .error e => s.splitFail e

/-- AWAIT on a location: in a team it stands as SIGW does, with no limit (R318). -/
def State.awaitPlace (s : State) (a b : Word) (code : Nat) (c : Cond) : State :=
  let ag := s.agent
  if a.toNat % 8 ≠ 0 then s.trap causeALIGN s.me.pc a 8 (memInfo ag.asid 14 0 0) s.me.pc
  else if s.inTeam then s.signalWait a b code 0
  else if s.isRemote a && s.feat 6 then s.awaitAsk a c
  else match (s.acceptAll ag .load (spans a 8)).1 with
    | ⟨s, .ok _⟩ => s.standAt c
    | ⟨s, x⟩ => s.splitFail (perfOf ag.asid 14 0 a x)

def execAwaitEq (a b : BitVec 6) (s : State) : Host.Outcome State Fault Refusal :=
  .next (s.steer (useOf [a, b] 0 4) (fun s => s.awaitPlace (s.me.src a) (s.me.src b) 0 (.eq (s.me.src a) (s.me.src b))))
def execAwaitGen (a b : BitVec 6) (s : State) : Host.Outcome State Fault Refusal :=
  .next (s.steer (useOf [a, b] 0 4) (fun s => s.awaitPlace (s.me.src a) (s.me.src b) 2 (.ge (s.me.src a) (s.me.src b))))
def execAwaitTags (b : BitVec 6) (s : State) : Host.Outcome State Fault Refusal :=
  .next (s.steer (useOf [b] 0 4) (fun s =>
    let m := s.me.src b
    if !s.inTeam then s.standAt (.tags m)
    else if s.myCore.tagmap &&& m = m then s.retire
    else s.stood.hold 0 m s.myCore.tagmap 0))
/-- YIELD does nothing in a team (R318). -/
def execYield (s : State) : Host.Outcome State Fault Refusal :=
  .next (s.steer {} (fun s => if s.inTeam then s.retire else s.standAt .free))

/-- Matrix commands that quadrant u has pushed and that have not completed (R201). -/
def Core.commandsOf (k : Core) (u : Nat) : Bool := k.mq.any (fun m => decide (m.quad = u)) || k.mrun.any (fun r => decide (r.cmd.quad = u))

/-- The member stops; when every member has, the task is ENDING (R312). -/
def State.endMember (s : State) : State :=
  let s := s.updMe (fun q => { q.settle with ended := true, doneAt := q.cyc, wait := none, words := q.words + q.wlen / 4 })
  let t := s.taskAt s.cur.core
  if (s.members t).all (fun x => (s.quadOf x.1 x.2).ended) then s.updTask t (fun x => { x with st := .ending }) else s

/-- TEND (R312): as STL.gang, then until its matrix commands and vector words are done and every exposed result has landed. -/
def execTend (s : State) : Host.Outcome State Fault Refusal :=
  .next (s.steer {} (fun s => s.release (!isWalk s.cur.core) (fun s =>
    let q := s.me
    let t := q.pend.foldl (fun t p => max t p.land) q.cyc
    if (!isWalk s.cur.core && s.myCore.commandsOf s.cur.quad) || !q.vecQ.isEmpty then s.poll
    else if q.cyc < t then s.updMe (fun q => { q with cyc := t })
    else s.endMember)))

end Sys2Proof.Machine
end

