-- ==== Sys2Proof/Machine/FrontEnd.lean ====
section
/-! DEFINITION. The front end: what it reads and writes, graphs and their checks (R321 to R325), shapes and loci (R341 to R348), launches, the
counter tree and its signals and interrupts (R331 to R335), the end of recording and replay (R343, R346, R428). -/

namespace Sys2Proof.Machine

/-! ### Reads and writes of the front end and the dispatchers -/

/-- Why a read gave nothing: it waits (another package, a page that is present later), or it cannot be made. -/
inductive FeErr where
  | wait | fail
  deriving DecidableEq, Repr

/-- A piece of work of the front end that reads memory: it is done whole once every read has been made. -/
abbrev Fe := ExceptT FeErr (StateM State)

/-- The reader: the hub (8) or a facet's dispatcher, for an ASID and world, and the piece of work that it reads for. -/
structure Who where
  f : Nat
  asid : Nat
  ns : Bool
  work : Nat

def Who.mark (w : Who) : Nat := w.f + 16 * w.work
def Who.key (w : Who) (a : Word) : Nat := w.mark * 2 ^ 64 + a.toNat

/-- What has been kept of the reads of a piece of work is dropped: it is done. -/
def State.feDone (s : State) (w : Who) : State :=
  { s with hub := { s.hub with
      feCache := s.hub.feCache.filter (fun x => decide (x.1 / 2 ^ 64 ≠ w.mark))
      fePorts := s.hub.fePorts.filter (fun x => decide (x.1 / 2 ^ 64 ≠ w.mark)) } }

/-- A read of `n` bytes, each made once in a piece of work. -/
def State.feRead (s : State) (w : Who) (a : Word) (n : Nat) : State × Except FeErr (List (BitVec 8)) :=
  if n = 0 then (s, .ok [])
  else match s.hub.feCache.find? (fun x => decide (x.1 = w.key a) && decide (n ≤ x.2.length)) with
    | some x => (s, .ok (x.2.take n))
    | none =>
      let ag := homeAgent s w.f w.asid w.ns
      let p := ((s.hub.fePorts.find? (fun x => decide (x.1 = w.key a))).map Prod.snd).getD {}
      match s.portRead p ag 4 8 a n with
      | (s, _, .ok b) =>
        ({ s with hub := { s.hub with
            feCache := (w.key a, b) :: s.hub.feCache, fePorts := s.hub.fePorts.filter (fun x => decide (x.1 ≠ w.key a)) } }, .ok b)
      | (s, p, .error e) =>
        match e with
        | .trap .. => (s, .error .fail)
        | _ => ({ s with hub := { s.hub with fePorts := (w.key a, p) :: s.hub.fePorts.filter (fun x => decide (x.1 ≠ w.key a)) } }, .error .wait)

def feBytes (w : Who) (a : Word) (n : Nat) : Fe (List (BitVec 8)) := do
  let s ← get
  match s.feRead w a n with
  | (s, .ok b) => set s; pure b
  | (s, .error e) => set s; throw e

/-- A read that may fail. -/
def feTry (w : Who) (a : Word) (n : Nat) : Fe (Option (List (BitVec 8))) := do
  let s ← get
  match s.feRead w a n with
  | (s, .ok b) => set s; pure (some b)
  | (s, .error .fail) => set s; pure none
  | (s, .error .wait) => set s; throw .wait

def State.fe {α : Type} (s : State) (m : Fe α) : State × Except FeErr α :=
  let r := (ExceptT.run m).run s
  (r.2, r.1)

/-! ### The hub's writes: signals, interrupts, loci -/

/-- A completion record is written at the queue's TAIL (R335, R407): the state, whether it is over, and the port of a write that waits. One that finds the queue full is
dropped; one that its page refuses is lost too (log entry 71). -/
def State.interrupt (s : State) (p : Port) (cx v : Nat) : State × Bool × Port :=
  let c := s.ctx cx
  let lost (s : State) : State := s.updCtx cx (fun c => { c with ciqLost := true })
  if (c.ciqTail + 2 ^ 32 - c.ciqHead) % 2 ^ 32 = 2 ^ c.ciqLog then (lost s, true, {})
  else
    match s.portWrite p (homeAgent s 8 c.asid c.ns) 8 (c.ciqbase + BitVec.ofNat 64 (16 * (c.ciqTail % 2 ^ c.ciqLog))) (leBytes 16 v) with
    | (s, _, .ok _) => ((s.updCtx cx (fun c => { c with ciqTail := (c.ciqTail + 1) % 2 ^ 32 })).event (.interrupt cx), true, {})
    | (s, _, .error (.trap ..)) => (lost s, true, {})
    | (s, p, .error _) => (s, false, p)

/-- A write of a recorder has faulted: the locus returns to free, what else the recorder had to write is dropped, and the launch goes on unrecorded (R343). -/
def State.recorderFault (s : State) (x : Signal) : State :=
  match (s.launch x.recorder).use with
  | .recording a =>
    let s := s.updLaunch x.recorder (fun l => { l with use := .dynamic, record := Tab.empty })
    { s with hub := { s.hub with
        signals := s.hub.signals.filter (fun y => decide (y.recorder ≠ x.recorder)) ++ [{ addr := a, val := 0, asid := x.asid, ns := x.ns, bytes := leBytes 64 0 }] } }
  | _ => s

/-- One attempt at a write of the hub: its state, and whether it is over. An address 0 signals nothing (R333). -/
def State.addTry (s : State) (x : Signal) : State × Bool × Signal :=
  let ag := homeAgent s 8 x.asid x.ns
  let lost (s : State) : State :=
    if x.bytes = [] then s.event (.signalLost x.asid) else (s.event (.locusWrite ((s.ctxOf x.asid).getD 0))).recorderFault x
  if x.bytes ≠ [] then
    match s.portWrite x.port ag 8 x.addr x.bytes with
    | (s, _, .ok _) => (s, true, x)
    | (s, _, .error (.trap ..)) => (lost s, true, x)
    | (s, p, .error _) => (s, false, { x with port := p })
  else if x.addr = 0 then (s, true, x)
  else if x.addr.toNat % 8 ≠ 0 then (lost s, true, x)
  else
    let r := s.atomically ag x.addr (fun v => some (v + x.val))
    match r.res with
    | .ok _ => (r.st, true, x)
    | .remote =>
      match s.portAsk x.port ag 2 x.addr 0x14 14 (leBytes 8 x.val.toNat) with
      | (s, _, .ok _) => (s, true, x)
      | (s, _, .error (.trap _ _ r _)) => (if r = 15 then s.event (.unreachable (pkgOf x.addr)) else lost s, true, x)
      | (s, p, .error _) => (s, false, { x with port := p })
    | .prot _ _ | .sever _ _ _ => (lost r.st, true, x)
    | _ => (r.st, false, x)

/-- A signal, then its interrupt (R334). -/
def State.signalTry (s : State) (x : Signal) : State × Bool × Signal :=
  match (if x.added then (s, true, x) else s.addTry x) with
  | (s, false, x) => (s, false, x)
  | (s, true, x) =>
    match x.irq with
    | none => (s, true, x)
    | some (cx, v) =>
      match s.interrupt (if x.added then x.port else {}) cx v with
      | (s, done, p) => (s, done, { x with added := true, port := p })

/-- The writes of the hub are performed one after another (R334); one that waits holds those of its ASID behind it. What a fault adds or drops is seen to as it comes. -/
def State.pumpOver (s : State) : List Signal → State
  | [] => s
  | x :: r =>
    if !s.hub.signals.contains x ∨ (s.hub.signals.takeWhile (fun y => decide (y ≠ x))).any (fun y => decide (y.asid = x.asid)) then s.pumpOver r
    else match s.signalTry x with
      | (s, true, _) => ({ s with hub := { s.hub with signals := s.hub.signals.erase x, tree := s.hub.tree ++ x.next.toList } } : State).pumpOver r
      | (s, false, y) => ({ s with hub := { s.hub with signals := s.hub.signals.map (fun z => if z = x then y else z), signalAt := s.cycle + 1 } } : State).pumpOver r

def State.pump (s : State) : State := s.pumpOver s.hub.signals

def State.signal (s : State) (x : Signal) : State := ({ s with hub := { s.hub with signals := s.hub.signals ++ [x] } } : State).pump

/-- Bytes of a locus are written, by the recorder of a launch or otherwise (0). -/
def State.locusBytes (s : State) (cx : Nat) (a : Word) (b : List (BitVec 8)) (recorder : Nat := 0) : State :=
  let c := s.ctx cx
  s.signal { addr := a, val := 0, asid := c.asid, ns := c.ns, bytes := b, recorder := recorder }

/-! ### Graphs (R321 to R323) -/

/-- A node as it is read: its record, whether its reserved bits are zero, the TEAM field of its descriptor where that can be read, and the
entries of its member table. -/
structure NodeRead where
  n : NodeRec
  clean : Bool
  team : Option Nat
  members : List Nat

def Member.ofEntry (e : Nat) : Member := { walk := decide (bits e 12 1 = 1), role := bits e 13 3 }
def groupOf (e : Nat) : Nat := bits e 6 6
def unitOf (e : Nat) : Nat := bits e 0 6
def entryWalk (e : Nat) : Bool := decide (bits e 12 1 = 1)

/-- The distinct groups of a member table, ascending, and its walk engines (R339). -/
def groupsOf (l : List Nat) : List Nat := (List.range 64).filter (fun g => l.any (fun e => !entryWalk e && decide (groupOf e = g)))
def walksOf (l : List Nat) : List Nat := (List.range 64).filter (fun u => l.any (fun e => entryWalk e && decide (unitOf e = u)))

def le (b : List (BitVec 8)) (i n : Nat) : Nat := leNat ((b.drop i).take n)

/-- The footprint entries of a list: base, RW, length. -/
def footOf (n : Nat) (b : List (BitVec 8)) : List (Word × Nat × Nat) :=
  (List.range n).map (fun i => let e := le b (16 * i) 16; (BitVec.ofNat 64 (bits e 64 64), bits e 62 2, bits e 0 48))

/-- The fields of a node record (R322). -/
def nodeOf (v : Nat) : NodeRec :=
  { kernel := BitVec.ofNat 64 (bits v 512 64), dx := bits v 352 32, dy := bits v 384 32, dz := bits v 416 32
    part := (List.range 9).map (fun j => bits v (33 * j) 33), pred := bits v 448 16, prio := bits v 464 2, teams := decide (bits v 466 1 = 1)
    banks := bits v 468 4, gv := bits v 488 4, gsel := bits v 472 16, sigf := decide (bits v 495 1 = 1), irqf := decide (bits v 494 1 = 1)
    irqn := decide (bits v 493 1 = 1), siga := BitVec.ofNat 64 (bits v 736 64), sigv := BitVec.ofNat 64 (bits v 800 64), live := bits v 448 16 }

def nodeClean (v : Nat) : Bool :=
  decide (bits v 864 160 = 0) && decide (bits v 496 16 = 0) && decide (bits v 492 1 = 0) && decide (bits v 467 1 = 0) && decide (bits v 297 55 = 0)

/-- The member table of a team descriptor, as far as it can be read. -/
def readMembers (w : Who) (kernel : Word) : Fe (Option Nat × List Nat) := do
  if kernel.toNat % 128 ≠ 0 then pure (none, [])
  else
    match ← feTry w kernel 128 with
    | none => pure (none, [])
    | some d =>
      let t := le d 72 8
      if t = 0 then pure (some 0, [])
      else
        let n := bits (leNat d) 720 6 + 1
        match ← feTry w (BitVec.ofNat 64 t) (8 * n) with
        | none => pure (some t, [])
        | some b => pure (some t, (List.range n).map (fun i => le b (8 * i) 8))

/-- A node with its lists; none where the record or a list is misaligned or cannot be read. -/
def readNode (w : Who) (a : Word) : Fe (Option NodeRead) := do
  match ← feTry w a 128 with
  | none => pure none
  | some b =>
    let v := leNat b
    let ns := bits v 640 16
    let nf := bits v 656 16
    let succp := bits v 576 64
    let footp := bits v 672 64
    if (ns ≠ 0 ∧ succp % 2 ≠ 0) ∨ (nf ≠ 0 ∧ footp % 16 ≠ 0) then pure none
    else
      match ← feTry w (BitVec.ofNat 64 succp) (2 * ns) with
      | none => pure none
      | some sb =>
        match ← feTry w (BitVec.ofNat 64 footp) (16 * nf) with
        | none => pure none
        | some fb =>
          let n := nodeOf v
          let (team, ms) ← readMembers w n.kernel
          pure (some {
            n := { n with
              succ := (List.range ns).map (fun i => le sb (2 * i) 2), foot := footOf nf fb
              groups := if n.teams then (groupsOf ms).length else 1, units := if n.teams then walksOf ms else [] }
            clean := nodeClean v && decide (ns ≤ 4095) && decide (nf ≤ 1024), team := team, members := ms })

/-- The nodes up to the first that cannot be read. -/
def readNodes (w : Who) (a : Word) : Nat → Fe (List NodeRead × Bool)
  | 0 => pure ([], true)
  | k + 1 => do
    match ← readNode w a with
    | none => pure ([], false)
    | some n =>
      let (l, ok) ← readNodes w (a + 128) k
      pure (n :: l, ok)

def NodeRec.total (n : NodeRec) : Nat := n.dx * n.dy * n.dz

/-- The checks of R323 on one node. -/
def NodeRead.ok (x : NodeRead) (nn i : Nat) : Bool :=
  let n := x.n
  let p (j : Nat) : Nat := n.part.getD j 0
  x.clean && decide (n.total ≤ 2 ^ 32) && decide (p 0 = 0) && decide (p 8 = n.total) && (List.range 8).all (fun j => decide (p j ≤ p (j + 1)))
    && decide (1 ≤ n.banks) && decide (n.banks ≤ 8) && (match x.team with | some t => n.teams == decide (t ≠ 0) | none => true)
    && n.succ.all (fun j => decide (i < j) && decide (j < nn)) && n.foot.all (fun e => decide (e.2.1 ≠ 0) && decide (1 ≤ e.2.2))

/-- PRED is the number of times that a node appears in the successor lists. -/
def predOk (l : List NodeRead) (i : Nat) (x : NodeRead) : Bool :=
  decide (x.n.pred = (l.map (fun y => y.n.succ.count i)).sum)

def firstBad {α : Type} (ok : Nat → α → Bool) (l : List α) : Option Nat :=
  ((List.range l.length).find? (fun i => match l[i]? with | some x => !ok i x | none => false))

/-! ### Shapes and loci (R341, R342) -/

/-- The shape record (R341). -/
def shapeOf (scnt : Nat) (l : List NodeRead) : List (BitVec 8) :=
  leBytes 4 scnt ++ leBytes 2 l.length ++ l.flatMap (fun x =>
    let n := x.n
    leBytes 8 n.kernel.toNat ++ leBytes 4 n.dx ++ leBytes 4 n.dy ++ leBytes 4 n.dz ++ n.part.flatMap (leBytes 5)
      ++ leBytes 2 n.pred ++ leBytes 1 n.prio ++ leBytes 1 (bit n.teams) ++ leBytes 1 n.banks ++ leBytes 1 n.gv ++ leBytes 2 n.gsel
      ++ leBytes 2 n.succ.length ++ n.succ.flatMap (leBytes 2)
      ++ leBytes 2 n.foot.length ++ n.foot.flatMap (fun e => leBytes 6 e.2.2 ++ leBytes 1 e.2.1)
      ++ (if n.teams then x.members.flatMap (leBytes 8) else []))

def shapeHash (b : List (BitVec 8)) : Nat := leNat ((sha3 b).take 8)

/-- The packages of the gang that can be reached, with this one. -/
def State.gangPkgs (s : State) : List Nat := (List.range 64).filter (fun p => decide (p = s.pkg) || s.serves p)

def Ctx.places (c : Ctx) : Nat := c.locbase.toNat % 2 ^ 12 + 1
def Ctx.placeAt (c : Ctx) (i : Nat) : Word := (c.locbase >>> 16 <<< 16) + BitVec.ofNat 64 (65536 * i)
def Ctx.placeIdx (c : Ctx) (a : Word) : Nat := (a - (c.locbase >>> 16 <<< 16)).toNat / 65536

/-- The places that a launch records into, and those that it looks among (R342, R348). -/
def State.ownPlaces (s : State) (c : Ctx) (gang : Bool) : List Nat :=
  (List.range c.places).map (fun i => if gang then c.places * s.pkg + i else i)
def State.allPlaces (s : State) (c : Ctx) (gang : Bool) : List Nat :=
  if gang then s.gangPkgs.flatMap (fun p => (List.range c.places).map (fun i => c.places * p + i)) else List.range c.places

/-- A locus header (R342). -/
structure LocusHdr where
  hash : Nat := 0
  rev : Nat := 0
  fmask : Nat := 0
  fails : Nat := 0
  state : Nat := 0
  nn : Nat := 0
  len : Nat := 0
  foff : List Nat := []
  deriving DecidableEq, Repr

def LocusHdr.bytes (h : LocusHdr) : List (BitVec 8) :=
  leBytes 64 (h.hash * 2 ^ 448 + h.rev * 2 ^ 432 + h.fmask * 2 ^ 424 + h.fails * 2 ^ 416 + h.state * 2 ^ 414 + h.nn * 2 ^ 384 + h.len * 2 ^ 320
    + (((List.range 8).map (fun f => h.foff.getD f 0 * 2 ^ (40 * f))).foldl (· + ·) 0))
def LocusHdr.of (v : Nat) : LocusHdr :=
  { hash := bits v 448 64, rev := bits v 432 16, fmask := bits v 424 8, fails := bits v 416 8, state := bits v 414 2, nn := bits v 384 16
    len := bits v 320 64, foff := (List.range 8).map (fun f => bits v (40 * f) 40) }

/-- The headers of places that can be read. -/
def readHeaders (w : Who) (c : Ctx) : List Nat → Fe (List (Nat × LocusHdr))
  | [] => pure []
  | i :: r => do
    let h ← feTry w (c.placeAt i) 64
    let l ← readHeaders w c r
    pure (match h with | some b => (i, LocusHdr.of (leNat b)) :: l | none => l)

def LocusEntry.bytes (e : LocusEntry) : List (BitVec 8) :=
  leBytes 16 (e.kind * 2 ^ 126 + e.core * 2 ^ 118 + e.bmask * 2 ^ 110 + bit e.pre * 2 ^ 109 + e.node * 2 ^ 80 + e.first * 2 ^ 48 + e.count * 2 ^ 16 + e.wait)
def LocusEntry.of (v at_ : Nat) : LocusEntry :=
  { kind := bits v 126 2, core := bits v 118 8, bmask := bits v 110 8, pre := decide (bits v 109 1 = 1), node := bits v 80 16, first := bits v 48 32
    count := bits v 16 32, wait := bits v 0 16, at_ := at_ }

/-- The entries of a section from byte `a` of its locus, up to its end; the core carried is numbered in the package. -/
def entriesOf (b : List (BitVec 8)) (f : Nat) : Nat → Nat → List LocusEntry
  | 0, _ => []
  | fuel + 1, a =>
    let e := LocusEntry.of (le b a 16) a
    if e.kind = 0 ∧ e.core = 255 then []
    else if e.kind = 0 then entriesOf b f fuel (a + 16)
    else { e with core := 192 * f + e.core } :: entriesOf b f fuel (a + 16)

/-- Task entries one instance each, by core (R344). -/
def replayLists (l : List LocusEntry) : Tab (List LocusEntry) :=
  (l.filter (fun e => decide (e.kind = 1))).foldl (fun m e =>
    m.set [] e.core (m.get [] e.core ++ (List.range e.count).map (fun i => { e with first := e.first + i, count := 1 }))) Tab.empty

def guardKey (f node slot : Nat) : Nat := (f * 4096 + node) * 4 + slot

/-- A locus as its launch takes it: revision, entries, guard values; none where it cannot be read. -/
def readLocus (w : Who) (c : Ctx) (i nn : Nat) (h : LocusHdr) : Fe (Option (List LocusEntry × Tab Word)) := do
  match ← feTry w (c.placeAt i) (min h.len 65536) with
  | none => pure none
  | some b =>
    let fs := (List.range 8).filter (fun f => decide (bits h.fmask f 1 = 1))
    let guards : List (Nat × Word) := fs.flatMap (fun f => (List.range (4 * nn)).map (fun j =>
      (guardKey f (j / 4) (j % 4), BitVec.ofNat 64 (le b (h.foff.getD f 0 + 8 * j) 8))))
    pure (some (fs.flatMap (fun f => entriesOf b f 4096 (h.foff.getD f 0 + 32 * nn)), guards.foldl (fun m x => m.set 0 x.1 x.2) Tab.empty))

/-! ### Launches -/

def Launch.bounds (l : Launch) (n : Nat) : Nat × Nat := if l.scnt = 0 then (0, n) else (min l.sbase n, min (l.sbase + l.scnt) n)

/-- The instances of a node on a facet (R325): from the first up to, not including, the second. -/
def Launch.share (l : Launch) (n : NodeRec) (f : Nat) : Nat × Nat :=
  let (lo, hi) := l.bounds n.total
  (max (n.part.getD f 0) lo, min (n.part.getD (f + 1) 0) hi)

/-- The facet in whose share an instance lies (R325): its placement may be on another, as a locus names it. -/
def Launch.facetOfInst (l : Launch) (n : NodeRec) (inst : Nat) : Nat :=
  ((List.range 8).find? (fun f => let p := l.share n f; decide (p.1 ≤ inst) && decide (inst < p.2))).getD 0

/-- The instances of a node on a facet that a locus lists, and those of the share that it does not (log entry 74): the first that comes after all the listed ones, and the others. -/
def Launch.listed (l : Launch) (i : Nat) (n : NodeRec) : List Nat :=
  (l.locus.filter (fun e => decide (e.kind = 1) && decide (e.node = i))).flatMap (fun e => (List.range e.count).map (fun j => (l.bounds n.total).1 + e.first + j))
def Launch.unlisted (l : Launch) (i : Nat) (n : NodeRec) (f : Nat) : Nat × List Nat :=
  let (lo, hi) := l.share n f
  let mine := (l.listed i n).filter (fun x => decide (lo ≤ x) && decide (x < hi))
  let next := mine.foldl (fun m x => max m (x + 1)) lo
  (next, ((List.range (next - lo)).map (lo + ·)).filter (fun x => !mine.contains x))

def Launch.node (l : Launch) (i : Nat) : NodeRec := l.nodes.get {} i
def Launch.updNode (l : Launch) (i : Nat) (u : NodeRec → NodeRec) : Launch := { l with nodes := l.nodes.set {} i (u (l.node i)) }

/-- Cores of a context's partition on a facet. -/
def State.partCores (s : State) (cx f : Nat) : List Nat := ((List.range 192).map (fun i => 192 * f + i)).filter (fun c => !(s.ctx cx).barred.contains c)

def State.online (s : State) (c : Nat) : Bool :=
  !(((s.facet (facetOf c)).coreoff.get 0 (idxInFacet c / 64)).getLsbD (idxInFacet c % 64))

/-- Engine health (R345): every core that the locus names is online and in the partition. -/
def State.healthy (s : State) (l : Launch) : Bool := l.named.all (fun c => s.online c && !(s.ctx l.ctx).barred.contains c)

/-- A placement that comes to nothing leaves the record (R340, R343). -/
def Launch.unrecord (l : Launch) (node inst : Nat) : Launch :=
  let mine (e : LocusEntry) : Bool := decide (e.node = node) && decide ((l.bounds (l.node node).total).1 + e.first = inst)
  { l with record := l.record.keys.foldl (fun m c => m.set [] c ((m.get [] c).filter (fun e => !mine e))) l.record }

/-- A preloaded task gives up its core, banks and frame; its instance returns to its entry (R340). One that was being restored is RESTORABLE again, and parks its
banks there. -/
def State.cancelPreload (s : State) (c : Nat) : State :=
  match (s.core c).preload with
  | none => s
  | some t =>
    let x := s.task t
    if x.valid then
      match ((s.updCore c (fun k => { k.parkBanks t with preload := none })).updTask t (fun x => { x with st := .restorable, saveAt := 0 })).writeHeaders t false with
      | (s, true) => s
      | (s, false) => s.frameFault t 0x32
    else
    let s := (s.freeTask t).updTask t (fun x => { x with st := .killed, cores := [], frames := [], images := Tab.empty })
    s.updLaunch x.launch (fun l => (l.unrecord x.node x.inst).updNode x.node (fun n => { n with
      back := n.back.set [] x.facet ((n.back.get [] x.facet) ++ [x.inst]) }))

/-- FAILS that a package keeps of a place, for a hash (R348). -/
def Ctx.failsOf (c : Ctx) (place hash : Nat) : Nat := let x := c.fails.get (0, 0) place; if x.1 = hash then x.2 else 0

/-- FAILS of the locus that a launch replays (R346, R348). -/
def State.failsNow (s : State) (l : Launch) (a : Word) : Nat :=
  let c := s.ctx l.ctx
  if (s.ownPlaces c l.gang).contains (c.placeIdx a) ∧ !s.isRemote a then
    match (s.read (homeAgent s 8 c.asid c.ns) (a + 52) 1).res with
    | .ok b => leNat b
    | _ => 0
  else c.failsOf (c.placeIdx a) l.hash

/-- Does the locus still stand at the revision that a launch took: a locus that has been freed, or has another revision, is not written? -/
def State.locusStands (s : State) (l : Launch) (a : Word) : Bool :=
  let c := s.ctx l.ctx
  s.isRemote a || (match (s.read (homeAgent s 8 c.asid c.ns) a 64).res with
    | .ok b => let h := LocusHdr.of (leNat b); decide (h.hash = l.hash) && decide (h.rev = l.rev) && decide (2 ≤ h.state)
    | _ => true)

/-- FAILS of a locus is written, and STATE where it turns stale; another package's locus stays as it is (R346, R348). -/
def State.putFails (s : State) (l : Launch) (a : Word) (fails : Nat) (stale : Bool) : State :=
  let c := s.ctx l.ctx
  let s := s.updCtx l.ctx (fun c => { c with fails := c.fails.set (0, 0) (c.placeIdx a) (l.hash, fails) })
  if !((s.ownPlaces c l.gang).contains (c.placeIdx a) && s.locusStands l a) then s
  else if stale then s.locusBytes l.ctx (a + 51) (leBytes 1 0xC0 ++ leBytes 1 fails)
  else s.locusBytes l.ctx (a + 52) (leBytes 1 fails)

/-- Recording is given up: the locus returns to free (R343). -/
def State.abortRecord (s : State) (id : Nat) : State :=
  match (s.launch id).use with
  | .recording a =>
    if !(s.launch id).active then s
    else (s.updLaunch id (fun l => { l with use := .dynamic, record := Tab.empty })).locusBytes (s.launch id).ctx a (leBytes 64 0)
  | _ => s

/-- REPLAY_FALLBACK (R346): the launch goes on dynamically. -/
def State.stopReplay (s : State) (id : Nat) (stale : Bool) : State :=
  let l := s.launch id
  match l.use with
  | .replaying a =>
    let n := min 255 (s.failsNow l a + 1)
    let s := s.putFails l a n (stale || decide (3 ≤ n))
    let s := s.updLaunch id (fun l => { l with use := .dynamic })
    let s := (s.cores.keys.filter (fun c => match (s.core c).preload with
      | some t => decide ((s.task t).launch = id) && decide ((s.task t).entry ≠ [])
      | none => false)).foldl State.cancelPreload s
    let rest := (l.replay.cells.flatMap (fun x => x.2.map (fun e => (e.node, l.facetOfInst (l.node e.node) ((l.bounds (l.node e.node).total).1 + e.first), e.first)))).eraseDups
    s.updLaunch id (fun l => { rest.foldl (fun l r => l.updNode r.1 (fun n => { n with
      back := n.back.set [] r.2.1 (n.back.get [] r.2.1 ++ [(l.bounds n.total).1 + r.2.2]) })) l with replay := Tab.empty })
  | _ => s

/-- An interrupt record (R335). -/
def Launch.irqRecord (l : Launch) (node facet level : Nat) : Option (Nat × Nat) :=
  some (l.ctx, l.cookie.toNat * 2 ^ 64 + node * 2 ^ 48 + facet * 2 ^ 44 + level * 2 ^ 42 + l.queue % 1024 * 2 ^ 32 + l.num % 2 ^ 32)

/-- A level of the counter tree reaches zero: its signal, then its interrupt, then what comes above it (R333, R334). -/
def State.level (s : State) (id : Nat) (addr val : Word) (irq : Bool) (node facet level : Nat) : State :=
  if addr = 0 ∧ !irq then { s with hub := { s.hub with tree := s.hub.tree ++ [(id, node, level)] } }
  else
    let l := s.launch id
    let c := s.ctx l.ctx
    s.signal { addr := addr, val := val, asid := c.asid, ns := c.ns, irq := if irq then l.irqRecord node facet level else none, next := some (id, node, level) }

/-- A launch error (R332): nothing more of the launch is placed, and its queue stops. -/
def State.launchError (s : State) (q pkt node code : Nat) : State :=
  (s.updSubq q (fun x => if x.errCode = 0 then { x with errPkt := pkt, errNode := node, errCode := code } else x)).event (.launchError q)

def State.failLaunch (s : State) (id node code : Nat) : State :=
  let l := s.launch id
  if l.failed then s
  else ((s.abortRecord id).updLaunch id (fun l => { l with failed := true, replay := Tab.empty })).launchError l.queue l.pkt node code

/-! ### The end of recording and of replay (R343, R346, R428) -/

/-- Cycles from the first wait on a job to its completion. -/
def JobTrace.miss (j : JobTrace) : Nat := match j.wait with | some w => j.doneAt - w | none => 0
def waitField (c : Nat) : Nat := min 0xFFFF (cdiv c 64)

def Launch.waitOf (l : Launch) (node first : Nat) : Nat :=
  (((l.waits.find? (fun w => decide (w.1 = node) && decide (w.2.1 = (l.bounds (l.node node).total).1 + first))).map (fun w => w.2.2)).getD 0)
def Launch.jobsOf (l : Launch) (node first : Nat) : List JobTrace :=
  (l.traces.filter (fun t => decide (t.1 = node) && decide (t.2.1 = (l.bounds (l.node node).total).1 + first))).map (fun t => t.2.2)

/-- A recorded task entry with its WAIT, and the copy entries of its jobs that had a slack miss, in job order (R428). -/
def Launch.recorded (l : Launch) (e : LocusEntry) : List LocusEntry :=
  let js := (l.jobsOf e.node e.first).filter (fun j => decide (0 < j.miss))
  let ordered := js.foldl (fun acc j => acc.takeWhile (fun x => decide (x.num ≤ j.num)) ++ j :: acc.dropWhile (fun x => decide (x.num ≤ j.num))) ([] : List JobTrace)
  { e with wait := waitField (l.waitOf e.node e.first) } :: ordered.map (fun j =>
    { e with kind := 2, bmask := 0, pre := false, count := j.num * 2 ^ 16 + j.own, wait := waitField j.miss })

def Launch.guardBytes (l : Launch) (f : Nat) : List (BitVec 8) :=
  (List.range (4 * l.nn)).flatMap (fun j => leBytes 8 (l.guards.get 0 (guardKey f (j / 4) (j % 4))).toNat)

/-- A facet's section: guards, the list of each core that has entries, the end. -/
def Launch.section_ (l : Launch) (f : Nat) (lists : List (Nat × List LocusEntry)) : List (BitVec 8) :=
  l.guardBytes f ++ lists.flatMap (fun x =>
    x.2.flatMap (fun e => { e with core := idxInFacet x.1 }.bytes) ++ leBytes 16 (idxInFacet x.1 * 2 ^ 118)) ++ leBytes 16 (255 * 2 ^ 118)

/-- A whole locus (R342): the sections follow the header without gaps. -/
def locusImage (hash rev nn : Nat) (sections : List (Nat × List (BitVec 8))) : List (BitVec 8) :=
  let offs := (List.range 8).map (fun f =>
    if sections.any (fun x => decide (x.1 = f)) then 64 + ((sections.filter (fun x => decide (x.1 < f))).map (fun x => x.2.length)).sum else 0)
  let body := sections.flatMap (fun x => x.2)
  ({ hash := hash, rev := rev, fmask := (sections.map (fun x => 2 ^ x.1)).sum, state := 2, nn := nn, len := 64 + body.length, foff := offs } : LocusHdr).bytes ++ body

def Launch.image (l : Launch) : List (BitVec 8) :=
  let lists (f : Nat) : List (Nat × List LocusEntry) :=
    (l.record.cells.filter (fun x => decide (facetOf x.1 = f))).map (fun x => (x.1, x.2.flatMap l.recorded))
  locusImage l.hash 0 l.nn (((List.range 8).filter (fun f => lists f ≠ [])).map (fun f => (f, l.section_ f (lists f))))

/-- The WAIT that a replay has measured for an entry (R428). -/
def Launch.measured (l : Launch) (e : LocusEntry) : Nat :=
  waitField (if e.kind = 1 then ((List.range e.count).map (fun i => l.waitOf e.node (e.first + i))).foldl max 0
    else (((l.jobsOf e.node e.first).find? (fun j => decide (j.num = e.count / 2 ^ 16))).map JobTrace.miss).getD 0)

/-- What a replay measures goes into its entries, in place; of a locus that another package recorded, into this package's own copy (R348). -/
def State.putWaits (s : State) (l : Launch) (a : Word) : State :=
  let c := s.ctx l.ctx
  let i := c.placeIdx a
  if (s.ownPlaces c l.gang).contains i then
    if !s.locusStands l a then s
    else l.locus.foldl (fun s e => s.locusBytes l.ctx (a + BitVec.ofNat 64 e.at_) (leBytes 2 (l.measured e))) s
  else
    let k : LocusCopy := { place := i, hash := l.hash, base := l.base, rev := l.rev, entries := l.locus.map (fun e => { e with wait := l.measured e }), guards := l.guards }
    if c.copies.any (fun y => decide (y.place = i) && decide (y.hash = l.hash) && decide (y.base = l.base) && decide (y.rev ≠ l.rev)) then s
    else s.updCtx l.ctx (fun c => { c with copies := k :: c.copies.filter (fun y => decide (y.place ≠ i)) })

/-- The header of a recorded locus is written, unless a write of its body has faulted. -/
def State.recordEnd (s : State) (id : Nat) (a : Word) (hdr : List (BitVec 8)) : State :=
  match (s.launch id).use with
  | .recording _ => s.locusBytes (s.launch id).ctx a hdr id
  | _ => s

/-- The firmware refines the locus of a hash within 200 µs of the replay that it reads, 188,000 cycles (R429). -/
def State.refineLater (s : State) (cx hash : Nat) : State :=
  { s.drawn with hub := { s.hub with refines := s.hub.refines ++ [(s.cycle + 1 + Config.refineDelay s.draws % 187999, cx, hash)] } }

/-- The launch has completed: its locus becomes valid, or its replay counts as a success. -/
def State.endLocus (s : State) (id : Nat) : State :=
  let l := s.launch id
  let keep (s : State) (a : Word) (replayed : Bool) : State := s.updCtx l.ctx (fun c => { c with
    traces := { hash := l.hash, rev := l.rev, gang := l.gang, place := c.placeIdx a, replayed := replayed, jobs := l.traces.map (fun t => (t.1, t.2.1 - (l.bounds (l.node t.1).total).1, t.2.2)) } :: c.traces.filter (fun t => decide (t.hash ≠ l.hash)) })
  match l.use with
  | .recording a =>
    if 65536 < l.image.length then s.abortRecord id
    else keep ((s.locusBytes l.ctx (a + 64) (l.image.drop 64) id).recordEnd id a (l.image.take 64)) a false
  | .replaying a => (keep ((s.putWaits l a).putFails l a 0 false) a true).refineLater l.ctx l.hash
  | .dynamic => s

/-! ### The counter tree (R324, R333) -/

def State.launchDone (s : State) (id : Nat) : State :=
  let l := s.launch id
  (s.endLocus id).updLaunch id (fun l => { l with active := false }) |>.updSubq l.queue (fun x => { x with
    running := x.running.filter (fun r => decide (r.2 ≠ id))
    ticks := (x.ticks.map (fun t => if t.running = some id then { t with running := none } else t)).filter (fun t => t.running.isSome || decide (t.left ≠ some 0)) })

/-- The guards of a node that becomes ready: recorded, or compared (R345). -/
def State.guardNode (s : State) (id i : Nat) : State :=
  let l := s.launch id
  let n := l.node i
  let gw (k : Nat) : Word := l.gw.get 0 (bits n.gsel (4 * k) 4)
  let slots := (List.range 4).filter (fun k => decide (bits n.gv k 1 = 1))
  let fs := (List.range 8).filter (fun f => l.named.any (fun c => decide (facetOf c = f)))
  match l.use with
  | .recording _ => s.updLaunch id (fun l => { l with guards :=
      ((List.range 8).flatMap (fun f => slots.map (fun k => (f, k)))).foldl (fun m x => m.set 0 (guardKey x.1 i x.2) (gw x.2)) l.guards })
  | .replaying _ => if fs.all (fun f => slots.all (fun k => decide (gw k = l.guards.get 0 (guardKey f i k)))) then s else s.stopReplay id false
  | .dynamic => s

/-- A node's live count has reached zero: its shares become ready entries; a share on a facet without cores is NOCORE (R325). True where every
share is empty: it completes at once (R333). The instances of a locus are placed by its entries, or given back when replay stops; those that it does not list are ready entries like others. -/
def State.makeReady (s : State) (id i : Nat) : State × Bool :=
  let l := s.launch id
  let n := l.node i
  let fs := (List.range 8).filter (fun f => let p := l.share n f; decide (p.1 < p.2))
  if fs.any (fun f => s.partCores l.ctx f = []) then (s.failLaunch id i 5, false)
  else
    let s := s.updLaunch id (fun l => l.updNode i (fun n => { n with
      ready := some s.cycle, nodeCnt := fs.length
      facCnt := fs.foldl (fun m f => let p := l.share n f; m.set 0 f (p.2 - p.1)) Tab.empty
      next := (List.range 8).foldl (fun m f => m.set 0 f (l.unlisted i n f).1) Tab.empty
      back := (List.range 8).foldl (fun m f => m.set [] f (m.get [] f ++ (l.unlisted i n f).2)) n.back }))
    (if l.failed then s else s.guardNode id i, decide (fs = []))

/-- A node's counter is zero: its signal, its interrupt, then its completion (R333). -/
def State.nodeZero (s : State) (id i : Nat) : State :=
  let n := (s.launch id).node i
  s.level id n.siga n.sigv n.irqn i 15 1

/-- A node completes: its successors may become ready (R324), and the graph counter falls. -/
def State.completeNode (s : State) (id i : Nat) : State :=
  let n := (s.launch id).node i
  let s := s.updLaunch id (fun l => { (l.updNode i (fun n => { n with done := true })) with left := l.left - 1 })
  let s := n.succ.foldl (fun s j =>
    let s := s.updLaunch id (fun l => l.updNode j (fun n => { n with live := n.live - 1 }))
    if ((s.launch id).node j).live = 0 then
      match s.makeReady id j with
      | (s, true) => s.nodeZero id j
      | (s, false) => s
    else s) s
  let l := s.launch id
  if l.left = 0 ∧ !l.failed then s.level id l.gsiga l.gsigv l.irq 0xFFFF 15 2 else s

/-- A step of a counter tree whose signal and interrupt are over: of a facet counter the node counter falls, of a node counter the node completes, of the graph counter the launch. -/
def State.climbOne (s : State) (x : Nat × Nat × Nat) : State :=
  let (id, i, level) := x
  if level = 0 then
    let n := (s.launch id).node i
    let s := s.updLaunch id (fun l => l.updNode i (fun n => { n with nodeCnt := n.nodeCnt - 1 }))
    if n.nodeCnt ≤ 1 then s.nodeZero id i else s
  else if level = 1 then s.completeNode id i
  else s.launchDone id

/-- The steps that are due, one after another (R334). -/
def State.climbFor (s : State) : Nat → State
  | 0 => s
  | fuel + 1 =>
    match s.hub.tree with
    | [] => s
    | x :: r => (({ s with hub := { s.hub with tree := r } } : State).climbOne x).climbFor fuel
def State.climb (s : State) : State := s.climbFor 16384

/-- A task of a launch is counted (R333), of one that has failed too: its running tasks finish, and it never completes (R332). At zero the facet counter signals. -/
def State.countTask (s : State) (id i f : Nat) : State :=
  let n := ((s.launch id).node i).facCnt.get 0 f
  if n = 0 then s else
  let s := s.updLaunch id (fun l => l.updNode i (fun x => { x with facCnt := x.facCnt.set 0 f (n - 1) }))
  if n ≠ 1 then s
  else
    let x := (s.launch id).node i
    (s.level id (if x.sigf ∧ x.siga ≠ 0 then x.siga + BitVec.ofNat 64 (8 * (f + 1)) else 0) x.sigv x.irqf i f 0).climb

/-! ### Starting a launch (R323, R331, R343, R344) -/

/-- What reading the graph gives: a launch, its nodes and its locus, or an error with its node. -/
inductive Graph where
  | bad (node code : Nat)
  | good (l : Launch) (place : Option Nat) (evict : Bool)

def packetLaunch (cx q pkt packet : Nat) (tick : Bool) : Launch :=
  { active := true, ctx := cx, queue := q, pkt := pkt, cookie := BitVec.ofNat 64 (bits packet 64 64), sbase := bits packet 384 32
    scnt := bits packet 416 32, gang := decide (bits packet 9 1 = 1), tick := tick }

/-- The free place that a recording takes, or the least recently used in STATE 2 or 3 (R343). -/
def pickPlace (c : Ctx) (l : List (Nat × LocusHdr)) : Option Nat :=
  match l.find? (fun x => decide (x.2.state = 0)) with
  | some x => some x.1
  | none => ((l.filter (fun x => decide (2 ≤ x.2.state))).foldl (fun b x =>
      match b with
      | none => some x.1
      | some y => if c.lru.get 0 x.1 < c.lru.get 0 y then some x.1 else some y) none)

/-- The entries of a locus that are instances of this launch, whose slice may be shorter than that of the launch that was recorded (R341, log entry 74). -/
def Launch.ownEntries (l : Launch) (m : Tab (List LocusEntry)) : Tab (List LocusEntry) :=
  m.keys.foldl (fun t c => t.set [] c ((m.get [] c).filter (fun e => let b := l.bounds (l.node e.node).total; decide (e.node < l.nn) && decide (b.1 + e.first < b.2)))) Tab.empty

/-- The graph of a packet is read, and checked unless it has a valid locus (R323). -/
def readGraph (w : Who) (s : State) (l : Launch) (ga : Word) : Fe Graph := do
  let h ← if ga.toNat % 128 ≠ 0 then pure none else feTry w ga 64
  match h with
  | none => pure (.bad 0xFFFF 2)
  | some hb =>
    let v := leNat hb
    let nn := bits v 0 16
    if nn = 0 ∨ 4096 < nn ∨ bits v 200 312 ≠ 0 ∨ bits v 192 6 ≠ 0 ∨ bits v 16 48 ≠ 0 then pure (.bad 0xFFFF 2)
    else
      let (ns, whole) ← readNodes w (ga + 64) nn
      let bad := match firstBad (fun i x => x.ok nn i) ns with
        | some i => some i
        | none => if whole then firstBad (fun i x => predOk ns i x) ns else some ns.length
      let norec := decide (bits v 198 1 = 1)
      let l := { l with
        nn := nn, left := nn, norec := norec, gsiga := BitVec.ofNat 64 (bits v 64 64), gsigv := BitVec.ofNat 64 (bits v 128 64)
        irq := decide (bits v 199 1 = 1), hash := if whole then shapeHash (shapeOf l.scnt ns) else 0
        nodes := (List.range ns.length).foldl (fun m i => m.set {} i ((ns[i]?).elim {} (fun x => x.n))) Tab.empty }
      let err (k : Fe Graph) : Fe Graph := match bad with | some i => pure (.bad i 3) | none => k
      if !whole ∨ norec ∨ !s.feat 4 then err (pure (.good l none false))
      else
        let c := s.ctx l.ctx
        let hs ← readHeaders w c (s.allPlaces c l.gang)
        let mine := s.ownPlaces c l.gang
        let stale (x : Nat × LocusHdr) : Bool := !mine.contains x.1 && decide (3 ≤ c.failsOf x.1 l.hash)
        match hs.find? (fun x => decide (x.2.hash = l.hash) && decide (x.2.state = 2) && !stale x) with
        | some (i, h) =>
          let own := if mine.contains i then none else c.copies.find? (fun y => decide (y.place = i) && decide (y.hash = h.hash) && decide (y.base = h.rev))
          let rev := (own.map (·.rev)).getD h.rev
          match ← (match own with | some y => pure (some (y.entries, y.guards)) | none => readLocus w c i nn h) with
          | none => err (pure (.good { l with use := .replaying (c.placeAt i), rev := rev, base := h.rev } (some i) true))
          | some (es, gs) => pure (.good { l with
              use := .replaying (c.placeAt i), rev := rev, base := h.rev, replay := l.ownEntries (replayLists es), locus := es, guards := gs
              named := (es.map (fun e => e.core)).eraseDups } (some i) false)
        | none =>
          if hs.any (fun x => decide (x.2.hash = l.hash) && decide (x.2.state = 1)) then err (pure (.good l none false))
          else match pickPlace c (hs.filter (fun x => mine.contains x.1)) with
            | none => err (pure (.good l none false))
            | some i => err (pure (.good { l with use := .recording (c.placeAt i) } (some i) false))

/-- The counters are set, and the roots made ready (R331). `unread`: its locus could not be read (R343). -/
def State.beginLaunch (s : State) (l : Launch) (place : Option Nat) (unread : Bool) : State × Nat :=
  let id := s.nextLaunch
  let num := ((s.ctx l.ctx).launches + 1) % 2 ^ 32
  let s := { s with nextLaunch := id + 1 }.updCtx l.ctx (fun c => { c with launches := num })
  let s := match place with
    | some i => s.updCtx l.ctx (fun c => { c with lru := c.lru.set 0 i c.lruNext, lruNext := c.lruNext + 1 })
    | none => s
  let s := s.updLaunch id (fun _ => { l with num := num })
  let s := match l.use with
    | .recording a => s.locusBytes l.ctx a ({ hash := l.hash, state := 1, nn := l.nn } : LocusHdr).bytes id
    | .replaying _ => if unread then s.stopReplay id true else if s.healthy l then s else s.stopReplay id false
    | .dynamic => s
  let s := ((List.range l.nn).filter (fun i => decide ((l.node i).pred = 0))).foldl (fun s i =>
    match s.makeReady id i with
    | (s, true) => s.nodeZero id i
    | (s, false) => s) s
  (s.climb, id)

/-- A launch of packet `pkt` of queue q: its number in the table, 0 for one that failed its checks; none while it waits. -/
def State.startLaunch (s : State) (q pkt packet : Nat) (tick : Bool) : State × Option Nat :=
  let x := s.subq q
  match s.ctxOf x.asid with
  | none => (s.launchError q pkt 0xFFFF 2, some 0)
  | some cx =>
    let w : Who := { f := 8, asid := x.asid, ns := x.ns, work := 4 * q + bit tick }
    match s.fe (readGraph w s (packetLaunch cx q pkt packet tick) (BitVec.ofNat 64 (bits packet 128 64))) with
    | (s, .error .wait) => (s, none)
    | (s, .error .fail) => ((s.feDone w).launchError q pkt 0xFFFF 2, some 0)
    | (s, .ok (.bad node code)) => ((s.feDone w).launchError q pkt node code, some 0)
    | (s, .ok (.good l place unread)) => match (s.feDone w).beginLaunch l place unread with | (s, id) => (s, some id)

/-! ### Packets (R328, R331, R349) -/

def tickAfter (time period : Nat) : Nat := (time / (1000 * period) + 1) * (1000 * period)

/-- PACKET_START (R331): the next packet of a queue starts, or waits for BAR. -/
def State.packetStart (s : State) (q : Nat) : State :=
  let x := s.subq q
  let j := x.ridx
  let w : Who := { f := 8, asid := x.asid, ns := x.ns, work := 4 * q }
  let wait (s : State) : State := s.updSubq q (fun x => { x with tryAt := s.cycle + 1 })
  let started (s : State) (id : Option Nat) : State := s.updSubq q (fun x => { x with
    ridx := (j + 1) % 2 ^ 32, running := match id with | some i => x.running ++ [(j, i)] | none => x.running })
  if !x.en ∨ x.errCode ≠ 0 ∨ x.widx = x.ridx then s
  else
    let s := { s with hub := { s.hub with lastQ := q } }
    match s.fe (feBytes w (x.base + BitVec.ofNat 64 (64 * (j % 2 ^ x.log2n))) 64) with
    | (s, .error .wait) => wait s
    | (s, .error .fail) => (started (s.feDone w) (some 0)).launchError q j 0xFFFF 1
    | (s, .ok b) =>
      let v := leNat b
      let ty := bits v 0 8
      if bits v 8 1 = 1 ∧ (x.running ≠ [] ∨ x.ticks ≠ []) then wait (s.feDone w)
      else if (ty ≠ 1 ∧ ty ≠ 2) ∨ bits v 10 54 ≠ 0 ∨ bits v 192 192 ≠ 0 then (started (s.feDone w) (some 0)).launchError q j 0xFFFF 1
      else if ty = 2 then started (s.feDone w) none
      else if bits v 448 32 ≠ 0 then
        (started (s.feDone w) none).updSubq q (fun x => { x with ticks := x.ticks ++ [{
          pkt := j, packet := v, period := bits v 448 32, left := if bits v 480 32 = 0 then none else some (bits v 480 32)
          nextAt := tickAfter s.time (bits v 448 32), running := none }] })
      else match s.startLaunch q j v false with
        | (s, none) => wait s
        | (s, some id) => if (s.launch id).active ∨ id = 0 then started s (some id) else started s none

def execPacketStart (q : Nat) (s : State) : Host.Outcome State Fault Refusal := .next (s.packetStart q)

/-- The tick of a queue that is due. -/
def State.tickDue (s : State) (q : Nat) : Option Tick := (s.subq q).ticks.find? (fun t => decide (t.nextAt ≤ s.time) && decide (t.left ≠ some 0))

/-- TICK_LAUNCH (R349): a launch, or a skip while the last one is incomplete. -/
def State.tickLaunch (s : State) (q : Nat) : State :=
  match s.tickDue q with
  | none => s
  | some t =>
    let next (s : State) (u : Tick → Tick) : State := s.updSubq q (fun x => { x with ticks := x.ticks.map (fun y =>
      if y.pkt = t.pkt then u { y with nextAt := y.nextAt + 1000 * t.period } else y) })
    if t.running.isSome then (next s id).updSubq q (fun x => { x with skip := (x.skip + 1) % 2 ^ 32 })
    else match s.startLaunch q t.pkt t.packet true with
      | (s, none) => s.updSubq q (fun x => { x with tryAt := s.cycle + 1 })
      | (s, some id) =>
        let isOver := decide (id ≠ 0) && !(s.launch id).active
        (next s (fun y => { y with left := y.left.map (· - 1), running := if isOver then none else some id })).updSubq q (fun x => { x with
          ticks := x.ticks.filter (fun t => t.running.isSome || decide (t.left ≠ some 0)) })

def execTickLaunch (q : Nat) (s : State) : Host.Outcome State Fault Refusal := .next (s.tickLaunch q)

end Sys2Proof.Machine
end

