-- ==== Sys2Proof/Machine/Placement.lean ====
section
/-! DEFINITION. The dispatchers: descriptors (R309, R310), ready entries and their order (R326, R336), cores, banks and frames (R337 to R340,
R352, R355), restores (R356), the entries of a locus (R344, R345), and the end of a task (R312, R340). -/

namespace Sys2Proof.Machine

/-! ### Descriptors (R308 to R310) -/

/-- What a dispatcher has read for an instance: the descriptor, arguments, dictionary, bindings and member table. -/
structure Prep where
  d : Nat
  args : List Word
  dict : Tab (BitVec 128)
  hbind : List (Nat × Word)
  rings : List (Nat × Handle)
  members : List Nat

/-- The rules that the first use of a descriptor in a launch is checked against (R309). -/
def descRules (d : Nat) : Bool :=
  let entry (q : Nat) : Nat := bits d (64 * q) 64
  (List.range 4).all (fun q => decide (entry q % 4 = 0)) && (List.range 4).any (fun q => decide (entry q ≠ 0))
    && (decide (bits d 576 64 = 0) || (decide (entry 0 ≠ 0) && (List.range 3).all (fun q => decide (entry (q + 1) = 0))))
    && decide (bits d 726 3 ≤ 5) && decide (bits d 729 295 = 0)

/-- The rules on a member table (R309). -/
def membersOk (l : List Nat) : Bool :=
  let key (e : Nat) : Nat := if entryWalk e then 4096 + unitOf e else 64 * groupOf e + unitOf e
  l.all (fun e => decide (bits e 16 48 = 0) && (if entryWalk e then decide (unitOf e ≤ 17) && decide (groupOf e = 0) else decide (unitOf e ≤ 3)))
    && decide ((l.map key).eraseDups.length = l.length)

/-- A handle from a block that can be read (R279, R282). -/
def handleOf (blk : Word) (b : Option (List (BitVec 8))) : Option Handle :=
  match b with
  | some b => let r : Ring := { blk := blk, v := leNat b }; if r.ok then some r.bind else none
  | none => none

/-- The bindings that memory gives; blocks in scratchpad are read once the banks are granted. -/
def readRings (w : Who) : List (Nat × Word) → Fe (List (Nat × Handle))
  | [] => pure []
  | (h, blk) :: r => do
    let b ← if homeOf blk < 9 ∧ blk.toNat % 64 = 0 then feTry w blk 64 else pure none
    let l ← readRings w r
    pure (match handleOf blk b with | some x => (h, x) :: l | none => l)

/-- Everything that an instance needs is read; `fail` stands for BADTASK. -/
def prepare (w : Who) (kernel : Word) (first teams walkFeature : Bool) : Fe Prep := do
  if kernel.toNat % 128 ≠ 0 then throw .fail
  let d := leNat (← feBytes w kernel 128)
  let args := BitVec.ofNat 64 (bits d 448 64)
  let dict := BitVec.ofNat 64 (bits d 320 64)
  let team := BitVec.ofNat 64 (bits d 576 64)
  let hb := BitVec.ofNat 64 (bits d 512 64)
  if (first && !descRules d) || (teams != decide (team ≠ 0)) || decide (dict.toNat % 16 ≠ 0) || decide (team.toNat % 8 ≠ 0) then throw .fail
  let ab ← if args = 0 then pure [] else feBytes w args 56
  let db ← if dict = 0 then pure [] else feBytes w dict 4096
  let n := bits d 720 6 + 1
  let tb ← if team = 0 then pure [] else feBytes w team (8 * n)
  let ms := if team = 0 then [] else (List.range n).map (fun i => le tb (8 * i) 8)
  if !membersOk ms || (!walkFeature && ms.any entryWalk) then throw .fail
  let hbytes ← if hb = 0 then pure none else feTry w hb 128
  let blocks := match hbytes with
    | some b => ((List.range 16).map (fun i => (i, BitVec.ofNat 64 (le b (8 * i) 8)))).filter (fun x => decide (x.2 ≠ 0))
    | none => []
  let rings ← readRings w blocks
  pure { d := d, args := (List.range 7).map (fun i => BitVec.ofNat 64 (le ab (8 * i) 8)), dict := if dict = 0 then Tab.empty else dictOf db,
         hbind := blocks, rings := rings, members := ms }

/-- Where an instance stands. -/
structure Place where
  inst : Nat
  node : Nat
  facet : Nat
  lnum : Nat

/-- The state of a member at its start (R73, R161, R310). -/
def Prep.quad (p : Prep) (at_ : Place) (core entry : Nat) (m : Member) : Quad :=
  { idle := false
    pc := BitVec.ofNat 64 entry
    g := ((List.range 7).foldl (fun t i => t.set 0 (i + 1) (p.args.getD i 0)) Tab.empty).set 0 8 (BitVec.ofNat 64 at_.inst)
    trapvec := clearLow (BitVec.ofNat 64 (bits p.d 256 64)) 2
    rmode := bits p.d 726 3
    instidx := BitVec.ofNat 64 at_.inst
    nodeid := BitVec.ofNat 64 (at_.facet * 2 ^ 16 + at_.node)
    taskid := BitVec.ofNat 64 (core * 2 ^ 32 + at_.lnum)
    dictbase := BitVec.ofNat 64 (bits p.d 320 64)
    handles := p.rings.foldl (fun t x => t.set {} x.1 x.2) Tab.empty
    batches := Tab.empty.set {} 0 { st := .open }
    member := m }

/-- Member i of a table: its index among those of its role (R290). -/
def memberAt (l : List Nat) (i : Nat) : Member :=
  let role (e : Nat) : Nat := bits e 13 3
  let r := role (l.getD i 0)
  { walk := entryWalk (l.getD i 0), role := r, mnum := i, midx := ((l.take i).filter (fun e => decide (role e = r))).length
    rsz := (l.filter (fun e => decide (role e = r))).length - 1, tsz := l.length - 1 }

/-- A core at a task's start: each listed quadrant runs from its entry (R194, R310). -/
def Prep.core (p : Prep) (at_ : Place) (now core : Nat) (qs : List (Nat × Nat × Member)) : Core :=
  qs.foldl (fun (k : Core) x => k.setQuad x.1 (p.quad at_ core x.2.1 x.2.2))
    { dict := p.dict, dictFrom := BitVec.ofNat 64 (bits p.d 320 64), since := now }

/-- The quadrants of the j-th core of an instance, and a walk engine's. -/
def Prep.quads (p : Prep) (j : Nat) : List (Nat × Nat × Member) :=
  if p.members = [] then
    ((List.range 4).filter (fun q => decide (bits p.d (64 * q) 64 ≠ 0))).map (fun q => (q, bits p.d (64 * q) 64, { mnum := q, midx := q }))
  else
    let g := (groupsOf p.members).getD j 64
    ((List.range p.members.length).filter (fun i => let e := p.members.getD i 0; !entryWalk e && decide (groupOf e = g))).map (fun i =>
      (unitOf (p.members.getD i 0), bits p.d 0 64, memberAt p.members i))
def Prep.walkQuad (p : Prep) (u : Nat) : List (Nat × Nat × Member) :=
  ((List.range p.members.length).filter (fun i => let e := p.members.getD i 0; entryWalk e && decide (unitOf e = u))).map (fun i =>
    (0, bits p.d 0 64, memberAt p.members i))

/-! ### Cores, banks and frames (R337, R352, R355) -/

def walkNo (f u : Nat) : Nat := 1536 + 18 * f + u

/-- May a context take work: it is not pre-empted or halted (R336, R401)? -/
def Ctx.takesWork (c : Ctx) : Bool := !c.preReq && !c.halted

def State.idleCore (s : State) (c : Nat) : Bool :=
  let k := s.core c
  k.task.isNone && k.preload.isNone && decide (k.freeAt ≤ s.cycle)

/-- Banks that could be had on a core: those free, and those that a task parks there and no copy pins (R317, R355). -/
def State.bankFree (s : State) (c b : Nat) : Bool := decide (((s.core c).banks.get {} b).st = .free)
def State.bankParked (s : State) (c b : Nat) : Option Nat :=
  let x := (s.core c).banks.get {} b
  if x.st = .parked ∧ !s.pinned x.task c b then some x.task else none

def State.freeBanks (s : State) (c : Nat) : List Nat := (List.range 8).filter (fun b => s.bankFree c b)
def State.roomOn (s : State) (c n : Nat) (saving : Bool) : Bool :=
  decide (n ≤ (s.freeBanks c).length + (if saving then ((List.range 8).filter (fun b => (s.bankParked c b).isSome)).length else 0))

/-- A restore's or a locus entry's own banks: free, parked by the task itself, parked by another and to be saved (`saving`), or held by a preload `dropping`. -/
def State.ownBanks (s : State) (c mask t : Nat) (saving : Bool) (dropping : Option Nat) : Bool :=
  (maskBits mask).all (fun b => s.bankFree c b || decide (((s.core c).banks.get {} b) = { st := .parked, task := t }) || (saving && (s.bankParked c b).isSome)
    || dropping.any (fun y => decide (((s.core c).banks.get {} b).task = y) && decide (((s.core c).banks.get {} b).st = .held)))

/-- The parked banks of the listed tasks on a core are saved to their frames (R355). -/
def State.saveParked (s : State) (c : Nat) (ts : List Nat) : State := ts.foldl (fun s t => (s.saveBanks t c false).1) s

/-- The tasks whose banks go so that n banks are free: the lowest banks first. -/
def State.victims (s : State) (c n : Nat) : List Nat :=
  ((List.range 8).foldl (fun (p : List Nat × Nat) b =>
    match s.bankParked c b with
    | some t => if n ≤ p.2 ∨ p.1.contains t then p
      else (p.1 ++ [t], p.2 + (maskBits (s.savable t c)).length)
    | none => p) ([], (s.freeBanks c).length)).1
def State.victimsOf (s : State) (c mask t : Nat) : List Nat :=
  ((maskBits mask).filterMap (fun b => (s.bankParked c b).bind (fun x => if x = t then none else some x))).eraseDups

def bankMask (l : List Nat) : Nat := (l.map (fun b => 2 ^ b)).foldl (· + ·) 0

/-- Banks are granted: the tag entries of another ASID go (R127, R337). -/
def Core.grant (k : Core) (t asid mask : Nat) : Core :=
  (maskBits mask).foldl (fun k b => { k with
    banks := k.banks.set {} b { st := .held, task := t }
    tags := (List.range 128).foldl (fun m i => if (m.get {} (128 * b + i)).asid = asid then m else m.set {} (128 * b + i) {}) k.tags }) k

/-- Free frames of a context, lowest first (R352). -/
def Ctx.freeFrames (c : Ctx) : List Nat := (List.range c.fpcnt).filter (fun i => !c.frames.contains i && !c.badFrames.contains i)

/-! ### Ready entries (R326, R336) -/

/-- Does the node wait for a conflicting footprint of an earlier launch of its context (R326)? -/
def State.footHeld (s : State) (id : Nat) (n : NodeRec) : Bool :=
  let clash (a b : Word × Nat × Nat) : Bool :=
    (decide (2 ≤ a.2.1) || decide (2 ≤ b.2.1)) && decide (a.1.toNat < b.1.toNat + b.2.2) && decide (b.1.toNat < a.1.toNat + a.2.2)
  n.foot ≠ [] && s.launches.cells.any (fun l =>
    l.2.active && decide (l.1 < id) && decide (l.2.ctx = (s.launch id).ctx)
      && l.2.nodes.cells.any (fun m => !m.2.done && m.2.foot.any (fun a => n.foot.any (clash a))))

/-- Effective priority (R336). -/
def effPrio (now prio ready : Nat) : Nat := min 3 (prio + (now - ready) / 65536)

/-- A ready entry: an instance, or a task that is away. One that only yielded stands behind what its list held when it joined, instances too (R316, log entry
109). -/
structure Ready where
  eff : Nat
  restore : Bool
  away : Bool := false
  ready : Nat
  launch : Nat
  node : Nat
  inst : Nat
  task : Nat

def Ready.before (a b : Ready) : Bool :=
  decide (b.eff < a.eff) || (decide (a.eff = b.eff) && ((a.restore && !b.restore) || (decide (a.restore = b.restore) &&
    (decide (a.ready < b.ready) || (decide (a.ready = b.ready) && (decide (a.launch < b.launch) || (decide (a.launch = b.launch) &&
      (decide (a.node < b.node) || (decide (a.node = b.node) && decide (a.inst < b.inst))))))))))

def sortReady (l : List Ready) : List Ready :=
  l.foldl (fun acc x => acc.takeWhile (fun y => !x.before y) ++ x :: acc.dropWhile (fun y => !x.before y)) []

/-- The next instance of a node's share on a facet: the lowest one given back or not yet taken. -/
def Launch.nextInst (l : Launch) (n : NodeRec) (f : Nat) : Option Nat :=
  let b := n.back.get [] f
  let fresh := if n.next.get 0 f < (l.share n f).2 then [n.next.get 0 f] else []
  match b ++ fresh with
  | [] => none
  | x :: r => some (r.foldl min x)

/-- The instance leaves its entry. -/
def NodeRec.take (n : NodeRec) (f inst : Nat) : NodeRec :=
  if (n.back.get [] f).contains inst then { n with back := n.back.set [] f ((n.back.get [] f).erase inst) }
  else { n with next := n.next.set 0 f (inst + 1) }

/-- Does a node wait on a facet for nothing but a place? -/
def State.nodeWaits (s : State) (id : Nat) (n : NodeRec) : Bool :=
  n.ready.isSome && !n.done && decide (n.tryAt ≤ s.cycle) && !s.footHeld id n

def State.freshEntries (s : State) (f : Nat) : List Ready :=
  s.launches.cells.flatMap (fun (id, l) =>
    if !l.active || l.failed || !(s.ctx l.ctx).takesWork then []
    else l.nodes.cells.filterMap (fun (i, n) =>
      if !s.nodeWaits id n then none
      else (l.nextInst n f).map (fun inst =>
        { eff := effPrio s.cycle n.prio (n.ready.getD 0), restore := false, ready := n.ready.getD 0, launch := id, node := i, inst := inst, task := 0 })))

/-- Every copy that a task left behind has completed (R316). -/
def State.copiesOver (s : State) (x : Task) (t : Nat) : Bool := x.cores.all (fun c => s.jobsOf t c = [])

def State.restoreEntries (s : State) : List Ready :=
  s.tasks.cells.filterMap (fun (t, x) =>
    if x.st = .restorable ∧ (s.ctx x.ctx).takesWork ∧ s.copiesOver x t then
      some { eff := effPrio s.cycle x.prio x.ready, restore := x.joined.isNone, ready := x.joined.getD x.ready, away := true, launch := x.launch, node := x.node, inst := x.inst, task := t }
    else none)

/-! ### Where an entry goes (R337 to R340) -/

/-- The effective priority of a locus entry that waits for a core: no dynamic entry of equal or lower priority is placed there (R344). -/
def State.locusPrio (s : State) (c : Nat) : Option Nat :=
  (s.launches.cells.filterMap (fun (_, l) =>
    match l.use, l.replay.get [] c with
    | .replaying _, e :: _ => if l.active && !l.failed then
        let n := l.node e.node; some (match n.ready with | some r => effPrio s.cycle n.prio r | none => min 3 n.prio) else none
    | _, _ => none)).foldl (fun m x => match m with | none => some x | some y => some (max x y)) none

/-- The cores of a facet that an entry may go to. -/
def State.openCores (s : State) (cx f eff : Nat) (held : List Nat) : List Nat :=
  (s.partCores cx f).filter (fun c => s.online c && !held.contains c && (match s.locusPrio c with | some p => decide (p < eff) | none => true))

def State.walkFree (s : State) (held : List Nat) (w : Nat) : Bool := s.idleCore w && !held.contains w

/-- What a dispatcher does next. -/
inductive Plan where
  | fresh (id node inst : Nat) (cores walks : List Nat) (pre : Bool)
  | restore (task : Nat) (cores walks : List Nat) (pre : Bool)
  | noCore (id node : Nat)

def State.runsKernel (s : State) (c : Nat) (kernel : Word) : Bool :=
  match (s.core c).task with | some t => decide ((s.task t).kernel = kernel) | none => false

/-- May a core take a preload: it runs a plain task, and its slot is free (R340)? -/
def State.runsPlain (s : State) (c : Nat) : Bool :=
  (s.core c).task.any (fun t => !(s.task t).team && (decide ((s.task t).st = .running) || decide ((s.task t).st = .ending)))
def State.takesPreload (s : State) (c : Nat) : Bool := (s.core c).preload.isNone && s.runsPlain c

/-- A fresh plain instance: its core, and whether through the preload slot. -/
def State.placeFresh (s : State) (cores : List Nat) (kernel : Word) (banks : Nat) (saving : Bool) : Option (Nat × Bool) :=
  let fit := cores.filter (fun c => s.roomOn c banks saving)
  let idle := fit.filter s.idleCore
  let busy := fit.filter s.takesPreload
  match idle.find? (fun c => decide ((s.core c).lastKernel = kernel)) with
  | some c => some (c, false)
  | none =>
    match idle with
    | c :: _ => some (c, false)
    | [] =>
      match busy.find? (fun c => s.runsKernel c kernel) with
      | some c => some (c, true)
      | none => busy.head?.map (fun c => (c, true))

/-- May a saved core go to core c: its bank numbers can be had? -/
def State.fitsSaved (s : State) (t old c : Nat) (saving : Bool) : Bool := s.ownBanks c ((s.task t).banks.get 0 old) t saving none

/-- The saved cores of a task, each to the lowest core that fits. -/
def State.assignCores (s : State) (t : Nat) (saving : Bool) : List Nat → List Nat → Option (List Nat)
  | [], _ => some []
  | old :: r, free =>
    match free.find? (fun c => s.fitsSaved t old c saving) with
    | none => none
    | some c => (s.assignCores t saving r (free.erase c)).map (fun l => c :: l)

/-- A core whose preload holds bank numbers that a task needs and could then be had (R340). -/
def State.preloadInWay (s : State) (c mask t : Nat) : Bool :=
  (s.core c).preload.any (fun y => s.ownBanks c mask t true (some y) && !s.ownBanks c mask t true none)

/-- Where a plain task is restored: the core that parks its banks, an idle core whose last task had its kernel, another, then the preload slots, that of a core
that runs its kernel first (R337); at last a core whose preload is cancelled for it (R340). -/
def State.restorePlace (s : State) (t : Nat) (cores : List Nat) : Option (Nat × Bool) :=
  let x := s.task t
  let old := x.cores.headD 0
  let idle := cores.filter s.idleCore
  let busy := cores.filter s.takesPreload
  let pick (saving : Bool) : Option (Nat × Bool) :=
    let fit (l : List Nat) : List Nat := l.filter (fun c => s.fitsSaved t old c saving)
    match (fit idle).find? (fun c => decide ((s.core c).parkedMask t ≠ 0)), (fit idle).find? (fun c => decide ((s.core c).lastKernel = x.kernel)), fit idle with
    | some c, _, _ | none, some c, _ | none, none, c :: _ => some (c, false)
    | none, none, [] =>
      match (fit busy).find? (fun c => s.runsKernel c x.kernel) with
      | some c => some (c, true)
      | none => (fit busy).head?.map (fun c => (c, true))
  ((pick false).or (pick true)).or
    ((cores.find? (fun c => ((s.core c).task.isNone || s.runsPlain c) && s.preloadInWay c (x.banks.get 0 old) t)).map (fun c => (c, (s.core c).task.isSome)))

def State.planRestore (s : State) (t f : Nat) (held : List Nat) : Option Plan :=
  let x := s.task t
  let cores := s.openCores x.ctx f (effPrio s.cycle x.prio x.ready) held
  let walks := x.walks.map (fun w => walkNo f (idxInFacet w))
  if s.frameWaits t then none
  else if x.team then
    let idle := cores.filter s.idleCore
    if !walks.all (s.walkFree held) then none
    else ((s.assignCores t false x.cores idle).or (s.assignCores t true x.cores idle)).map (fun l => .restore t l walks false)
  else (s.restorePlace t cores).map (fun p => .restore t [p.1] [] p.2)

/-- Does an entry belong to a facet: a restorable task to the one it was saved from, or to any where that one cannot take it (R356)? -/
def State.planEntry (s : State) (f : Nat) (held : List Nat) (e : Ready) : Option Plan :=
  if e.away then
    let home := facetOf ((s.task e.task).cores.headD 0)
    if home = f then s.planRestore e.task f held
    else if (s.planRestore e.task home []).isSome then none else s.planRestore e.task f held
  else
    let l := s.launch e.launch
    let n := l.node e.node
    let cores := s.openCores l.ctx f e.eff held
    if n.teams then
      let walks := n.units.map (walkNo f)
      let online := (s.partCores l.ctx f).filter s.online
      let fit (saving : Bool) : List Nat := (cores.filter (fun c => s.idleCore c && s.roomOn c n.banks saving)).take n.groups
      if online.length < n.groups then some (.noCore e.launch e.node)
      else if (s.ctx l.ctx).freeFrames.length < n.groups ∨ !walks.all (s.walkFree held) then none
      else if (fit false).length = n.groups then some (.fresh e.launch e.node e.inst (fit false) walks false)
      else if (fit true).length = n.groups then some (.fresh e.launch e.node e.inst (fit true) walks false)
      else none
    else if (s.ctx l.ctx).freeFrames = [] then none
    else
      let p := match s.placeFresh cores n.kernel n.banks false with
        | some p => some p
        | none => s.placeFresh cores n.kernel n.banks true
      p.map (fun p => .fresh e.launch e.node e.inst [p.1] [] p.2)

/-- What a leading team that cannot be placed holds back (R339). -/
def State.heldFor (s : State) (f : Nat) (e : Ready) : List Nat :=
  if e.away then
    let x := s.task e.task
    if x.team ∧ facetOf (x.cores.headD 0) = f then
      (((s.partCores x.ctx f).filter s.online).take x.cores.length) ++ x.walks.map (fun w => walkNo f (idxInFacet w))
    else []
  else
    let l := s.launch e.launch
    let n := l.node e.node
    if n.teams then (((s.partCores l.ctx f).filter s.online).take n.groups) ++ n.units.map (walkNo f) else []

/-- The ready entries of a facet, the first in order first (R336): a task that is away is among those of the facet that it was saved from, or that could take it. -/
def State.readyOf (s : State) (f : Nat) : List Ready :=
  sortReady ((s.restoreEntries.filter (fun e => decide (facetOf ((s.task e.task).cores.headD 0) = f) || (s.planEntry f [] e).isSome)) ++ s.freshEntries f)

/-- What a facet's dispatcher holds back now, from locus entries too (R339). -/
def State.heldNow (s : State) (f : Nat) : List Nat :=
  match s.readyOf f with
  | [] => []
  | e :: _ => if (s.planEntry f [] e).isSome then [] else s.heldFor f e

/-- The plan of a facet's dispatcher (R336): the first entry that can be placed. -/
def State.plan (s : State) (f : Nat) : Option Plan :=
  match s.readyOf f with
  | [] => none
  | e :: r =>
    match s.planEntry f [] e with
    | some p => some p
    | none => let held := s.heldFor f e; r.findSome? (s.planEntry f held)

/-! ### Placing an instance -/

/-- Bindings of handles whose block lies in scratchpad (R310): read with the banks granted. -/
def State.bindSpad (s : State) (ag : Agent) (l : List (Nat × Word)) : List (Nat × Handle) :=
  l.filterMap (fun (h, blk) =>
    if homeOf blk < 14 ∨ blk.toNat % 64 ≠ 0 then none
    else match (s.read ag blk 64).res with
      | .ok b => (handleOf blk (some b)).map (fun x => (h, x))
      | _ => none)

def Quad.bindAll (q : Quad) (l : List (Nat × Handle)) : Quad := if q.idle then q else l.foldl (fun q x => q.setHandle x.1 x.2) q
def Core.bindAll (k : Core) (l : List (Nat × Handle)) : Core :=
  { k with q0 := k.q0.bindAll l, q1 := k.q1.bindAll l, q2 := k.q2.bindAll l, q3 := k.q3.bindAll l }

/-- The instance becomes a task on its cores, with the banks of `masks`; it starts, or waits in the preload slot. -/
def State.putTask (s : State) (f id node inst : Nat) (p : Prep) (cores walks masks : List Nat) (pre : Bool) (entry : List Nat)
    (slacks : List (Nat × Nat)) (delay : Nat) : State :=
  let l := s.launch id
  let n := l.node node
  let c := s.ctx l.ctx
  let t := s.nextTask
  let at_ : Place := { inst := inst, node := node, facet := f, lnum := l.num }
  let frames := c.freeFrames.take cores.length
  let pairs := cores.zip masks
  let s := { s with nextTask := t + 1 }.updCtx l.ctx (fun c => { c with frames := c.frames ++ frames })
  let s := pairs.foldl (fun s x => s.updCore x.1 (fun k => k.grant t c.asid x.2)) s
  let bound (u : Nat) : List (Nat × Handle) := s.bindSpad { homeAgent s f c.asid c.ns with unitCore := u, task := t } p.hbind
  let imgs := (List.range cores.length).foldl (fun (m : Tab Core) j =>
    let u := cores.getD j 0
    m.set {} u ((p.core at_ s.cycle u (p.quads j)).bindAll (bound u))) Tab.empty
  let imgs := walks.foldl (fun (m : Tab Core) w => m.set {} w ((p.core at_ s.cycle w (p.walkQuad (idxInFacet w))).bindAll (bound w))) imgs
  let s := s.updTask t (fun _ => {
    st := .preloaded, ctx := l.ctx, tdesc := n.kernel, inst := inst, node := node, facet := f, launch := id, cores := cores, walks := walks
    frames := frames, banks := pairs.foldl (fun m x => m.set 0 x.1 x.2) Tab.empty, nbanks := n.banks, team := n.teams, kernel := n.kernel
    prio := n.prio, ready := n.ready.getD s.cycle, ythr := bits p.d 704 16, budget := bits p.d 672 32, stallmax := bits p.d 640 32
    srkey := BitVec.ofNat 64 (bits p.d 384 64), images := imgs, entry := entry, pre := pre, slacks := slacks })
  let s := s.updLaunch id (fun l => { l with checked := if l.checked.contains n.kernel then l.checked else n.kernel :: l.checked })
  if pre then (cores.foldl (fun s u => s.updCore u (fun k => { k with preload := some t })) s)
  else s.installTask t (s.cycle + 400 + delay)

/-- The placement is recorded (R343): an entry on each of its cores. -/
def State.recordEntry (s : State) (id node inst : Nat) (cores masks : List Nat) (pre : Bool) : State :=
  match (s.launch id).use with
  | .recording _ =>
    let s := s.updLaunch id (fun l => { l with record := (cores.zip masks).foldl (fun m x =>
      m.set [] x.1 (m.get [] x.1 ++ [{ kind := 1, core := idxInFacet x.1, bmask := x.2, pre := pre, node := node
                                       first := inst - (l.bounds (l.node node).total).1, count := 1, wait := 0, at_ := 0 }])) l.record })
    if 65536 < (s.launch id).image.length then s.abortRecord id else s
  | _ => s

/-- A fresh instance is read and placed; BADTASK where its descriptor fails (R309); a page that is present later lets others go first. -/
def State.placeInst (s : State) (f id node inst : Nat) (cores walks : List Nat) (pre : Bool) : State :=
  let l := s.launch id
  let n := l.node node
  let c := s.ctx l.ctx
  let w : Who := { f := f, asid := c.asid, ns := c.ns, work := 4096 * id + node }
  match s.fe (prepare w n.kernel (!l.checked.contains n.kernel) n.teams (s.feat 7)) with
  | (s, .error .wait) => s.updLaunch id (fun l => l.updNode node (fun n => { n with tryAt := s.cycle + 64 }))
  | (s, .error .fail) => (s.feDone w).failLaunch id node 4
  | (s, .ok p) =>
    let s := s.feDone w
    let groups := if n.teams then (groupsOf p.members).length else 1
    let units := if n.teams then walksOf p.members else []
    if groups ≠ n.groups ∨ units ≠ n.units then s.updLaunch id (fun l => l.updNode node (fun n => { n with groups := groups, units := units }))
    else
      let gone := cores.flatMap (fun u => (s.victims u n.banks).map (fun t => (u, t)))
      let saved := (gone.map (fun x => (maskBits (s.savable x.2 x.1)).length)).sum
      if gone.any (fun x => s.frameWaits x.2) then s
      else
      let s := gone.foldl (fun s x => s.saveParked x.1 [x.2]) s
      if !(s.ctx l.ctx).takesWork then s
      else
      let masks := cores.map (fun u => bankMask ((s.freeBanks u).take n.banks))
      let s := s.updLaunch id (fun l => l.updNode node (fun n => n.take f inst))
      (s.putTask f id node inst p cores walks masks pre [] [] (528 * saved)).recordEntry id node inst cores masks pre

/-! ### Restoring a task (R356) -/

/-- Units of a saved task take new numbers. -/
def Task.moveTo (x : Task) (cores walks : List Nat) : Task :=
  let pairs := x.cores.zip cores ++ x.walks.zip walks
  { x with
    cores := cores, walks := walks
    images := pairs.foldl (fun (m : Tab Core) p => m.set {} p.2 (x.images.get {} p.1)) Tab.empty
    banks := pairs.foldl (fun m p => m.set 0 p.2 (x.banks.get 0 p.1)) Tab.empty
    tails := pairs.foldl (fun m p => m.set 0 p.2 (x.tails.get 0 p.1)) Tab.empty }

/-- A preload that holds banks of the mask on a core is cancelled (R340). -/
def State.clearWay (s : State) (c mask : Nat) : State :=
  if (maskBits mask).any (fun b => (s.core c).preload.any (fun y => decide (((s.core c).banks.get {} b).task = y))) then s.cancelPreload c else s

/-- A saved task goes onto its cores, or into a preload slot, where its frame is loaded at once and it waits (R340, R356): banks parked elsewhere go to its frame, what
others park in the way to theirs; a frame fault ends it all. -/
def State.restoreTask (s : State) (t : Nat) (cores walks : List Nat) (pre : Bool) : State :=
  let x := s.task t
  let asid := (s.ctx x.ctx).asid
  let pairs := (x.cores.map (fun c => x.banks.get 0 c)).zip cores
  let s := pairs.foldl (fun s p => s.clearWay p.2 p.1) s
  let moved := (x.cores.zip cores).filter (fun p => decide (p.1 ≠ p.2) && decide ((s.core p.1).parkedMask t ≠ 0))
  let gone := pairs.flatMap (fun p => (s.victimsOf p.2 p.1 t).map (fun v => (p.2, v)))
  if gone.any (fun p => s.frameWaits p.2) then s
  else
  let s := moved.foldl (fun s p => (s.saveBanks t p.1 false).1) s
  let s := gone.foldl (fun s p => s.saveParked p.1 [p.2]) s
  if (s.task t).st ≠ .restorable then s
  else
  let s := s.updTask t (fun x => x.moveTo cores walks)
  let s := pairs.foldl (fun s p => s.updCore p.2 (fun k => k.grant t asid p.1)) s
  let load := (cores.map (fun c => (maskBits ((s.task t).tails.get 0 c)).length)).foldl max 0
  let saveAt := s.cycle + 1312 + 528 * load
  if pre then
    let s := s.updTask t (fun x => { x with st := .preloaded, saveAt := saveAt })
    match s.writeHeaders t true with
    | (s, false) => s.frameFault t 0x32
    | (s, true) =>
      match s.loadTask t with
      | (s, true) => cores.foldl (fun s u => s.updCore u (fun k => { k with preload := some t })) s
      | (s, false) => s.frameFault t 0x32
  else
    let s := (cores ++ walks).foldl (fun s c => s.updCore c (fun k => { k with task := some t })) s
    let s := s.updTask t (fun x => { x with st := .running, stage := 3, saveAt := saveAt })
    match s.writeHeaders t true with
    | (s, true) => s
    | (s, false) => s.frameFault t 0x32

/-! ### The end of a save (R354, R355) -/

/-- The cores of a task as its save leaves them, its frames apart. -/
def State.letGo (s : State) (t : Nat) : State :=
  let x := s.task t
  let vol := decide (x.cause = 0)
  (x.units.foldl (fun s c => s.updCore c (fun k =>
    ({ k.vacate s.cycle with lastKernel := x.kernel, chans := mapChans k.chans (fun y => y.left t vol) } : Core).parkBanks t)) s).updTask t (fun x => { x with
      stage := 0, st := if x.cause = 0 then .away else if 0xFE ≤ x.cause ∨ s.eventCame x then .restorable else .suspended })

/-- Does a placement take banks that a task parks on core c? -/
def State.planTakes (s : State) (t c : Nat) : Plan → Bool
  | .fresh id node _ cores _ _ => cores.contains c && (s.victims c ((s.launch id).node node).banks).contains t
  | .restore r cores _ _ => ((((s.task r).cores.map (fun k => (s.task r).banks.get 0 k)).zip cores).filter (fun p => decide (p.2 = c))).any (fun p =>
      (s.victimsOf c p.1 r).contains t)
  | .noCore _ _ => false

/-- The cores of a task whose next task does not fit in the banks neither held nor parked: there its own are saved (R355). -/
def State.tailNeeds (s : State) (t : Nat) : List Nat :=
  let s' := s.letGo t
  (s.task t).cores.filter (fun c => (s'.core c).preload.isNone && (s'.plan (facetOf c)).any (s'.planTakes t c))

/-- The save ends (R354): images and fixed parts, banks parked or saved, then VALID, and the cores take their next work. -/
def State.endSave (s : State) (t : Nat) (needs : List Nat) : State :=
  let x := s.task t
  let lost := ((x.units.head?).map (fun c => (s.core c).lost)).getD 0
  let (s, ok) := x.units.foldl (fun (p : State × Bool) c => let r := p.1.saveCore t c; (r.1, p.2 && r.2)) (s, true)
  let s := s.updTask t (fun x => { x with
    stage := 0, cycles := x.cycles + (s.cycle - x.cycleBase) - lost
    st := if x.cause = 0 then .away else if 0xFE ≤ x.cause ∨ s.eventCame x then .restorable else .suspended })
  if !ok then s.frameFault t 0x32
  else match needs.foldl (fun (p : State × Bool) c => if p.2 then p.1.saveBanks t c true else p) (s, true) with
    | (s, false) => s
    | (s, true) =>
      match (s.updTask t (fun x => { x with valid := true })).writeHeaders t false with
      | (s, false) => s.frameFault t 0x32
      | (s, true) => (x.cores.foldl (fun s c => s.promote c) s).checkPreempted x.ctx

/-- SAVE_COMPLETE: the fixed part is written; where the next task needs the banks they are saved, which takes 528 cycles each. -/
def execSaveComplete (core : Nat) (s : State) : Host.Outcome State Fault Refusal :=
  .next (match s.leads core with
    | none => s
    | some t =>
      let x := s.task t
      if x.stage ≠ 2 ∧ x.stage ≠ 4 then s
      else if s.frameWaits t then s.updTask t (fun x => { x with saveAt := s.cycle + 1 })
      else
        let needs := s.tailNeeds t
        if x.stage = 2 ∧ needs ≠ [] then
          s.updTask t (fun x => { x with stage := 4, saveAt := s.cycle + 528 * (needs.map (fun c => (maskBits (x.banks.get 0 c)).length)).foldl max 0 })
        else s.endSave t needs)

/-! ### DISPATCH_PLACEMENT (R336) -/

/-- Cores of a facet whose task is gone and whose preload has not taken over. -/
def State.waitingPreloads (s : State) (f : Nat) : List Nat :=
  (s.cores.cells.filter (fun c => decide (facetOf c.1 = f) && c.2.preload.isSome && c.2.task.isNone && decide (c.2.freeAt ≤ s.cycle))).map Prod.fst

/-- Recordings whose context has halted (R343). -/
def State.deadRecords (s : State) : List Nat :=
  (s.launches.cells.filter (fun l => l.2.active && (match l.2.use with | .recording _ => true | _ => false) && (s.ctx l.2.ctx).halted)).map Prod.fst

/-- Banks parked on cores of a facet that are offline: they are to be saved (R338). -/
def State.offlineParked (s : State) (f : Nat) : List (Nat × Nat) :=
  (s.cores.cells.filter (fun c => decide (facetOf c.1 = f) && !isWalk c.1 && !s.online c.1)).flatMap (fun c =>
    ((((List.range 8).filterMap (fun b => s.bankParked c.1 b)).eraseDups).filter (fun t => !s.frameWaits t)).map (fun t => (c.1, t)))

/-- Has a dispatcher anything to do before it places an entry? -/
def State.untidy (s : State) (f : Nat) : Bool :=
  s.waitingPreloads f ≠ [] || s.deadRecords ≠ [] || s.offlineParked f ≠ [] || s.tasks.cells.any (fun t => decide (t.2.st = .suspended) && s.eventCame t.2)

def State.tidy (s : State) (f : Nat) : State :=
  let s := s.deadRecords.foldl State.abortRecord s
  let s := (s.offlineParked f).foldl (fun s p => s.saveParked p.1 [p.2]) s
  (((s.waitingPreloads f).foldl State.promote s)).wakeTasks

/-- The dispatcher of a facet makes the placement that comes first, and writes FORECAST (R340, R415). -/
def State.dispatch (s : State) (f : Nat) : State :=
  let s := (s.tidy f).updFacet f (fun x => { x with dispatchAt := s.cycle + 8, forecast := Config.forecast s.draws % 193 })
  let s := s.drawn
  match s.plan f with
  | none => s
  | some (.fresh id node inst cores walks pre) => s.placeInst f id node inst cores walks pre
  | some (.restore t cores walks pre) => s.restoreTask t cores walks pre
  | some (.noCore id node) => s.failLaunch id node 5

def execDispatchPlacement (f : Nat) (s : State) : Host.Outcome State Fault Refusal := .next (s.dispatch f)

/-! ### Locus entries (R344, R345) -/

/-- The cores whose lists hold an instance. -/
def Launch.entryCores (l : Launch) (e : LocusEntry) : List Nat :=
  (l.replay.cells.filter (fun x => x.2.any (fun y => decide (y.node = e.node) && decide (y.first = e.first)))).map Prod.fst

/-- Is a core free for the entry at the head of its list? -/
def State.entryFits (s : State) (id c : Nat) (e : LocusEntry) : Bool :=
  let k := s.core c
  let mine (t : Nat) : Bool := decide ((s.task t).launch = id)
  let open_ := s.tasks.cells.any (fun x => decide (x.2.launch = id) && x.2.entry.contains c && !(decide (x.2.st = .done) || decide (x.2.st = .killed)))
  (match (s.launch id).replay.get [] c with | y :: _ => decide (y.node = e.node) && decide (y.first = e.first) | [] => false)
    && k.preload.isNone && s.ownBanks c (((s.launch id).replay.get [] c).headD e).bmask 0 true none
    && (match k.task with
      | some t => e.pre && mine t && s.takesPreload c
      | none => decide (k.freeAt ≤ s.cycle) && (e.pre || !open_))

/-- Can the entry at the head of core c's list start for a launch? -/
def State.entryReady (s : State) (id c : Nat) : Option LocusEntry :=
  let l := s.launch id
  match l.use, l.replay.get [] c with
  | .replaying _, e :: _ =>
    let n := l.node e.node
    let cs := l.entryCores e
    let held := s.heldNow (facetOf c)
    if l.active && !l.failed && (s.ctx l.ctx).takesWork && s.nodeWaits id n && cs.all (fun c => s.entryFits id c e && !held.contains c)
        && decide (cs.head? = some c) && decide (cs.length ≤ (s.ctx l.ctx).freeFrames.length)
        && (n.units.map (walkNo (facetOf c))).all (s.walkFree held) then some e
    else none
  | _, _ => none

/-- The launch whose entry core c could start, or whose replay must stop for engine health (R345). -/
def State.locusStep (s : State) (c : Nat) : Option Nat :=
  (s.launches.cells.find? (fun x => (s.entryReady x.1 c).isSome)).map Prod.fst

/-- LOCUS_ENTRY_START (R344): the guards are checked, then the instance is placed as its entry says. -/
def State.startEntry (s : State) (c : Nat) : State :=
  match s.locusStep c with
  | none => s
  | some id =>
    let l := s.launch id
    if !s.healthy l then s.stopReplay id false
    else match s.entryReady id c with
      | none => s
      | some e =>
        let n := l.node e.node
        let f := facetOf c
        let x := s.ctx l.ctx
        let w : Who := { f := f, asid := x.asid, ns := x.ns, work := 4096 * id + e.node }
        match s.fe (prepare w n.kernel (!l.checked.contains n.kernel) n.teams (s.feat 7)) with
        | (s, .error .wait) => s.updLaunch id (fun l => l.updNode e.node (fun n => { n with tryAt := s.cycle + 64 }))
        | (s, .error .fail) => (s.feDone w).failLaunch id e.node 4
        | (s, .ok p) =>
          let s := s.feDone w
          let cs := l.entryCores e
          let masks := cs.map (fun c => ((l.replay.get [] c).headD e).bmask)
          let gone := (cs.zip masks).flatMap (fun y => (s.victimsOf y.1 y.2 0).map (fun t => (y.1, t)))
          let saved := (gone.map (fun y => (maskBits (s.savable y.2 y.1)).length)).sum
          if gone.any (fun y => s.frameWaits y.2) then s.updLaunch id (fun l => l.updNode e.node (fun n => { n with tryAt := s.cycle + 8 }))
          else
          let s := gone.foldl (fun s y => s.saveParked y.1 [y.2]) s
          if !(s.ctx l.ctx).takesWork then s
          else
          let s := s.updLaunch id (fun l => { l with replay := cs.foldl (fun m c => m.set [] c ((m.get [] c).drop 1)) l.replay })
          let slacks := (l.locus.filter (fun y => decide (y.kind = 2) && decide (y.node = e.node) && decide (y.first = e.first))).map (fun y =>
            (y.count / 2 ^ 16, y.count % 16))
          let inst := (l.bounds n.total).1 + e.first
          let s := s.putTask (l.facetOfInst n inst) id e.node inst p cs (n.units.map (walkNo f)) masks e.pre cs slacks (528 * saved)
          if e.pre then s.promote c else s

def execLocusEntryStart (core : Nat) (s : State) : Host.Outcome State Fault Refusal := .next (s.startEntry core)

/-! ### The end of a task (R312, R340) -/

/-- Is an ENDING task done: its copies, its matrix commands, its pulls? -/
def State.endReady (s : State) (t : Nat) : Bool :=
  let x := s.task t
  decide (x.st = .ending) && x.units.all (fun c => s.jobsOf t c = [] && (s.core c).mq.isEmpty && (s.core c).mrun.isEmpty)

/-- The waits and jobs of a task are noted with its launch (R428). -/
def State.noteTask (s : State) (t : Nat) : State :=
  let x := s.task t
  let w := (s.quadsOfTask t).foldl (fun m p => max m ((s.coreOfTask t p.1).quad p.2).waited) 0
  match (s.launch x.launch).use with
  | .dynamic => s
  | _ => s.updLaunch x.launch (fun l => { l with
      waits := l.waits ++ [(x.node, x.inst, w)], traces := l.traces ++ x.trace.map (fun j => (x.node, x.inst, j)) })

/-- TASK_DONE (R312): banks, frame and cores return, preloads are promoted, and the task is counted. -/
def State.finishTask (s : State) (t : Nat) : State :=
  let x := s.task t
  let s := (s.noteTask t).freeTask t
  let s := s.updTask t (fun y => { y with st := .done, cores := [], walks := [], frames := [], images := Tab.empty, waitFor := .none, trace := [] })
  let s := x.cores.foldl (fun s c => s.promote c) s
  (s.countTask x.launch x.node x.facet).checkPreempted x.ctx

def execTaskDone (task : Nat) (s : State) : Host.Outcome State Fault Refusal := .next (if s.endReady task then s.finishTask task else s)

/-- When the task on a core overruns: a preload waits, and the task has held the core for its budget (R340). -/
def State.overrunAt (s : State) (c : Nat) : Option Nat :=
  match (s.core c).task, (s.core c).preload with
  | some t, some _ =>
    let x := s.task t
    if x.budget ≠ 0 ∧ x.st = .running ∧ x.stage = 0 then some ((s.core c).since + 1024 * x.budget + 1) else none
  | _, _ => none

/-- BUDGET_OVERRUN (R340): saved with cause 0xFE; a recording that it belongs to ends (R343). -/
def execBudgetOverrun (core : Nat) (s : State) : Host.Outcome State Fault Refusal :=
  .next (match s.overrunAt core with
    | some t =>
      if s.cycle < t then s
      else (s.beginStop (s.taskAt core) 0xFE).abortRecord (s.task (s.taskAt core)).launch
    | none => s)

end Sys2Proof.Machine
end

