-- ==== Sys2Proof/Machine/Submit.lean ====
section
/-! DEFINITION. SPAWN and GUARD (R319, R320), submission by a supervisor hart or a doorbell (R327, R329, R330), and the refinement of a locus by
the front-end firmware (R347, R429). -/

namespace Sys2Proof.Machine

/-! ### Task words -/

/-- GUARD (R320): the write reaches the front end at once. -/
def execGuard (k : BitVec 4) (a : BitVec 6) (s : State) : Host.Outcome State Fault Refusal :=
  .next (s.steer (useOf [a] 0 4) (fun s =>
    let x := s.me.src a
    (s.updLaunch s.myTask.launch (fun l => { l with gw := l.gw.set 0 k.toNat x })).retire))

/-- May a queue's write index become w (R329)? -/
def SubQ.takes (x : SubQ) (w : Nat) : Bool :=
  decide ((w + 2 ^ 32 - x.ridx) % 2 ^ 32 ≤ 2 ^ x.log2n) && decide ((w + 2 ^ 32 - x.widx) % 2 ^ 32 ≤ 2 ^ x.log2n)

def State.setWidx (s : State) (q w : Nat) : State := s.updSubq q (fun x => { x with widx := w, tryAt := s.cycle + 1 })

/-- The packet of a SPAWN. -/
def spawnPacket (graph cookie : Word) : List (BitVec 8) := leBytes 64 (graph.toNat * 2 ^ 128 + cookie.toNat * 2 ^ 64 + 1)

/-- SPAWN (R319). -/
def execSpawn (d a b : BitVec 6) (s : State) : Host.Outcome State Fault Refusal :=
  .next (s.steer (useOf [a, b] d 4) (fun s =>
    let c := s.ctx s.myTask.ctx
    let done (s : State) (st : Word) : State := s.updMe (fun q => (q.writeG d.toNat st).retire 0)
    if !c.spawnEn then done s 2
    else
      let go (s : State) : State :=
        let x := s.subq c.spawnQ
        if s.me.ask.isNone ∧ 2 ^ x.log2n ≤ (x.widx + 2 ^ 32 - x.ridx) % 2 ^ 32 then done s 1
        else
          let at_ := x.base + BitVec.ofNat 64 (64 * (x.widx % 2 ^ x.log2n))
          match s.portWrite { ask := s.me.ask, answer := s.me.answer } (homeAgent s 8 c.asid c.ns) 8 at_ (spawnPacket (s.me.src a) (s.me.src b)) with
          | (s, _, .ok _) => done ((s.updMe (fun q => { q with ask := none, answer := none })).setWidx c.spawnQ ((x.widx + 1) % 2 ^ 32)) 0
          | (s, p, .error e) => (s.updMe (fun q => { q with ask := p.ask, answer := p.answer })).splitFail e
      if s.me.ask.isSome then go s else s.release true go))

/-! ### Submission -/

def Hart.xr (h : Hart) (k : Nat) : Word := if k = 0 then 0 else h.x.get 0 k

/-- The illegal-instruction exception of a hart (R329, R330). -/
def Hart.illegalAt (h : Hart) (w : Nat) : Hart := { h with port := none, illegal := true, stval := BitVec.ofNat 64 w }

/-- The hart whose coprocessor port holds an instruction. -/
def State.portHart (s : State) : Option Nat := (s.harts.cells.find? (fun h => h.2.port.isSome)).map Prod.fst

/-- The checks of QSUBMIT (R329, R330). -/
def State.submitOk (s : State) (h : Hart) (qn : Word) (w : Nat) : Bool :=
  let x := s.subq qn.toNat
  decide (qn.toNat < 1024) && x.en && h.qsasid.getLsbD 16 && decide (h.qsasid.toNat % 2 ^ 16 = x.asid) && x.takes w

/-- QSUBMIT (R329). -/
def execQsubmit (b a : BitVec 5) (s : State) : Host.Outcome State Fault Refusal :=
  .next (match s.portHart with
    | none => s
    | some i =>
      let h := s.hart i
      let qn := h.xr a.toNat
      let w := low32 (h.xr b.toNat)
      if s.submitOk h qn w then (s.updHart i (fun h => { h with port := none, pc := h.pc + 4 })).setWidx qn.toNat w
      else s.updHart i (fun h => h.illegalAt (patternOf (.qsubmit b a))))

def Hart.setX (h : Hart) (k : Nat) (x : Word) : Hart := if k = 0 then h else { h with x := h.x.set 0 k x }

/-- What a RISC-V CSR instruction of form funct3 writes over an old value, if it writes (PRESUMED, log entry 101). -/
def csrOp (funct3 src : Nat) (old x : Word) : Option Word :=
  match funct3 % 4 with
  | 1 => some x
  | 2 => if src = 0 then none else some (old ||| x)
  | _ => if src = 0 then none else some (old &&& ~~~x)

/-- The bits of QSASID that a write sets (R330). -/
def qsasidBits (x : Word) : Word := x &&& 0x1FFFF

/-- A CSR instruction of a hart that names QSASID, 0x5C0 (R330): supervisor and machine mode read and write it, user mode does not. `none`: the
instruction is another. -/
def State.hartCsr (s : State) (i w : Nat) : Option State :=
  let f := bits w 12 3
  let src := bits w 15 5
  if bits w 0 7 ≠ 0b1110011 ∨ bits w 20 12 ≠ 0x5C0 ∨ f % 4 = 0 ∨ 2 ^ 32 ≤ w ∨ (s.hart i).user then none
  else some (s.updHart i (fun h =>
    let new := csrOp f src h.qsasid (if 4 ≤ f then BitVec.ofNat 64 src else h.xr src)
    { h.setX (bits w 7 5) h.qsasid with port := none, pc := h.pc + 4, qsasid := (new.map qsasidBits).getD h.qsasid }))

/-- Any other instruction at the port, and an access to QSASID from user mode. -/
def State.hartIllegal (s : State) (i w : Nat) : State := s.updHart i (fun h => h.illegalAt w)

/-- SQ_DOORBELL (R329): a write that fails the index checks is ignored. -/
def execSqDoorbell (q : Nat) (v : BitVec 32) (s : State) : Host.Outcome State Fault Refusal :=
  .next (if (s.subq q).takes v.toNat then s.setWidx q v.toNat else s)

/-! ### LOCINV and LOCINVA (R407) -/

/-- The places that a context's launches have used in this package: its own, and those of gang launches that have recorded there. -/
def State.homePlaces (s : State) (c : Ctx) : List Nat :=
  (s.ownPlaces c false ++ (s.ownPlaces c true).filter (fun i => c.lru.keys.contains i)).eraseDups

/-- Every locus of a hash, or every one, becomes free; a recording of it ends, and a launch that replays it goes on (R407). -/
def State.freeLoci (s : State) (cx : Nat) (hash : Option Nat) : State × Bool :=
  let c := s.ctx cx
  let hit (h : Nat) : Bool := match hash with | some x => decide (h = x) | none => true
  let w : Who := { f := 8, asid := c.asid, ns := c.ns, work := 4 * cx + 2 }
  match s.fe (readHeaders w c (s.homePlaces c)) with
  | (s, .error _) => (s, false)
  | (s, .ok l) =>
    let s := s.feDone w
    let s := s.updCtx cx (fun c => { c with copies := c.copies.filter (fun y => !hit y.hash) })
    let rec_ := (s.launches.cells.filter (fun x => decide (x.2.ctx = cx) && hit x.2.hash)).map Prod.fst
    let s := rec_.foldl State.abortRecord s
    ((l.filter (fun x => decide (x.2.state ≠ 0) && hit x.2.hash)).foldl (fun s x => s.locusBytes cx (c.placeAt x.1) (leBytes 64 0)) s, true)

/-- The invalidations under way; one whose headers cannot be read yet waits. -/
def State.runInvals (s : State) : State :=
  s.hub.invals.foldl (fun s x =>
    match s.freeLoci x.1 x.2 with
    | (s, true) => s
    | (s, false) => { s with hub := { s.hub with invals := s.hub.invals ++ [x], signalAt := s.cycle + 1 } })
    { s with hub := { s.hub with invals := [] } }

/-! ### Refinement (R347, R429) -/

/-- The effective slack of a job: its override, else its own slack. -/
def slackOf (l : List LocusEntry) (tr : List (Nat × Nat × JobTrace)) (node first job : Nat) : Nat :=
  match l.find? (fun e => decide (e.kind = 2) && decide (e.node = node) && decide (e.first = first) && decide (e.count / 2 ^ 16 = job)) with
  | some e => e.count % 16
  | none => ((tr.find? (fun t => decide (t.1 = node) && decide (t.2.1 = first) && decide (t.2.2.num = job))).map (fun t => t.2.2.own)).getD 0

/-- A job's override is set; a copy entry for it is added among those of its task, in job order. -/
def setSlack (node first job v : Nat) (core : Nat) : List LocusEntry → List LocusEntry
  | [] => []
  | e :: r =>
    let new : LocusEntry := { kind := 2, core := core, bmask := 0, pre := false, node := node, first := first, count := job * 2 ^ 16 + v, wait := 0, at_ := 0 }
    let mine (x : LocusEntry) : Bool := decide (x.node = node) && decide (x.first = first)
    if e.kind = 2 ∧ mine e ∧ e.count / 2 ^ 16 = job then { e with count := job * 2 ^ 16 + v } :: r
    else if mine e ∧ (e.kind = 1 ∨ e.count / 2 ^ 16 < job) ∧ !(r.head?.any (fun x => decide (x.kind = 2) && mine x && decide (x.count / 2 ^ 16 ≤ job))) then
      e :: new :: r
    else e :: setSlack node first job v core r

/-- The shipped policy (R429) on the entries of a locus. -/
def refine (tr : List (Nat × Nat × JobTrace)) (l : List LocusEntry) : List LocusEntry :=
  (l.filter (fun e => decide (e.kind = 2) && decide (1 ≤ e.wait))).foldl (fun l e =>
    let job := e.count / 2 ^ 16
    let earlier := tr.filter (fun t => decide (t.1 = e.node) && decide (t.2.1 = e.first) && decide (t.2.2.num < job)
      && (match t.2.2.wait with | none => true | some w => decide (t.2.2.doneAt < w)))
    earlier.foldl (fun l t =>
      let v := slackOf l tr e.node e.first job
      if v < slackOf l tr e.node e.first t.2.2.num then l
      else setSlack e.node e.first t.2.2.num (min 15 (v + 1)) e.core l) l) l

/-- The image of a revision: guard records as they stand, the lists of each core in order. -/
def revisedImage (h : LocusHdr) (old : List (BitVec 8)) (l : List LocusEntry) : List (BitVec 8) :=
  let secs := ((List.range 8).filter (fun f => decide (bits h.fmask f 1 = 1))).map (fun f =>
    let cores := ((l.filter (fun e => decide (facetOf e.core = f))).map (fun e => e.core)).eraseDups
    (f, (old.drop (h.foff.getD f 0)).take (32 * h.nn) ++ cores.flatMap (fun c =>
      (l.filter (fun e => decide (e.core = c))).flatMap (fun e => { e with core := idxInFacet c }.bytes) ++ leBytes 16 (idxInFacet c * 2 ^ 118))
      ++ leBytes 16 (255 * 2 ^ 118)))
  let img := locusImage h.hash (h.rev + 1) h.nn secs
  img.take 52 ++ leBytes 1 h.fails ++ img.drop 53

/-- The locus of a hash at a place, in STATE 2. -/
def readRefinable (w : Who) (c : Ctx) (hash place : Nat) : Fe (Option (LocusHdr × List (BitVec 8))) := do
  match ← feTry w (c.placeAt place) 64 with
  | none => pure none
  | some hb =>
    let h := LocusHdr.of (leNat hb)
    if h.hash = hash ∧ h.state = 2 then pure ((← feTry w (c.placeAt place) (min h.len 65536)).map (fun b => (h, b)))
    else pure none

/-- What the policy makes of this package's own copy of a locus that another package recorded (R347, R348). -/
def Ctx.refineCopy (x : Ctx) (hash : Nat) : Ctx :=
  { x with copies := x.copies.map (fun y =>
      match (if y.hash = hash then x.traces.find? (fun t => decide (t.hash = hash) && t.replayed && decide (t.rev = y.rev)) else none) with
      | none => y
      | some tr => let l := refine tr.jobs y.entries; if l = y.entries then y else { y with entries := l, rev := y.rev + 1 }) }

/-- The replay of a hash that the firmware has the trace of (R428, R429). -/
def Ctx.replayOf (x : Ctx) (hash : Nat) : Option LocusTrace := x.traces.find? (fun t => decide (t.hash = hash) && t.replayed)

/-- LOCUS_REFINE (R429): the last replay's trace must be of the revision that stands; a locus that would pass its place is not written. One that another package recorded is refined in this
package's own copy (R348). -/
def execLocusRefine (c : Nat) (hash : Word) (s : State) : Host.Outcome State Fault Refusal :=
  .next (
    let x := s.ctx c
    let w : Who := { f := 8, asid := x.asid, ns := x.ns, work := 4 * c + 3 }
    let s := { s with hub := { s.hub with refines := s.hub.refines.filter (fun y => decide (y.2 ≠ (c, hash.toNat))) } }
    match x.replayOf hash.toNat with
    | none => s
    | some tr =>
      if !(s.ownPlaces x tr.gang).contains tr.place then s.updCtx c (fun x => x.refineCopy hash.toNat)
      else match s.fe (readRefinable w x hash.toNat tr.place) with
        | (s, .error _) => { s with hub := { s.hub with refines := s.hub.refines ++ [(s.cycle + 1, c, hash.toNat)] } }
        | (s, .ok none) => s.feDone w
        | (s, .ok (some (h, b))) =>
          let s := s.feDone w
          let fs := (List.range 8).filter (fun f => decide (bits h.fmask f 1 = 1))
          let l := fs.flatMap (fun f => entriesOf b f 4096 (h.foff.getD f 0 + 32 * h.nn))
          let l' := refine tr.jobs l
          if tr.rev ≠ h.rev ∨ l' = l then s
          else
            let img := revisedImage h b l'
            if 65536 < img.length then s
            else (s.locusBytes c (x.placeAt tr.place + 64) (img.drop 64)).locusBytes c (x.placeAt tr.place) (img.take 64))

end Sys2Proof.Machine
end

