-- ==== Sys2Proof/Machine/Return.lean ====
section
/-! DEFINITION. RETURNING FROM AN EXCEPTION: TRET (R394) replays the images of the engines and restores the quadrant. -/

namespace Sys2Proof.Machine

/-- The matrix image of the handler's quadrant (R226): HALT is cleared; the faulting command goes on from PROG1, or is dropped and its signal raised; a later MPROG finds it done (R216). -/
def Core.replayMatrix (k : Core) (now qn : Nat) (skip : Bool) : Core :=
  let mine (m : MCmd) : Bool := m.fault && decide (m.quad = qn)
  let first := k.mq.takeWhile (fun m => !mine m)
  match k.mq.dropWhile (fun m => !mine m) with
  | [] => k
  | m :: rest =>
    let more := (first ++ rest).find? (·.fault)
    let k1 := { k with halt := more.isSome, prog1 := if first.any (·.fault) then k.prog1 else (more.map (fun (x : MCmd) => x.row)).getD 0 }
    if !k.halt then k
    else if skip then { (k1.smSignal now m.signalSm) with mq := first ++ rest, mlast := if first.all (·.reload) then m.token else k.mlast }
    else
      let row := if first.any (·.fault) then m.row else k.prog1
      { k1 with mq := first ++ { m with fault := false, row := row, out := if m.row = row then m.out else [] } :: rest }

/-- The channel that PROG3 names, and the bytes done (R252). -/
def Quad.progChan (q : Quad) : Nat := fieldNat q.prog3 58 56
def Quad.progDone (q : Quad) : Nat := fieldNat q.prog3 47 0

/-- The channel images of the handler's quadrant are replayed (R253). -/
def State.replayChans (s : State) (c : Nat) (q : Quad) : State :=
  q.chImg.keys.foldl (fun s ch => s.replayChan c ch q.cskip (if ch = q.progChan then some q.progDone else none)) s

/-- What TRET does outside its quadrant. -/
def State.replayEngines (s : State) : State :=
  let q := s.me
  ((s.updMyCore (fun k => k.replayMatrix q.cyc s.cur.quad q.xskip)).replayChans s.cur.core q)

/-- What TRET does to its quadrant. PROG2 stays as the handler leaves it: one that abandons a gather or scatter writes it (R116). -/
def Quad.tret (q : Quad) : Quad := ({ q with chImg := Tab.empty } : Quad).leave

def execTret (s : State) : Host.Outcome State Fault Refusal :=
  .next (s.issue {} (fun s => if !s.me.inh then s.ill 0x0B else s.replayEngines.updMe Quad.tret))

end Sys2Proof.Machine
end

