-- ==== Sys2Proof/Machine/Fabric.lean ====
section
/-! DEFINITION. The fabric: slot tables and their loads (R360 to R366), what the circuits send (R367 to R371, R375), end-to-end timers and
unreachable packages (R376, R379), and the words BOPEN, BCLOSE, BWAIT, BSEL, SQST and SLOTW (R383 to R387). -/

namespace Sys2Proof.Machine

def State.updFabric (s : State) (f : Fabric → Fabric) : State := { s with fabric := f s.fabric }
def State.circuit (s : State) (k : Nat) : Circuit := s.fabric.circuits.get {} k
def State.updCircuit (s : State) (k : Nat) (f : Circuit → Circuit) : State :=
  s.updFabric (fun x => { x with circuits := x.circuits.set {} k (f (x.circuits.get {} k)) })

/-! ### Slot tables (R362, R363) -/

def tableBytes : Nat := 135168

/-- A channel byte: valid with bit 6 clear and a channel other than 0, or zero. -/
def chanOk (x : Nat) : Bool := if bits x 7 1 = 0 then decide (x = 0) else decide (bits x 6 1 = 0) && decide (bits x 0 6 ≠ 0)

/-- The first bad byte of eight channel bytes: a bad one, or one that repeats a valid one. -/
def chansBad (v : Nat) : Option Nat :=
  (List.range 8).find? (fun k =>
    let x := bits v (8 * k) 8
    !chanOk x || (decide (x ≠ 0) && (List.range k).any (fun j => decide (bits v (8 * j) 8 = x))))

def fibreBad (used : Bool) (v : Nat) : Option Nat :=
  if used then (match chansBad (bits v 0 64) with | some k => some k | none => (chansBad (bits v 64 64)).map (· + 8))
  else (List.range 16).find? (fun k => decide (bits v (8 * k) 8 ≠ 0))

/-- The byte of the first bad field of a slot header: LEN, reserved, GUARD, reserved. -/
def slotBad (used : Bool) (v : Nat) : Option Nat :=
  let len := bits v 0 10
  let guard := bits v 16 10
  if (if used then len < 1 ∨ 1000 < len else len ≠ 0) then some 0
  else if bits v 10 6 ≠ 0 then some 1
  else if (if used then guard < 120 ∨ 1000 < guard else guard ≠ 0) then some 2
  else if bits v 26 38 ≠ 0 then some 3 else none

/-- The entries of `w` bytes from the start of a list. -/
def entries (w : Nat) : Nat → List (BitVec 8) → List Nat
  | 0, _ => []
  | n + 1, b => leNat (b.take w) :: entries w n (b.drop w)

/-- The image's slot headers and fibre entries. -/
def slotsOf (b : List (BitVec 8)) : List Nat := entries 8 64 (b.drop 0x40)
def fibresOf (b : List (BitVec 8)) : List Nat := entries 16 8192 (b.drop 0x1000)

/-- The lowest failing entry of a list, with the byte of its bad field. -/
def firstFail (bad : Nat → Nat → Option Nat) (w at_ : Nat) : Nat → List Nat → Option Nat
  | _, [] => none
  | i, v :: r =>
    match bad i v with
    | some k => some (at_ + w * i + k)
    | none => firstFail bad w at_ (i + 1) r

/-- The offset of the first failing field of an image, none where it is locally legal (R363). -/
def tableBad (b : List (BitVec 8)) : Option Nat :=
  let h := leNat (b.take 8)
  let n := bits h 0 7
  if n = 0 ∨ 64 < n ∨ bits h 7 25 ≠ 0 then some 0
  else match firstFail (fun i v => slotBad (decide (i < n)) v) 8 0x40 0 (slotsOf b) with
    | some off => some off
    | none => firstFail (fun i v => fibreBad (decide (i / 128 < n)) v) 16 0x1000 0 (fibresOf b)

def tabOfList {α : Type} [DecidableEq α] (d : α) (l : List α) : Tab α :=
  ⟨((List.range l.length).zip l).filter (fun x => decide (x.2 ≠ d))⟩

def tableOf (b : List (BitVec 8)) : SlotTab :=
  let h := leNat (b.take 8)
  { epoch := bits h 32 32, nslot := bits h 0 7
    hdr := tabOfList {} ((slotsOf b).map (fun v => ({ len := bits v 0 10, guard := bits v 16 10 } : SlotHdr)))
    fibres := tabOfList 0 ((fibresOf b).map (BitVec.ofNat 128)) }

/-! ### Time in a rotation (R365), in ns -/

def SlotTab.len (t : SlotTab) (k : Nat) : Nat := 1000 * (t.hdr.get {} k).len
def SlotTab.guard (t : SlotTab) (k : Nat) : Nat := (t.hdr.get {} k).guard
/-- Where slot k begins in a rotation. -/
def SlotTab.begins (t : SlotTab) (k : Nat) : Nat := ((List.range k).map t.len).sum
def SlotTab.rotation (t : SlotTab) : Nat := t.begins t.nslot
def SlotTab.offset (t : SlotTab) (time : Nat) : Nat := (time - t.start) % t.rotation
def SlotTab.slotNow (t : SlotTab) (time : Nat) : Nat :=
  ((List.range t.nslot).filter (fun k => decide (t.begins k ≤ t.offset time))).length - 1
/-- The ns of the slot that have passed. -/
def SlotTab.within (t : SlotTab) (time : Nat) : Nat := t.offset time - t.begins (t.slotNow time)

/-- The circuits of a slot to a package, 64 * fibre + channel (R360, R361). -/
def SlotTab.circuitsTo (t : SlotTab) (pkg dst slot : Nat) : List Nat :=
  (List.range 128).flatMap (fun f =>
    let e := (t.fibres.get 0 (128 * slot + f)).toNat
    ((List.range 8).filter (fun k => decide (bits e (8 * k + 7) 1 = 1) && decide ((pkg + bits e (8 * k) 6) % 64 = dst))).map (fun k =>
      64 * f + bits e (8 * k) 6))

/-- The ns of data periods of circuits to a package since the table's start. -/
def SlotTab.dataTime (t : SlotTab) (pkg dst time : Nat) : Nat :=
  let ks := (List.range t.nslot).filter (fun k => t.lists pkg dst k)
  (time - t.start) / t.rotation * (ks.map (fun k => t.len k - t.guard k)).sum
    + (ks.map (fun k => min (t.offset time - t.begins k - t.guard k) (t.len k - t.guard k))).sum

/-- The ns of data periods to a package so far (R376). -/
def State.servedNs (s : State) (dst : Nat) : Nat :=
  s.fabric.served.get 0 dst + (match s.fabric.active with | some t => t.dataTime s.pkg dst s.time | none => 0)

/-! ### Loading and activating (R366) -/

/-- When a table that is asked for at TIME b becomes active. -/
def State.activation (s : State) (b : Nat) : Nat :=
  let b := max b s.time
  match s.fabric.active with
  | none => b
  | some t => t.start + cdiv (b - t.start) t.rotation * t.rotation

/-- An image that has been read is checked; the status it is answered with. -/
def State.loadTable (s : State) (b : List (BitVec 8)) (act : Nat) : State × Nat :=
  if s.fabric.shadow.isSome then (s, 2)
  else match tableBad b with
    | some off => (s, off * 2 ^ 32 + 1)
    | none => (s.updFabric (fun f => { f with shadow := some (tableOf b, s.activation act) }), 0)

/-- The status of an image that cannot be read (R366); none where the read waits. -/
def unreadable (a : Word) : Perf → Option Nat
  | .trap _ e0 _ _ => some ((e0 - a).toNat % 2 ^ 32 * 2 ^ 32 + 3)
  | .page _ off => some ((off + 2 ^ 54 - offOf a) % 2 ^ 54 % 2 ^ 32 * 2 ^ 32 + 3)
  | _ => none

/-- An image is read and loaded: the port of the read, and the status when it is over. -/
def State.readTable (s : State) (p : Port) (ag : Agent) (a : Word) (act : Nat) : State × Port × Option Nat :=
  match s.portRead p ag 4 0 a tableBytes with
  | (s, _, .ok b) => match s.loadTable b act with | (s, st) => (s, {}, some st)
  | (s, p, .error e) => match unreadable a e with | some st => (s, {}, some st) | none => (s, p, none)

/-- SLOTW (R366). -/
def execSlotw (d a b : BitVec 6) (s : State) : Host.Outcome State Fault Refusal :=
  .next (s.steer (useOf [a, b] d 4) (fun s =>
    let q := s.me
    if s.loadsHeld (q.src a) then s.poll
    else match s.readTable { ask := q.ask, answer := q.answer, got := q.got } s.agent (q.src a) (q.src b).toNat with
    | (s, p, none) => s.updMe (fun q => { q with ask := p.ask, answer := p.answer, got := p.got }.poll)
    | (s, _, some st) => s.updMe (fun q =>
        (({ q with ask := none, answer := none, got := [] } : Quad).writeG d.toNat (BitVec.ofNat 64 st)).retire 1059)))

/-- A write of FABACT starts a load. -/
def execFabactLoad (v : Word) (s : State) : Host.Outcome State Fault Refusal :=
  .next { s with hub := { s.hub with fabact := v, fabAt := some (s.cycle + 1060) } }

/-- The hub's own ASID and world, in which it reads FABIMG (log entry 34). -/
def hubAgent (s : State) : Agent := { homeAgent s 8 0 false with ns := s.hub.secmap.getLsbD 13 }
def fabKey : Nat := 9 * 2 ^ 64

/-- The load that FABACT has started reports in FABSTAT. -/
def execFabimgLoadDone (s : State) : Host.Outcome State Fault Refusal :=
  .next (
    if s.hub.fabAt.isNone then s
    else
      let p := ((s.hub.fePorts.find? (fun x => decide (x.1 = fabKey))).map Prod.snd).getD {}
      let keep (s : State) (l : List (Nat × Port)) : State :=
        { s with hub := { s.hub with fePorts := l ++ s.hub.fePorts.filter (fun x => decide (x.1 ≠ fabKey)) } }
      match s.readTable p (hubAgent s) s.hub.fabimg s.hub.fabact.toNat with
      | (s, p, none) => let s := keep s [(fabKey, p)]; { s with hub := { s.hub with fabAt := some (s.cycle + 64) } }
      | (s, _, some st) => let s := keep s []; { s with hub := { s.hub with fabAt := none, fabstat := BitVec.ofNat 64 st } })

/-- TABLE_ACTIVATE: the shadow starts slot 0 at its instant; FABSTAT then shows its EPOCH (R366). -/
def execTableActivate (s : State) : Host.Outcome State Fault Refusal :=
  .next (match s.fabric.shadow with
    | none => s
    | some (t, at_) =>
      if s.time < at_ then s
      else
        let served := (List.range 64).foldl (fun m p => m.set 0 p (s.servedNs p)) Tab.empty
        let s := s.updFabric (fun f => { f with active := some { t with start := at_ }, shadow := none, slotAt := at_, served := served })
        { s with hub := { s.hub with fabstat := BitVec.ofNat 64 (t.epoch * 2 ^ 32) } })

/-- SLOT_START (R364, R365): a slot begins; a circuit without return light is a MISMATCH. -/
def execSlotStart (s : State) : Host.Outcome State Fault Refusal :=
  .next (match s.fabric.active with
    | none => s
    | some t =>
      if s.time < s.fabric.slotAt then s
      else
        let k := t.slotNow s.fabric.slotAt
        let s := (List.range 64).foldl (fun s dst =>
          ((t.circuitsTo s.pkg dst k).filter (fun c => (s.circuit c).dark)).foldl (fun s _ => s.event (.mismatch dst)) s) s
        s.updFabric (fun f => { f with slotAt := f.slotAt + t.len k }))

/-! ### Packets on circuits (R367, R370, R371, R375) -/

/-- The header of a packet, ECRC apart (R367). -/
def Packet.header (p : Packet) : Nat :=
  p.fseq % 2 ^ 32 * 2 ^ 192 + p.asid % 2 ^ 16 * 2 ^ 176 + p.lseq % 2 ^ 8 * 2 ^ 168 + p.sfac % 2 ^ 4 * 2 ^ 164 + p.score % 2 ^ 8 * 2 ^ 156
    + p.sunit % 2 ^ 4 * 2 ^ 152 + p.ty % 2 ^ 5 * 2 ^ 147 + p.btag % 4 * 2 ^ 145 + bit p.ns * 2 ^ 144 + p.payload.length % 2 ^ 9 * 2 ^ 135
    + p.aux % 2 ^ 8 * 2 ^ 127 + p.spkg % 64 * 2 ^ 121 + p.dpkg % 64 * 2 ^ 115 + p.home % 16 * 2 ^ 111 + p.offset % 2 ^ 54 * 2 ^ 57 + p.epoch % 2 ^ 16 * 2 ^ 41

/-- ns that a packet takes on a circuit of 8 GB/s (R361). -/
def Packet.wire (p : Packet) : Nat := cdiv (32 + p.payload.length) 8

def isLinkControl (p : Packet) : Bool := decide (p.ty = 15)

/-- The cycles between the router port of a circuit and a unit or home of facet f, either way (R458): the port is one of facet fibre ÷ 16 (R360); the hub lies on no
facet (log entry 106). -/
def legTo (circuit f : Nat) : Nat := 40 + (if f < 8 ∧ f ≠ circuit / 64 / 16 then 60 else 0)
/-- The source leg of a packet: link control begins at the port. -/
def Packet.legOut (p : Packet) (circuit : Nat) : Nat := if isLinkControl p then 0 else legTo circuit p.leaves
/-- Is a packet for a home, not for the unit that its header names? -/
def Packet.asks (p : Packet) : Bool := !(decide (p.ty = 5) || decide (p.ty = 9) || decide (p.ty = 11) || decide (p.ty = 13) || decide (p.ty = 14))
/-- When a packet that stands at its port since cycle `at_` is at its home or unit: after the target leg. -/
def Packet.dueIn (p : Packet) : Nat := p.at_ + (if isLinkControl p then 0 else legTo p.via (if p.asks then p.home else p.sfac))

/-- The circuits to a package in the slot now, lit, in their data period; with the ns left of it. -/
def State.openCircuits (s : State) (dst : Nat) : List Nat × Nat :=
  match s.fabric.active with
  | none => ([], 0)
  | some t =>
    let k := t.slotNow s.time
    if t.within s.time < t.guard k ∨ s.time < t.start then ([], 0)
    else ((t.circuitsTo s.pkg dst k).filter (fun c => !(s.circuit c).dark), t.len k - t.within s.time)

/-- Acknowledgements, reservation returns, replies and link control go before the requests of their queue (R434). -/
def Packet.goesFirst (p : Packet) : Bool := !p.asks || isLinkControl p

/-- What circuit c sends next to a package: a packet to be replayed; else the first of the packets that go first, once it is at the port and has a buffer; else the
first request (R371, R375, R434). -/
def State.nextOn (s : State) (dst left c : Nat) : Option (Bool × Packet) :=
  let x := s.circuit c
  if s.time < x.freeAt then none
  else match x.replay with
    | p :: _ => if p.wire ≤ left then some (true, p) else none
    | [] =>
      let q := s.fabric.sendq.get [] dst
      let may (p : Packet) : Bool := decide (p.at_ + p.legOut c ≤ s.cycle) && (isLinkControl p || (decide (0 < x.credits) && decide (x.kept.length < 64)))
      match (q.find? (fun p => p.goesFirst && may p)).or (q.find? (fun p => !p.goesFirst)) with
      | some p => if may p ∧ p.wire ≤ left then some (false, p) else none
      | none => none

/-- The circuit that sends next to a package, and the packet. -/
def State.nextSend (s : State) (dst : Nat) : Option (Nat × Bool × Packet) :=
  let (cs, left) := s.openCircuits dst
  cs.findSome? (fun c => (s.nextOn dst left c).map (fun x => (c, x.1, x.2)))

def sameFlow (p q : Packet) : Bool := decide (flowKey p = flowKey q)
def samePacket (p q : Packet) : Bool := sameFlow p q && decide (p.epoch = q.epoch) && decide (p.fseq = q.fseq)

/-- The timer of a request starts when it leaves (R376). -/
def State.startTimer (s : State) (p : Packet) : State :=
  if !p.asks then s
  else
  let now := s.servedNs p.dpkg
  s.updFabric (fun f => { f with flows := f.flows.map (fun x =>
    if x.1 = flowKey p then (x.1, { x.2 with unacked := x.2.unacked.map (fun u => if samePacket u.p p then { u with sentAt := some now } else u) }) else x) })

/-- PACKET_SEND (R370, R371, R373, R375). -/
def State.sendNext (s : State) (dst : Nat) : State :=
  match s.nextSend dst with
  | none => s
  | some (c, true, p) => s.updCircuit c (fun x => { x with replay := x.replay.drop 1, freeAt := s.time + p.wire })
  | some (c, false, p) =>
    let s := s.updFabric (fun f => { f with sendq := f.sendq.set [] dst ((f.sendq.get [] dst).erase p) })
    let s := s.updCircuit c (fun x =>
      let x := { x with freeAt := s.time + p.wire }
      if isLinkControl p then x
      else { x with lseq := (x.lseq + 1) % 256, kept := x.kept ++ [{ p with lseq := x.lseq, via := c }], credits := x.credits - 1 })
    (s.startTimer p).refill dst

def execPacketSend (dst : Nat) (s : State) : Host.Outcome State Fault Refusal := .next (s.sendNext dst)

/-- LINK_REPLAY_REQUEST (R375): every kept packet from that LSEQ is sent again, in order, behind earlier ones still to be sent again. -/
def State.replayFrom (s : State) (c lseq : Nat) : State :=
  s.updCircuit c (fun x =>
    let l := x.kept.dropWhile (fun p => decide (p.lseq ≠ lseq))
    { x with replay := x.replay.filter (fun p => !l.contains p) ++ l })
def execLinkReplayRequest (fibre chan : Nat) (lseq : BitVec 8) (s : State) : Host.Outcome State Fault Refusal :=
  .next (s.replayFrom (64 * fibre + chan) lseq.toNat)

/-- LINK_CREDIT_RETURN (R373). -/
def State.creditBack (s : State) (c n : Nat) : State := s.updCircuit c (fun x => { x with credits := min 64 (x.credits + n) })
def execLinkCreditReturn (fibre chan n : Nat) (s : State) : Host.Outcome State Fault Refusal := .next (s.creditBack (64 * fibre + chan) n)

/-- An acknowledgement of a circuit frees the packets up to its LSEQ (R375). -/
def State.linkAcked (s : State) (c lseq : Nat) : State :=
  s.updCircuit c (fun x => if x.kept.any (fun p => decide (p.lseq = lseq)) then { x with kept := (x.kept.dropWhile (fun p => decide (p.lseq ≠ lseq))).drop 1 } else x)

/-- RESERVATION_RETURN (R373, R374): units come back, and the quota is what the target says. -/
def State.unitsBack (s : State) (dst n quota : Nat) : State :=
  (s.updFabric (fun f => { f with
    units := f.units.set 0 dst (f.units.get 0 dst - n), quota := if 64 ≤ quota ∧ quota ≤ 4096 then f.quota.set 1024 dst quota else f.quota })).refill dst
def execReservationReturn (dst n quota : Nat) (s : State) : Host.Outcome State Fault Refusal := .next (s.unitsBack dst n quota)

/-- RQUOTA_WRITE (R374). -/
def execRquotaWrite (s' : Nat) (v : Word) (s : State) : Host.Outcome State Fault Refusal :=
  .next (
    let n := fieldNat v 12 0
    let total := (((List.range 64).filter (fun k => decide (k ≠ s'))).map (fun k => s.hub.rquota.get 1024 k)).sum + n
    if n < 64 ∨ 4096 < n ∨ 65536 < total then s else { s with hub := { s.hub with rquota := s.hub.rquota.set 1024 s' n } })

/-! ### Answers to requests -/

def Port.hear (p : Port) (token : Nat) (r : Reply) : Port := if p.ask = some token then { p with answer := some r } else p
/-- A packet of a copy job is acknowledged, or comes back refused (R434). -/
def Job.hear (j : Job) (token : Nat) (r : Reply) : Job :=
  let j := { j with port := j.port.hear token r }
  match j.posted.find? (fun x => decide (x.token = token)) with
  | none => j
  | some x =>
    let j := { j with posted := j.posted.filter (fun y => decide (y.token ≠ token)) }
    if r.status = 0 then j else { j with redo := j.redo ++ [x], bad := j.bad.or (some (x.at_, r)) }
def Chan.hear (x : Chan) (token : Nat) (r : Reply) : Chan :=
  { x with q := x.q.map (fun j => j.hear token r), records := x.records.map (fun j => j.hear token r), port := x.port.hear token r }
def Quad.hear (q : Quad) (token : Nat) (r : Reply) : Quad :=
  { q with memReply := if q.memTok = some token then some r else q.memReply, answer := if q.ask = some token then some r else q.answer }
def Core.hear (k : Core) (token : Nat) (r : Reply) : Core :=
  { k with
    q0 := k.q0.hear token r, q1 := k.q1.hear token r, q2 := k.q2.hear token r, q3 := k.q3.hear token r
    chans := mapChans k.chans (fun x => x.hear token r), mrun := k.mrun.map (fun m => { m with port := m.port.hear token r }) }

/-- The answer to the request of a token reaches the unit that asked (R372): on its core, in its task's image, or in the hub. -/
def State.deliver (s : State) (token : Nat) (r : Reply) : State :=
  let s := s.cores.keys.foldl (fun s c => s.updCore c (fun k => k.hear token r)) s
  let s := s.tasks.keys.foldl (fun s t => s.updTask t (fun x => { x with
    images := x.images.keys.foldl (fun m c => m.set {} c ((m.get {} c).hear token r)) x.images })) s
  { s with hub := { s.hub with
      fePorts := s.hub.fePorts.map (fun x => (x.1, x.2.hear token r)), signals := s.hub.signals.map (fun x => { x with port := x.port.hear token r }) } }

/-! ### Timers and unreachable packages (R376, R379) -/

/-- The quadrant that a packet's header names, while its flow is the unit's current one. -/
def State.updBatch (s : State) (p : Packet) (f : Batch → Batch) : State :=
  let c := 192 * p.sfac + p.score
  if 4 ≤ p.sunit ∨ (s.core c).epoch.get 0 p.sunit ≠ p.epoch then s
  else s.updQuad c p.sunit (fun q => { q with batches := q.batches.set {} p.btag (f (q.batches.get {} p.btag)) })

/-- A closing batch that waits for no peer is CLOSED. -/
def Batch.settle (b : Batch) : Batch := if b.st = .closing ∧ b.waiting = [] then { b with st := .closed } else b

def slotToken (k tile f : Nat) : Nat := (k * 2 ^ 14 + tile) * 8 + f
def renewBase : Nat := 2 ^ 60

/-- What becomes of a discarded packet (R379). -/
def State.reportLost (s : State) (p : Packet) : State :=
  let lost (b : Batch) : Batch := { b with err := b.err ||| 2 ^ 5, badPeers := b.badPeers ||| 2 ^ p.dpkg }
  let dead (s : State) (f k : Nat) : State := let x := s.slot f k; if x.st = .live then s.sever f x.asid (offOf x.addr) x.ns k 3 else s
  if p.ty = 8 then dead s (p.token % 8) (p.token / 2 ^ 17)
  else if p.ty = 10 then s.updBatch p (fun b => ({ lost b with waiting := b.waiting.filter (fun x => decide (x ≠ p.dpkg)) } : Batch).settle)
  else if p.ty = 12 ∧ (p.token = 0 ∨ renewBase ≤ p.token) then
    let s := s.event (.unreachable p.dpkg)
    if p.token = 0 then s else dead s (p.token % 8) ((p.token - renewBase) / 8)
  else if p.token = 0 then s.updBatch p lost
  else s.deliver p.token { status := 15, bytes := [] }

/-- A flow's requests to an unreachable package are discarded and reported; their units are free again. Responses are not the flow's, though they echo a unit of that number. -/
def State.dropFlow (s : State) (key : Nat) : State :=
  let us := (s.flow key).unacked
  let mine (p : Packet) : Bool := p.asks && decide (flowKey p = key)
  let dst := key % 64
  let s := s.setFlow key { s.flow key with unacked := [] }
  let s := s.updFabric (fun f => { f with
    sendq := f.sendq.set [] dst ((f.sendq.get [] dst).filter (fun p => !mine p)), backlog := f.backlog.set [] dst ((f.backlog.get [] dst).filter (fun p => !mine p)), units := f.units.set 0 dst (f.units.get 0 dst - us.length)
    circuits := f.circuits.keys.foldl (fun m c => let x := m.get {} c
      m.set {} c { x with kept := x.kept.filter (fun p => !mine p), replay := x.replay.filter (fun p => !mine p) }) f.circuits })
  ((us.foldl (fun s u => s.reportLost u.p) s).refill dst).lateEpochs

/-- The timer of a packet runs out after 20 µs of data periods. -/
def Unacked.expired (u : Unacked) (served : Nat) : Bool := match u.sentAt with | some t => decide (t + 20000 ≤ served) | none => false

def State.expiredTo (s : State) (dst : Nat) : Option (Nat × Unacked) :=
  s.fabric.flows.findSome? (fun f => if f.1 % 64 ≠ dst then none else (f.2.unacked.find? (fun u => u.expired (s.servedNs dst))).map (fun u => (f.1, u)))

/-- E2E_TIMEOUT (R376): the packet is sent again, or its eighth expiry makes the package unreachable for the flow. -/
def State.resend (s : State) (dst : Nat) : State :=
  match s.expiredTo dst with
  | none => s
  | some (key, u) =>
    if 8 ≤ u.tries + 1 then s.dropFlow key
    else
      let f := s.flow key
      (s.setFlow key { f with unacked := f.unacked.map (fun x => if x = u then { x with tries := x.tries + 1, sentAt := none } else x) }).queue u.p

def execE2eTimeout (dst : Nat) (s : State) : Host.Outcome State Fault Refusal := .next (s.resend dst)

/-! ### Batch words (R384, R385) -/

def execBopen (t : BitVec 2) (s : State) : Host.Outcome State Fault Refusal := .next (s.memWord (.bopen t))
def execBclose (t : BitVec 2) (s : State) : Host.Outcome State Fault Refusal := .next (s.memWord (.bclose t))
def execBsel (t : BitVec 2) (s : State) : Host.Outcome State Fault Refusal := .next (s.memWord (.bsel t))

/-- BWAIT's image (R385): an open batch is empty (R384). -/
def Batch.image (b : Batch) : Word :=
  if b.st = .open then BitVec.ofNat 64 (2 ^ 63)
  else BitVec.ofNat 64 (b.err % 2 ^ 16 * 2 ^ 40 + min 0xFFFFF b.issued * 2 ^ 20 + min 0xFFFFF b.done)

/-- BWAIT (R385): behind the quadrant's queued batch words of the tag. -/
def execBwait (d : BitVec 6) (t : BitVec 2) (i : BitVec 16) (s : State) : Host.Outcome State Fault Refusal :=
  .next (s.steer (useOf [] d 4) (fun s =>
    let q := s.me
    let b := q.batches.get {} t.toNat
    if b.st = .closing ∨ (q.memQ ++ q.memImg).any (fun e => match e.op with | .batch _ u => decide (u = t.toNat) | _ => false) then
      s.hold i.toNat (zext64 t) (BitVec.ofNat 64 b.waiting.length) 0xF3
    else s.updMe (fun q => (q.writeG d.toNat b.image).retire 0)))

/-! ### SQST (R387) -/

/-- The next serving slot from a slot on, and the ns to its data period: 0 when it is in it. -/
def SlotTab.nextFor (t : SlotTab) (pkg dst time : Nat) : Option (Nat × Nat) :=
  let k0 := t.slotNow time
  (List.range (t.nslot + 1)).findSome? (fun j =>
    let k := (k0 + j) % t.nslot
    if !t.lists pkg dst k then none
    else
      let at_ := t.begins k + (if t.nslot ≤ k0 + j then t.rotation else 0) + t.guard k
      some (k, at_ - t.offset time))

/-- The image of SQST. -/
def State.sendState (s : State) (dst : Nat) : Nat :=
  let depth := min 4096 (s.fabric.sendq.get [] dst).length
  let slot := if dst = s.pkg then none else s.fabric.active.bind (fun t => t.nextFor s.pkg dst s.time)
  match slot with
  | none => 2 ^ 57 + depth
  | some (k, ns) => k * 2 ^ 51 + (if ns = 0 then 2 ^ 50 else min 0x3FFFF (ns / 64) * 2 ^ 32) + depth

def execSqst (d a : BitVec 6) (s : State) : Host.Outcome State Fault Refusal :=
  .next (s.steer (useOf [a] d 4) (fun s =>
    let x := s.sendState (fieldNat (s.me.src a) 5 0)
    s.updMe (fun q => (q.writeG d.toNat (BitVec.ofNat 64 x)).retire 0)))

end Sys2Proof.Machine
end

