-- ==== Sys2Proof/Machine/Arrivals.lean ====
section
/-! DEFINITION. What comes in from other packages: packets received (R368, R372, R375), duplicate windows (R377, R378), requests at their home
(R121, R372), summaries (R384), pulls and leases (R262 to R266), and the steps of a facet's home. -/

namespace Sys2Proof.Machine

/-! ### Duplicate windows (R377, R378) -/

def seqDist (a b : Nat) : Nat := (a + 2 ^ 32 - b) % 2 ^ 32

def State.windowOf (s : State) (key : Nat) : Option Window := s.fabric.windows.find? (fun w => decide (w.key = key))
def State.setWindow (s : State) (w : Window) : State :=
  s.updFabric (fun f => { f with windows := w :: f.windows.filter (fun x => decide (x.key ≠ w.key)) })

def newerEpoch (a b : Nat) : Bool := let d := (a + 65536 - b) % 65536; decide (1 ≤ d) && decide (d ≤ 32767)

/-- The first FSEQ not applied moves past those that are. -/
def Window.advance (w : Window) : Nat → Window
  | 0 => w
  | n + 1 =>
    if w.applied.contains w.next then
      ({ w with next := (w.next + 1) % 2 ^ 32, applied := w.applied.filter (fun q => decide (q ≠ w.next)) } : Window).advance n
    else w

/-- Is an FSEQ before the first one not applied? -/
def Window.past (w : Window) (fseq : Nat) : Bool := let d := seqDist w.next fseq; decide (1 ≤ d) && decide (d ≤ 2 ^ 31)

/-- What the source has given up is waited for no longer (R379, log entry 117). -/
def Window.raise (w : Window) (oldest : Nat) : Window :=
  let d := seqDist oldest w.next
  if 1 ≤ d ∧ d < 2 ^ 31 then ({ w with next := oldest, applied := w.applied.filter (fun q => decide (seqDist q oldest < 2 ^ 31)) } : Window).advance 1025 else w

/-- What the window makes of a packet. -/
inductive Seen where
  | fresh (w : Window)
  | again (w : Window)
  | old

/-- A packet is held against its window, which a newer epoch empties. -/
def Window.judge (w : Option Window) (p : Packet) : Seen :=
  let empty : Window := { key := flowKey p, epoch := p.epoch }
  let w := match w with
    | none => empty
    | some w => if newerEpoch p.epoch w.epoch then empty else w
  if w.epoch ≠ p.epoch then .old
  else
    let w := w.raise p.oldest
    if w.past p.fseq then .again w
    else match w.high with
      | none => .fresh { w with high := some p.fseq, seen := [p.fseq] }
      | some h =>
        if seqDist h p.fseq ≤ 1023 then (if w.seen.contains p.fseq then .again w else .fresh { w with seen := p.fseq :: w.seen })
        else if seqDist h p.fseq ≤ 2 ^ 31 then .again w
        else .fresh { w with high := some p.fseq, seen := p.fseq :: w.seen.filter (fun q => decide (seqDist p.fseq q ≤ 1023)) }

/-- Has every packet of the flow before an FSEQ been received? -/
def Window.whole (w : Window) (fseq : Nat) : Bool :=
  let n := seqDist fseq w.next
  decide (2 ^ 31 ≤ n) || (List.range (min n 1024)).all (fun i => let q := (w.next + i) % 2 ^ 32; w.seen.contains q || w.applied.contains q)

/-- Has a packet of the window been applied? -/
def Window.isApplied (w : Window) (fseq : Nat) : Bool :=
  w.applied.contains fseq || w.past fseq

/-! ### Responses (R368, R373) -/

/-- A packet back to the unit that a request came from: the header echoes its unit, FSEQ and epoch (R372). -/
def Packet.back (p : Packet) (ty aux : Nat) (payload : List (BitVec 8)) : Packet :=
  { p with ty := ty, spkg := p.dpkg, dpkg := p.spkg, aux := aux, payload := payload, lseq := 0, via := 0, leaves := p.home }

/-- The last FSEQ that an acknowledgement of a flow covers. Copy and matrix writes that came back refused are acknowledged by name only, and none behind them is covered, so that a covered
one is one performed (log entry 33). -/
def Window.covers (w : Window) (p : Packet) : Nat :=
  let last := (w.next + 2 ^ 32 - 1) % 2 ^ 32
  if p.sunit < 4 ∨ 12 < p.sunit then last
  else w.failed.foldl (fun q x => if seqDist q x.1 < 2 ^ 31 then (x.1 + 2 ^ 32 - 1) % 2 ^ 32 else q) last

/-- The cumulative acknowledgement of a flow; of a packet with an answer of its own, with its status and what that carries (R376). -/
def State.acknowledge (s : State) (p : Packet) (token status : Nat) (b : List (BitVec 8) := []) : State :=
  match s.windowOf (flowKey p) with
  | none => s
  | some w =>
    if w.epoch ≠ p.epoch then s.queue { p.back 14 0 [] with token := 0 }
    else if w.next = 0 ∧ token = 0 then s
    else s.queue { p.back 14 status b with fseq := w.covers p, token := token }

/-- Is a request answered by its acknowledgement: an atomic or a copy write that waits? -/
def Packet.byAck (p : Packet) : Bool := (decide (p.ty = 2) || decide (p.ty = 6)) && decide (p.token ≠ 0)

/-- A window keeps the answer of a refused request, while the request may come again (R380). -/
def Window.note (w : Window) (p : Packet) (status : Nat) (b : List (BitVec 8)) : Window :=
  if status = 0 ∨ !p.byAck then w else { w with failed := (p.fseq, status, b) :: w.failed.filter (fun x => decide (seqDist p.fseq x.1 ≤ 1023)) }

/-- A request is applied or answered: its window notes it, and it is acknowledged; its unit goes back with the quota (R373, R374, R376). -/
def State.applied (s : State) (p : Packet) (token status : Nat) (b : List (BitVec 8) := []) : State :=
  let s := match s.windowOf (flowKey p) with
    | some w => if w.epoch = p.epoch then s.setWindow ((({ w with applied := p.fseq :: w.applied } : Window).note p status b).advance 1025) else s
    | none => s
  (s.acknowledge p token status b).queue { p.back 13 0 (leBytes 2 1 ++ leBytes 2 (s.hub.rquota.get 1024 p.spkg)) with token := 0 }

/-! ### Requests at their home (R121, R372) -/

/-- The agent that a packet stands for. -/
def Packet.agent (p : Packet) : Agent :=
  let unit := if p.sunit < 4 then 0 else if p.sunit < 12 then 1 else if p.sunit = 12 then 3 else if p.sunit = 13 then 2 else 5
  { unit := unit, pkg := p.spkg, fac := p.sfac, core := p.score, sub := if p.sunit < 4 then p.sunit else if p.sunit < 12 then p.sunit - 4 else 0,
    unitCore := 0, task := 0, asid := p.asid, ns := p.ns }

/-- The address that a packet names, here. -/
def State.packetAddr (s : State) (p : Packet) : Word := BitVec.ofNat 64 (s.pkg * 2 ^ 58 + p.home % 16 * 2 ^ 54 + p.offset % 2 ^ 54)

/-- Where a request waits: at the facet of its home, or the hub. -/
def Packet.place (p : Packet) : Nat := min p.home 8

/-- Error classes of a batch (R382). -/
def errClass (status : Nat) : Nat :=
  if status = 4 ∨ status = 8 then 2 else if status = 9 then 4 else if status = 7 then 8 else if status = 15 then 32 else if status = 48 then 16 else 1

/-- What has come of a request: its end with a status and bytes, a further attempt after some cycles, the wait for a walk until a cycle (R121), a watch, a stall on a link with what its end by
STALLMAX reports. -/
inductive Served where
  | done (status : Nat) (b : List (BitVec 8))
  | later (n : Nat)
  | walk (till : Nat)
  | watch
  | stall (report : List (BitVec 8))

/-- An access at its home; a write that meets a present-later page is held, a read is answered so (R382, log entry 32). -/
def servedOf (read : Bool) : AccRes → Served
  | .ok b => .done 0 b
  | .prot r at_ => .done r (refusal 0 0 at_)
  | .sever r l at_ => .done (64 + r) (refusal l 0 at_)
  | .page _ _ => if read then .done 128 [] else .later 64
  | .stall f l at_ => .stall (refusal l f at_)
  | .pull _ _ => .later 8
  | .wait => .later 1
  | .walk t => .walk t
  | .remote => .done 4 []

/-- A ring operation's refusal as a status. -/
def servedPerf : Perf → Served
  | .trap c a r info => .done (if c = causeSEVER then 64 + r.toNat else r.toNat) (refusal (bits info.toNat 32 12) (bits info.toNat 44 4) a)
  | .page _ _ => .done 128 []
  | .walk t => .walk t
  | _ => .later 1

/-- A watch of another package's SIGW or AWAIT. -/
def remoteWatcher (p : Packet) : Nat × Nat := (2 ^ 40 + p.spkg, p.token)

/-- SIGW and AWAIT at the home (R300; AUX 0x45, log entry 33). -/
def State.serveWatch (s : State) (p : Packet) : State × Served :=
  let who := remoteWatcher p
  if s.watches.any (fun w => decide (w.who = who)) then
    if s.watches.any (fun w => decide (w.who = who) && w.met) then (s.unwatch who, .done 0 (leBytes 1 1)) else (s, .watch)
  else match s.acceptAll p.agent .load (spans (s.packetAddr p) 8) with
    | (⟨s, .ok _⟩, (key, _) :: _) =>
      let s := s.count key p.asid (requester s p.agent)
      let cond := payNat p.payload 0 1
      let b := BitVec.ofNat 64 (payNat p.payload 1 8)
      if signalHolds cond (BitVec.ofNat 64 (leNat (s.bytesAt key 8))) b then (s, .done 0 (leBytes 1 1))
      else ({ s with watches := s.watches ++ [{ who := who, key := key, cond := cond, b := b, met := false }] }, .watch)
    | (⟨s, .ok _⟩, []) => (s, .done 0 (leBytes 1 1))
    | (⟨s, x⟩, _) => (s, servedOf true x)

/-- A request is performed, as its TYPE says (R368); `started`: it has been tried before. -/
def State.serve (s : State) (p : Packet) (started : Bool) : State × Served :=
  let ag := p.agent
  let a := s.packetAddr p
  let acc (read : Bool) (r : Acc) : State × Served := (r.st, servedOf read r.res)
  let w (i n : Nat) : Word := BitVec.ofNat 64 (payNat p.payload i n)
  if 14 ≤ p.home then (s, .done 4 [])
  else if p.ty = 1 ∨ p.ty = 6 then acc false (s.write ag a p.payload)
  else if p.ty = 2 then acc false (s.atomically ag a (atomicNew p.aux (w 0 8) (w 8 8)))
  else if p.ty = 3 then
    if p.aux < 0x40 then acc true (s.atomically ag a (atomicNew p.aux (w 0 8) (w 8 8)))
    else if p.aux = 0x45 then s.serveWatch p
    else match s.ringServe ag a (p.aux - 0x40) (w 0 8) (payNat p.payload 8 8) with
      | (s, .fail e) => (s, servedPerf e)
      | (s, r) => (s, .done 0 r.bytes)
  else if p.ty = 4 ∨ p.ty = 7 then acc true (if p.ty = 4 ∧ p.btag = 1 then s.readCode ag a (p.aux + 1) else s.read ag a (p.aux + 1))
  else if p.aux = 8 then acc false (s.write { ag with fills := true } a p.payload)
  else match s.slotCmd p.home p.asid p.offset p.ns p.aux p.payload started with
    | (s, .now b) => (s, .done 0 b)
    | (s, _) => (s, .later 8)

/-- The pieces of a pulled tile: its bytes in all, the offset in the dense copy, at most 244 bytes (log entry 33). -/
def cutRow (off : Nat) : Nat → List (BitVec 8) → List (Nat × List (BitVec 8))
  | 0, _ => []
  | n + 1, b => if b = [] then [] else (off, b.take 244) :: cutRow (off + 244) n (b.drop 244)

def tilePieces (rows : List (Nat × List (BitVec 8))) : List (List (BitVec 8)) :=
  let total := (rows.map (fun r => r.2.length)).sum
  (rows.flatMap (fun r => cutRow r.1 (r.2.length / 244 + 1) r.2)).map (fun x => leBytes 4 total ++ leBytes 8 x.1 ++ x.2)

/-- A pull request at the origin's home (R265): the rows of the tile, or the SEVER reason; `started`: it has been accepted before (R271). -/
def State.servePull (s : State) (p : Packet) (started : Bool) : State × Served :=
  let b := p.payload
  match s.pullAtOrigin p.home (payNat b 0 2) (BitVec.ofNat 64 (payNat b 4 8)) p.offset (payNat b 12 64)
      ((List.range 3).map (fun j => BitVec.ofNat 64 (payNat b (76 + 8 * j) 8))) (payNat b 2 2) 9 started with
  | (s, .error r) => if r = 0 then (s, .later 64) else (s.queue (p.back 9 r []), .done 0 [])
  | (s, .ok rows) => ((tilePieces rows).foldl (fun s x => s.queue (p.back 9 0 x)) s, .done 0 [])

/-- The cycles of a read or an atomic at a home, as from its own facet (R126, R458; log entry 86). -/
def memCycles (home : Nat) : Nat := if home < 8 then 180 else 300

/-- The end of a request: a batch counts it, or it is answered (R376, R382, R384). -/
def State.endRequest (s : State) (p : Packet) (status : Nat) (b : List (BitVec 8)) : State :=
  if p.ty = 1 ∨ (p.ty = 2 ∧ p.token = 0) then
    let n := if p.ty = 2 then 8 else p.payload.length
    let s := match s.windowOf (flowKey p) with
      | some w => if w.epoch ≠ p.epoch then s else s.setWindow (
          if status = 0 then { w with done := w.done.set 0 p.btag (w.done.get 0 p.btag + n) }
          else { w with err := w.err.set 0 p.btag (w.err.get 0 p.btag ||| errClass status) })
      | none => s
    s.applied p 0 0
  else if p.ty = 2 ∨ p.ty = 6 then s.applied p p.token status (if status = 0 then [] else b)
  else if p.ty = 8 ∨ p.token = 0 then s.applied p 0 0
  else (s.queueIn (if p.ty = 3 ∨ p.ty = 4 ∨ p.ty = 7 then memCycles p.home else 0) (p.back 5 status b)).applied p 0 0

/-! ### A facet's home -/

def State.updReqs (s : State) (f : Nat) (u : List Incoming → List Incoming) : State := s.updFacet f (fun x => { x with reqQ := u x.reqQ })

/-- Writes of one flow to one home are applied in FSEQ order (R372). -/
def ordered (p : Packet) : Bool := decide (p.ty = 1 ∨ p.ty = 2 ∨ p.ty = 6)

def State.inOrder (s : State) (f : Nat) (p : Packet) : Bool :=
  !ordered p || ((match s.windowOf (flowKey p) with | some w => decide (w.epoch ≠ p.epoch) || w.whole p.fseq | none => true)
    && (s.facet f).reqQ.all (fun e => !(ordered e.packet && sameFlow e.packet p && decide (e.packet.epoch = p.epoch) && decide (e.packet.home = p.home)
      && decide (e.packet.fseq ≠ p.fseq) && decide (seqDist p.fseq e.packet.fseq < 2 ^ 31))))

/-- Is a request due: its time has come, or the value that it watches for? -/
def State.reqDue (s : State) (f : Nat) (e : Incoming) : Bool :=
  (decide (e.nextAt ≤ s.cycle) || (decide (e.packet.aux = 0x45) && decide (e.packet.ty = 3)
    && s.watches.any (fun w => decide (w.who = remoteWatcher e.packet) && w.met))) && s.inOrder f e.packet

/-- A request that installs a link: it goes before what else reaches the home in its cycle (R262, R271). -/
def Packet.installs (p : Packet) : Bool := decide (p.ty = 12) && decide (p.aux = 1)

def State.dueReq (s : State) (f : Nat) : Option Incoming :=
  let l := (s.facet f).reqQ
  (l.find? (fun e => e.packet.installs && s.reqDue f e)).or (l.find? (s.reqDue f))

def Incoming.is (e x : Incoming) : Bool := samePacket e.packet x.packet && decide (e.packet.token = x.packet.token)

/-- A request has failed or been performed: it leaves the home's queue. -/
def State.leaveHome (s : State) (f : Nat) (e : Incoming) (status : Nat) (b : List (BitVec 8)) : State :=
  (s.updReqs f (fun l => l.filter (fun x => !e.is x))).endRequest e.packet status b

/-- The limit of a SIGW has run out at its package (log entry 33): once everything its flow sent before has come, the request is answered with the value as it stands,
unless the signal has been given. -/
def State.endWatch (s : State) (p : Packet) : State × Served :=
  let who := (2 ^ 40 + p.spkg, payNat p.payload 0 8)
  let waits := (s.facet p.place).reqQ.find? (fun e => decide (e.packet.ty = 3) && decide (e.packet.aux = 0x45) && decide (remoteWatcher e.packet = who))
  if !(match s.windowOf (flowKey p) with | some w => decide (w.epoch ≠ p.epoch) || w.whole p.fseq | none => true) then (s, .later 8)
  else match waits, s.watches.find? (fun w => decide (w.who = who)) with
    | none, _ => (s, .done 0 [])
    | some _, none => (s, .later 8)
    | some e, some w =>
      if w.met then (s, .done 0 [])
      else ((s.unwatch who).leaveHome p.place e 0 (leBytes 1 0 ++ leBytes 8 (leNat (s.bytesAt w.key 8))), .done 0 [])

/-- One request is tried at its home. -/
def State.tryRequest (s : State) (f : Nat) (e : Incoming) : State :=
  let p := e.packet
  let put (s : State) (x : Incoming) : State := s.updReqs f (fun l => l.map (fun y => if e.is y then x else y))
  -- a home whose answer would find no room in its send queue stalls (R371)
  if s.fabric.backlog.get [] p.spkg ≠ [] then put s { e with nextAt := s.cycle + 1 }
  else match (if p.ty = 8 ∧ p.home < 8 then s.servePull p e.started else if p.ty = 3 ∧ p.aux = 0x46 then s.endWatch p else s.serve p e.started) with
  | (s, .done st b) => s.leaveHome f e st b
  | (s, .later n) => put s { e with nextAt := s.cycle + n, since := none, started := true }
  | (s, .walk t) => put s { e with nextAt := max t (s.cycle + 1) }
  | (s, .watch) => put s { e with nextAt := never }
  | (s, .stall b) => put s { e with nextAt := s.cycle + 1, since := some (e.since.getD s.cycle), report := b }

/-- HOME_REQUEST (R121, R372): the first request that is due; at the hub, its own writes and the counter trees go on too (R334). -/
def execHomeRequest (f : Nat) (s : State) : Host.Outcome State Fault Refusal :=
  .next (
    let s := if f = 8 then s.pump.climb.runInvals else s
    match s.dueReq f with
    | some e => s.tryRequest f e
    | none => s)

/-- TLB_WALK (R121): the first walk whose reads are done fills the TLB; the requests that wait for it go on in this cycle. One that finds nothing to cache is kept for them
(log entry 86). -/
def execTlbWalk (f : Nat) (s : State) : Host.Outcome State Fault Refusal :=
  .next (match (s.facet f).walks.find? (fun w => decide (w.doneAt ≤ s.cycle)) with
    | none => s
    | some w =>
      let s := s.updFacet f (fun x => { x with walks := x.walks.filter (fun y => decide (y ≠ w)) })
      let s := (s.translate f w.asid (w.page * 65536) false .load).1
      if (s.tlbFind f w.asid (w.page * 65536)).isSome then s
      else s.updFacet f (fun x => { x with blanks := w :: x.blanks.filter (fun y => decide (s.cycle ≤ y.doneAt + 64)) }))

/-- The requests that wait at a home are tried at once: a link or a page no longer holds them. -/
def State.wakeHome (s : State) (f : Nat) : State :=
  s.updReqs f (fun l => l.map (fun e => { e with nextAt := if e.nextAt = never then never else min e.nextAt s.cycle }))

/-! ### Stalls, links and leases (R262 to R266) -/

/-- Has a request of another package been stalled past its issuer's STALLMAX (R264)? -/
def State.stalledReq (s : State) (f : Nat) : Option Incoming :=
  (s.facet f).reqQ.find? (fun e => match e.since with
    | some t => decide (e.packet.stallmax ≠ 0) && decide (t + e.packet.stallmax < s.cycle)
    | none => false)

/-- A quadrant of this package whose store or atomic is stalled at the facet past its task's STALLMAX, and whether it heads the store queue. -/
def State.stalledQuad (s : State) (f : Nat) : Option ((Nat × Nat) × Bool) :=
  s.cores.cells.findSome? (fun (c, k) => (quadsIn c).findSome? (fun u =>
    let q := k.quad u
    let lim := (s.task (s.taskAt c)).stallmax
    let head (stores : Bool) : Option (Nat × Nat) :=
      match q.memSince stores, (q.headOf stores).bind (fun i => q.memQ[i]?) with
      | some t, some e => if homeOf e.addr = f ∧ !s.isRemote e.addr ∧ lim ≠ 0 ∧ t + lim < s.cycle ∧ k.task.isSome ∧ e.need ≠ .load then some (c, u) else none
      | _, _ => none
    ((head true).map (fun x => (x, true))).or ((head false).map (fun x => (x, false)))))

/-- STALL_TIMEOUT (R264): discarded and reported in its batch, or PROT reason 7. -/
def execStallTimeout (f : Nat) (s : State) : Host.Outcome State Fault Refusal :=
  .next (match s.stalledReq f with
    | some e => s.leaveHome f e 7 e.report
    | none =>
      match s.stalledQuad f with
      | some ((c, u), stores) => (s.at_ c u).memTurn stores
      | none => s)

/-- LEASE_RENEWAL (R266): the links of a facet's LIVE slots are renewed every millisecond. -/
def State.renewSlot (s : State) (f k : Nat) : State :=
  let x := s.slot f k
  let s := s.updSlot f k (fun x => { x with renewAt := s.time + 1000000 })
  let dead (s : State) (r : Nat) : State := if r = 0 then s else s.sever f x.asid (offOf x.addr) x.ns k r
  if pkgOf x.obase = s.pkg then match s.renewLink (homeOf x.obase) x.link x.addr with | (s, r) => dead s r
  else if s.unreachable (pkgOf x.obase) then dead (s.event (.unreachable (pkgOf x.obase))) 3
  else
    let p := s.packetTo (homeAgent s f x.asid x.ns) 12 x.obase 0 0 (renewBase + k * 8 + f) (leBytes 2 x.link ++ leBytes 8 x.addr.toNat)
    s.emit p

/-- The LIVE slots of a facet whose renewal is due. -/
def State.renewals (s : State) (f : Nat) : List Nat :=
  ((s.facet f).slots.cells.filter (fun x => decide (x.2.st = .live) && decide (x.2.renewAt ≤ s.time))).map Prod.fst

def execLeaseRenewal (f : Nat) (s : State) : Host.Outcome State Fault Refusal :=
  .next ((s.renewals f).foldl (fun s k => s.renewSlot f k) s)

/-- LINK_EXPIRY (R266): LAGE has reached 8,000. -/
def execLinkExpiry (f l : Nat) (s : State) : Host.Outcome State Fault Refusal :=
  .next (
    let x := (s.facet f).links.get {} l
    if !x.v ∨ s.time < x.renewed + 8000000 then s
    else (s.updFacet f (fun y => { y with links := y.links.set {} l { x with v := false } })).wakeHome f)

/-- LINK_RELEASE (R262). -/
def execLinkRelease (f l : Nat) (s : State) : Host.Outcome State Fault Refusal :=
  .next ((s.updFacet f (fun y => { y with links := y.links.set {} l {} })).wakeHome f)

/-- A piece of a pulled tile arrives at the receiver's home (R265); one that nothing waits for is ignored. -/
def State.pullData (s : State) (p : Packet) : State :=
  let f := p.token % 8
  let tile := p.token / 8 % 2 ^ 14
  let k := p.token / 2 ^ 17
  let x := s.slot f k
  let base := offOf x.addr
  if x.st ≠ .live ∨ pkgOf x.obase ≠ p.spkg ∨ bits x.asked tile 1 = 0 ∨ bits x.bitmap tile 1 = 1 then s
  else if p.aux ≠ 0 then s.sever f x.asid base x.ns k p.aux
  else
    let parts := x.parts ++ [(tile, payNat p.payload 4 8, p.payload.drop 12)]
    let mine := parts.filter (fun y => decide (y.1 = tile))
    if (mine.map (fun y => y.2.2.length)).sum < payNat p.payload 0 4 then s.updSlot f k (fun x => { x with parts := parts })
    else
      let s := s.updSlot f k (fun x => { x with parts := parts.filter (fun y => decide (y.1 ≠ tile)) })
      s.tileArrives f x.asid base x.ns k tile (mine.map (fun y => (y.2.1, y.2.2)))

/-! ### Receiving (R372, R375, R376) -/

/-- A request from another package, if it is not a duplicate, goes to its home (R377, R378). -/
def State.request (s : State) (p : Packet) : State :=
  match Window.judge (s.windowOf (flowKey p)) p with
  | .old => s.acknowledge p 0 0
  | .again w =>
    let x := ((w.failed.find? (fun x => decide (x.1 = p.fseq))).map Prod.snd).getD (0, [])
    (s.setWindow w).acknowledge p (if w.isApplied p.fseq && p.byAck then p.token else 0) x.1 x.2
  | .fresh w =>
    let s := s.setWindow w
    if p.ty = 10 then s.updFabric (fun f => { f with questions := f.questions ++ [p] })
    else s.updReqs p.place (fun l => l ++ [{ packet := p, nextAt := s.cycle }])

/-- A cumulative acknowledgement (R376, R378); it answers the request of its token with its status. An atomic that waits for its answer counts as acknowledged with it; a copy or matrix write
is over with any that covers it (R434). -/
def State.acked (s : State) (a : Packet) : State :=
  let key := flowKey { a with spkg := s.pkg, dpkg := a.spkg }
  let f := s.flow key
  let isOver (u : Unacked) : Bool :=
    decide (u.p.epoch = a.epoch)
      && ((u.p.byAck && decide (u.p.token = a.token)) || ((!u.p.byAck || decide (u.p.ty = 6)) && decide (seqDist a.fseq u.p.fseq < 2 ^ 31)))
  let gone := f.unacked.filter isOver
  let s := if gone ≠ [] then s.setFlow key { f with unacked := f.unacked.filter (fun u => !isOver u) } else s
  let s := gone.foldl (fun s u => if u.p.byAck ∧ u.p.token ≠ a.token then s.deliver u.p.token { status := 0, bytes := [] } else s) s
  let s := if a.token ≠ 0 then s.deliver a.token { status := a.aux, bytes := a.payload } else s
  (s.refill a.spkg).lateEpochs

/-- Read data, or the answer to a command (R372); a renewal's severs its slot. -/
def State.answered (s : State) (p : Packet) : State :=
  if renewBase ≤ p.token then
    let f := p.token % 8
    let k := (p.token - renewBase) / 8
    let x := s.slot f k
    let r := payNat p.payload 0 1
    if r ≠ 0 ∧ x.st = .live then s.sever f x.asid (offOf x.addr) x.ns k r else s
  else s.deliver p.token { status := p.aux, bytes := p.payload }

/-- A summary is merged; the last one closes the batch (R384). -/
def State.summed (s : State) (p : Packet) : State :=
  let err := payNat p.payload 0 2
  let n := payNat p.payload 2 8
  s.updBatch p (fun b =>
    if b.st ≠ .closing ∨ !b.waiting.contains p.spkg then b
    else ({ b with
      waiting := b.waiting.filter (fun x => decide (x ≠ p.spkg))
      err := b.err ||| err ||| (if 0xFFFFF < b.done + n then 2 ^ 15 else 0)
      badPeers := if err = 0 then b.badPeers else b.badPeers ||| 2 ^ p.spkg
      done := min 0xFFFFF (b.done + n) } : Batch).settle)

/-- Link control: 0 an acknowledgement with buffers, 1 a replay request (log entry 33). -/
def State.linkControl (s : State) (p : Packet) : State :=
  let c := payNat p.payload 0 2
  if p.aux = 1 then s.replayFrom c (payNat p.payload 2 1) else (s.linkAcked c (payNat p.payload 2 1)).creditBack c (payNat p.payload 3 1)

/-- Link control for the circuit of a packet: AUX 0 or 1, an LSEQ, and the buffers that come back. -/
def Packet.link (p : Packet) (aux lseq credits : Nat) : Packet := { p.back 15 aux (leBytes 2 p.via ++ leBytes 1 lseq ++ leBytes 1 credits) with token := 0, sunit := 15 }

/-- The circuit that a packet came in on. -/
def Packet.lane (p : Packet) : Nat := p.spkg * 2 ^ 16 + p.via

/-- What the receiver of a circuit does with a packet (R375): it is taken in, and acknowledged, in the order of LSEQ; from one that is damaged on, every packet is sent again, and those that come in
between are not taken; one that has been taken already is acknowledged again. -/
def State.linkTakes (s : State) (p : Packet) : State × Bool :=
  let want := s.fabric.expect.get 0 p.lane
  let ask (s : State) : State := s.queue (p.link 1 want 0)
  if p.damaged then (if p.lseq = want then ask s else s, false)
  else if p.lseq = want then ((s.updFabric (fun f => { f with expect := f.expect.set 0 p.lane ((want + 1) % 256) })).queue (p.link 0 want 1), true)
  else if (want + 256 - p.lseq) % 256 ≤ 64 then (s.queue (p.link 0 ((want + 255) % 256) 0), false)
  else (ask s, false)

/-- The packet that is due first of what has come in. -/
def State.nextArrival (s : State) : Option Packet :=
  match s.fabric.arrivals with
  | [] => none
  | p :: r => some (r.foldl (fun p q => if q.dueIn < p.dueIn then q else p) p)

/-- It is received. -/
def State.receive (s : State) : State :=
  match s.nextArrival with
  | none => s
  | some p =>
    let s := s.updFabric (fun f => { f with arrivals := f.arrivals.erase p })
    match (if isLinkControl p then (s, !p.damaged) else s.linkTakes p) with
    | (s, false) => s
    | (s, true) =>
      if p.ty = 5 then s.answered p
      else if p.ty = 9 then s.pullData p
      else if p.ty = 11 then s.summed p
      else if p.ty = 13 then s.unitsBack p.spkg (payNat p.payload 0 2) (payNat p.payload 2 2)
      else if p.ty = 14 then s.acked p
      else if p.ty = 15 then s.linkControl p
      else if p.ty = 0 ∨ 16 ≤ p.ty then { s with hub := { s.hub with fabdrop := min 0xFFFFFFFF (s.hub.fabdrop + 1) } }
      else s.request p

def State.headIs (s : State) (ty : Nat) : Bool := s.nextArrival.any (fun p => decide (p.ty = ty))

/-- PACKET_RECEIVE. -/
def execPacketReceive (s : State) : Host.Outcome State Fault Refusal := .next s.receive
/-- E2E_ACKNOWLEDGEMENT: the packet that has come in is one (R376). -/
def execE2eAcknowledgement (s : State) : Host.Outcome State Fault Refusal := .next (if s.headIs 14 then s.receive else s)
/-- SUMMARY_REPLY (R384). -/
def execSummaryReply (s : State) : Host.Outcome State Fault Refusal := .next (if s.headIs 11 then s.receive else s)
/-- PULL_DATA_ARRIVAL (R265) at the facet that it is for. -/
def execPullDataArrival (f : Nat) (s : State) : Host.Outcome State Fault Refusal :=
  .next (if s.nextArrival.any (fun p => decide (p.ty = 9) && decide (p.token % 8 = f)) then s.receive else s)

/-- Have the stores and atomics of a batch that come before its summary request been applied, or failed (R384)? -/
def State.summable (s : State) (p : Packet) : Bool :=
  (match s.windowOf (flowKey p) with | some w => decide (w.epoch ≠ p.epoch) || w.whole p.fseq | none => true)
    && (List.range 9).all (fun f => (s.facet f).reqQ.all (fun e => !(decide (e.packet.ty = 1 ∨ e.packet.ty = 2) && sameFlow e.packet p
      && decide (e.packet.epoch = p.epoch) && decide (e.packet.btag = p.btag) && decide (seqDist p.fseq e.packet.fseq < 2 ^ 31))))

def State.question (s : State) : Option Packet := s.fabric.questions.find? s.summable

/-- SUMMARY_REQUEST (R384): the error map and the bytes applied, which it clears. -/
def execSummaryRequest (s : State) : Host.Outcome State Fault Refusal :=
  .next (match s.question with
    | none => s
    | some p =>
      let w := (s.windowOf (flowKey p)).getD { key := flowKey p, epoch := p.epoch }
      let s := s.updFabric (fun f => { f with questions := f.questions.filter (fun x => !samePacket x p) })
      let s := s.queue (p.back 11 0 (leBytes 2 (w.err.get 0 p.btag) ++ leBytes 8 (w.done.get 0 p.btag)))
      (s.setWindow { w with err := w.err.set 0 p.btag 0, done := w.done.set 0 p.btag 0 }).applied p 0 0)

end Sys2Proof.Machine
end

