-- ==== Sys2Proof/Machine/Fetch.lean ====
section
/-! DEFINITION. Fetching and decoding the next word of a quadrant: loop buffer and instruction cache (R37, R99), the dictionary
(R52 to R56), displaced patterns (R397), and the words that a unit may not execute (R72, R295, R296, R414). -/

namespace Sys2Proof.Machine

/-! ### Words from memory -/

/-- A fetch that the home refuses: EPC and EINFO3 hold the fetch address (R124). -/
def State.fetchFail (s : State) (a : Word) (r : Perf) : State :=
  match r with
  | .trap c e0 e1 e2 => s.trap c a e0 e1 e2 a
  | x => s.splitFail x

/-- The word at `a` through the instruction cache. A word that has changed since it was cached may be fetched old or new (R37); IFLUSH drops it. Log entry 2: the choice
is free for a cached word of this package; a cached word of another package is fetched as it was cached, and a word that this quadrant has not yet fetched is fetched new. -/
def State.cachedWord (s : State) (a : Word) : State × Option Nat :=
  let c := s.me.icache.get 0 a.toNat
  let ag := { s.agent with instant := decide (c ≠ 0) }
  let keep (s : State) (w : Nat) : State × Option Nat :=
    (s.updMe (fun q => { q with icache := q.icache.set 0 a.toNat (w + 1) }), some w)
  if s.isRemote a && s.feat 6 then
    if c ≠ 0 then (s, some (c - 1))
    else match s.askSplit ag 7 a 4 (fun s r => s.fetchFail a r) with
      | (s, some b) => keep s (leNat b)
      | (s, none) => (s, none)
  else
    match s.accept ag a 4 .fetch with
    | (⟨s', .ok _⟩, key) =>
      let w := leNat (s.bytesAt key 4)
      if c = 0 then keep ((s'.checkKey key).count key ag.asid (requester s ag)) w
      else if c = w + 1 then (s, some w)
      else if Config.fetchOld s.draws then (s.drawn, some (c - 1))
      else keep s'.drawn w
    | (⟨s', r⟩, _) =>
      if c ≠ 0 then
        if Config.fetchOld s.draws then (s.drawn, some (c - 1)) else (s'.drawn.fetchFail a (perfOf ag.asid 7 0 a r), none)
      else (s'.fetchFail a (perfOf ag.asid 7 0 a r), none)

/-- Every active level whose body holds the address keeps the word in its buffer, as first fetched. -/
def Loop.keep (a : Word) (w : Nat) (l : Loop) : Loop :=
  if inBody l a && decide (l.buf.get 0 a.toNat = 0) then { l with buf := l.buf.set 0 a.toNat (w + 1) } else l

/-- The word at `a`: an active body is replayed from its loop buffer, which keeps the words as first fetched (R99); an outer level keeps those of the levels inside it too. -/
def State.wordAt (s : State) (a : Word) : State × Option Nat :=
  let keep (s : State) (w : Nat) : State × Option Nat := (s.updMe (fun q => { q with loops := q.loops.map (Loop.keep a w) }), some w)
  match s.me.loops.find? (fun l => inBody l a && decide (l.buf.get 0 a.toNat ≠ 0)) with
  | some l => keep s (l.buf.get 0 a.toNat - 1)
  | none =>
    match s.cachedWord a with
    | (s, none) => (s, none)
    | (s, some w) => keep s w

/-! ### What a unit may execute -/

/-- The subset of a tile-walk engine (R296): its words, registers 0 to 15, channel 0, no guard. -/
def walkOk : Instr → Bool
  | .nop | .nsetImm .. | .loop .. | .qbindLabel .. | .role .. | .tbar | .stwt .. | .tend => true
  | .addi d _ a _ => decide (d.toNat < 16) && decide (a.toNat < 16)
  | .li d _ | .lih d _ | .qres d _ _ | .qacq d _ _ | .teamid d => decide (d.toNat < 16)
  | .nsetReg _ a b => decide (a.toNat < 16) && decide (b.toNat < 16)
  | .loopReg a _ | .twall a _ | .twany a _ | .tclr a | .qbindReg _ a | .qcmt a _ | .qrel a _ | .hand a _ _ => decide (a.toNat < 16)
  | .loopn _ _ f c => decide (f.toNat + c.toNat ≤ 16)
  | .br p n _ => decide (p = 0) && decide (n = 0)
  | .cpy c d a b => decide (c = 0) && decide (d.toNat < 16) && decide (a.toNat < 16) && decide (b.toNat < 16)
  | .cpyLong c d a b .. => decide (c = 0) && decide (d.toNat < 16) && decide (a.toNat < 16) && decide (b.toNat < 16)
  | .cpyn c d a r _ => decide (c = 0) && decide (d.toNat < 16) && decide (a.toNat < 16) && decide (r.toNat < 16)
  | .cpynLong c d a r _ _ tag _ _ _ _ _ mc =>
    decide (c = 0) && decide (d.toNat < 16) && decide (a.toNat < 16) && decide (r.toNat < 16)
      && (decide (mc = 0) || decide (tag.toNat < 16))
  | .chain c a => decide (c = 0) && decide (a.toNat < 16)
  | .drain c _ _ => decide (c = 0)
  | .pull h a b n => decide (h = 0) && decide (a.toNat < 16) && decide (b.toNat < 16) && decide (n.toNat < 16)
  | .pullLong h a b n .. => decide (h = 0) && decide (a.toNat < 16) && decide (b.toNat < 16) && decide (n.toNat < 16)
  | _ => false

/-- Features and grants that a word needs (R366, R414). -/
def State.allowed (s : State) (i : Instr) : Bool :=
  match i with
  | .dictionaryWord .. | .dload _ => s.feat 0
  | .mnb .. => s.feat 2
  | .send .. | .drop .. | .pqry .. | .pull .. | .pullLong .. => s.feat 3
  | .slotw .. => (s.ctx s.myTask.ctx).svg
  | _ => true

def State.permitted (s : State) (i : Instr) : Bool := s.allowed i && (!isWalk s.cur.core || walkOk i)

/-! ### Dictionary words (R52 to R56) -/

/-- Do two bit ranges meet? -/
def overlaps (p w p' w' : Nat) : Bool := decide (p < p' + w') && decide (p' < p + w)

/-- The holes filled in hole order (R54): the pattern, the payload bits used and the ranges taken; `none` where a hole is illegal. -/
def fillHoles (payload : Nat) : List (Nat × Nat) → Nat → Nat → List (Nat × Nat) → Option (Nat × Nat)
  | [], inst, used, _ => some (inst, used)
  | (w, pos) :: r, inst, used, taken =>
    if w = 0 then fillHoles payload r inst used taken
    else if 64 < pos + w ∨ 21 < used + w ∨ taken.any (fun t => overlaps pos w t.1 t.2) then none
    else
      let cleared := inst - bits inst pos w * 2 ^ pos
      fillHoles payload r (cleared + bits payload used w * 2 ^ pos) (used + w) ((pos, w) :: taken)

/-- Expansion (R54): the instruction's pattern, or the pattern that ILL 0x0A reports. -/
def expand (e : BitVec 128) (payload : Nat) : Except Nat Nat :=
  let x := e.toNat
  let pat := bits x 0 64
  let hole (h : Nat) : Nat × Nat := (bits x (64 + 12 * h + 6) 6, bits x (64 + 12 * h) 6)
  if bits x 113 15 ≠ 0 then .error pat
  else match fillHoles payload [hole 0, hole 1, hole 2, hole 3] pat 0 [] with
    | none => .error pat
    | some (inst, used) =>
      if used < 21 ∧ payload / 2 ^ used ≠ 0 then .error pat
      else if bits inst 29 3 = 7 ∨ (inst / 2 ^ 32 = 0 ∧ bits inst 29 3 = 6) then .error inst
      else match decodePattern inst with
        | .illegal _ => .error inst
        | .instr _ => .ok inst

/-- The entry that a dictionary word expands from: between a DLOAD and the quadrant's DFENCE the old or the new one (R56, log entry 3). -/
def State.dictEntry (s : State) (i : Nat) : State × BitVec 128 :=
  let k := s.myCore
  let new := k.dict.get 0 i
  let old := k.dictPrev.get 0 i
  if s.me.dictStale ∧ old ≠ new then (s.drawn, if Config.dictOld s.draws then old else new) else (s, new)

/-- A dictionary word (R54, R55): the expanded instruction is steered next, as if fetched at the same address. -/
def execDictionaryWord (i : BitVec 8) (p : BitVec 21) (s : State) : Host.Outcome State Fault Refusal :=
  .next (
    let word := BitVec.ofNat 64 (7 * 2 ^ 29 + i.toNat * 2 ^ 21 + p.toNat)
    match s.dictEntry i.toNat with
    | (s, e) =>
      if e.getLsbD 112 = false then s.issue {} (fun s => s.trap causeDICTU s.me.pc (zext64 i) word 0 0)
      else match expand e p.toNat with
        | .error pat => s.issue {} (fun s => s.trap causeILL s.me.pc 0x0A (BitVec.ofNat 64 pat) (zext64 i) 0)
        | .ok inst => s.updMe (fun q => { q with inject := some (inst, some i.toNat) }))

/-! ### The next instruction of a quadrant -/

/-- The pattern at the program counter, and the words it takes: the expanded or displaced one, or the words in memory (R50, R397). -/
def State.patternAtPc (s : State) : State × Option (Nat × Nat) :=
  match s.me.inject with
  | some (p, i) => (s, some (p, if i.isNone ∧ bits p 29 3 = 6 then 8 else 4))
  | none =>
    match s.wordAt s.me.pc with
    | (s, none) => (s, none)
    | (s, some w) =>
      if bits w 29 3 ≠ 6 then (s, some (w, 4))
      else match s.wordAt (s.me.pc + 4) with
        | (s, none) => (s, none)
        | (s, some h) => (s, some (w + 2 ^ 32 * h, 8))

/-- Does a member's word count hold its fetch back (R295)? -/
def State.drifts (s : State) : Bool :=
  let t := s.myTask
  let q := s.me
  t.team && (t.cores ++ t.walks).any (fun c => (List.range (if isWalk c then 1 else 4)).any (fun u =>
    let x := s.quadOf c u
    !x.idle && !x.ended && decide (x.member.role = q.member.role) && decide (x.words + 4096 < q.words)))

/-- The instruction to execute next, or `none` where the fetch has waited, trapped or been suspended. -/
def State.fetchInstr (s : State) : State × Option Instr :=
  if s.drifts then (s.poll, none)
  else match s.patternAtPc with
    | (s, none) => (s, none)
    | (s, some (p, len)) =>
      let s := s.updMe (fun q => { q with inst := p, wlen := len })
      match decodePattern p with
      | .illegal sub => (s, some (.illegalEncoding (BitVec.ofNat 8 sub)))
      | .instr i => (s, some (if s.permitted i then i else .illegalEncoding 0x0C))

/-! ### A word placed where the next fetch reads it -/

/-- The first byte of the scratchpad of the core (R24, R25). -/
def codeBase : Word := 0x03C0000000000000

/-- Core 0 of a powered package runs a plain task of context slot 0, with bank 0 granted and quadrant 0 at the start of its scratchpad. -/
def State.readyCore (s : State) : State :=
  let q : Quad := { (s.quadOf 0 0) with
    idle := false, ended := false, pc := codeBase, cyc := s.cycle, inject := none, loops := [], icache := Tab.empty, wait := none }
  let k := s.core 0
  let s := { s with
    agenda := [], cur := {}, powered := true, nextTask := max s.nextTask 2
    hub := { s.hub with booted := true, featoff := 0xFF, featacc := 0xFF, featDone := true } }
  let s := s.updTask 1 (fun t => { t with st := .running, ctx := 0, cores := [0] })
  let s := s.updCtx 0 (fun c => { c with en := true, svg := true })
  s.setCore 0 { k with q0 := q, task := some 1, banks := k.banks.set {} 0 { st := .held, task := 1 }, frozen := false, eccFreeze := 0 }

/-- The bytes of a word at the start of core 0's scratchpad, to the length of the longest instruction. -/
def State.placeWord (s : State) (nbits w : Nat) : State :=
  let x := w % 2 ^ nbits
  let s := s.readyCore.setBytes (spadKey 0 0) (leBytes 8 x)
  match (decodeBytes (leBytes 8 x)).1, decodeHart x with
  | .illegal _, some _ => s.updHart 0 (fun h => { h with port := some x })
  | _, _ => s

end Sys2Proof.Machine
end

