-- ==== Sys2Proof/Machine/Supervisor.lean ====
section
/-! DEFINITION. What the supervisor, the debugger and the module do: pages (R125, R132, R408), notifications (R131), tasks, contexts and cores
(R313, R338, R358, R407), submission queues (R327, R332), features (R414), registers under their access codes (R4), boot and power (R412, R415). -/

namespace Sys2Proof.Machine

def State.updHub (s : State) (u : Hub → Hub) : State := { s with hub := u s.hub }

/-! ### Pages (R125, R132) -/

/-- The memory key of the leaf entry of an offset (R122). -/
def State.leafAt (s : State) (root off shift : Nat) : Nat :=
  let e1 := entryKey (s.entryAt root (off / 2 ^ 39))
  if shift = 30 then e1 + 8 * (off / 2 ^ 30 % 512)
  else
    let e2 := entryKey (s.entryAt e1 (off / 2 ^ 30 % 512))
    if shift = 21 then e2 + 8 * (off / 2 ^ 21 % 512)
    else entryKey (s.entryAt e2 (off / 2 ^ 21 % 512)) + 8 * (off / 2 ^ 16 % 32)

/-- The bytes of a range of memory become what an unlisted byte reads as. -/
def State.clearRange (s : State) (key n : Nat) : State :=
  { s with mem := ⟨s.mem.cells.filter (fun c => decide (c.1 < key) || decide (key + n ≤ c.1))⟩ }

/-- The bytes of one range replace those of another. -/
def State.copyRange (s : State) (src dst n : Nat) : State :=
  (s.mem.cells.filter (fun c => decide (src ≤ c.1) && decide (c.1 < src + n))).foldl (fun s c => s.setByte (c.1 - src + dst) c.2) (s.clearRange dst n)

/-- The tasks that wait for a page are told that it has come; so are those that wait for a tile whose origin lies on the facet. -/
def State.tellTasks (s : State) (f asid off shift : Nat) : State :=
  let hit (x : Task) : Bool := match x.waitFor with
    | .page g a o => decide (g = f) && decide (a = asid) && decide (o / 2 ^ shift = off / 2 ^ shift)
    | .tile g k => let y := s.slot g k; decide (pkgOf y.obase = s.pkg) && decide (homeOf y.obase = f)
    | _ => false
  (s.tasks.cells.filter (fun t => hit t.2)).foldl (fun s t => s.updTask t.1 (fun x => { x with pageReady := true })) s

/-- PAGE_READY (R125): the page is present, zero-filled where PLS = 0, and what waits for it goes on. -/
def execPageReady (f : Nat) (asid : BitVec 16) (off : BitVec 54) (s : State) : Host.Outcome State Fault Refusal :=
  .next (
    match (s.rootOf f asid.toNat).bind (fun r => (s.walk r off.toNat).map (fun w => (r, w))) with
    | none => ((s.tellTasks f asid.toNat off.toNat 16).wakeTasks).wakeHome f
    | some (r, e, shift) =>
      let s := if e.getLsbD 7 ∧ bits e.toNat 8 2 = 0 then s.clearRange (entryKey e) (2 ^ shift) else s
      let s := if e.getLsbD 7 then s.poke (s.leafAt r off.toNat shift) (leBytes 8 (putField e 7 1 0).toNat) else s
      ((s.tellTasks f asid.toNat off.toNat shift).wakeTasks).wakeHome f)

/-- MIGRATE (R132): the engine of the facet copies the page to another frame; it copies one page at a time. -/
def execMigrate (f : Nat) (asid : BitVec 16) (off : BitVec 54) (ffac : Nat) (frame : BitVec 48) (s : State) : Host.Outcome State Fault Refusal :=
  .next (
    match (s.facet f).moving, (s.rootOf f asid.toNat).bind (fun r => s.walk r off.toNat) with
    | none, some (e, shift) =>
      if e.getLsbD 7 ∨ 8 ≤ ffac ∨ frame.toNat % 2 ^ shift ≠ 0 then s
      else s.updFacet f (fun x => { x with moving := some {
        asid := asid.toNat, page := off.toNat / 2 ^ shift, shift := shift, ffac := ffac, frame := frame.toNat, doneAt := s.cycle + 2 ^ shift / 128 } })
    | _, _ => s)

/-- The entry of the page as the copy leaves it. -/
def Migration.entry (m : Migration) (e : Word) : Word := putField e 12 40 (m.frame / 2 ^ 12 + m.ffac * 2 ^ 36)

/-- The page is copied; its watched locations and its TLB entries, one to a slice, follow it. -/
def State.movePage (s : State) (f : Nat) (m : Migration) (e : Word) : State :=
  let off := m.page * 2 ^ m.shift
  let src := entryKey e
  let dst := stackKey m.ffac m.frame
  let s := (s.checkKey (dst + 2 ^ m.shift - 1)).copyRange src dst (2 ^ m.shift)
  let s := { s with watches := s.watches.map (fun (w : Watch) => if src ≤ w.key ∧ w.key < src + 2 ^ m.shift then { w with key := w.key - src + dst } else w) }
  let new : TlbEntry := { asid := m.asid, page := m.page, shift := m.shift, entry := m.entry e, slice := tlbSlice f m.asid off }
  let s := s.updFacet f (fun x => { x with tlb := x.tlb.map (fun (y : TlbEntry) =>
    if y.asid = m.asid ∧ off / 2 ^ y.shift = y.page then { new with slice := y.slice } else y) })
  if (s.tlbFind f m.asid off).isSome then s else s.tlbFill f new

/-- The leaf entry that translates a page now. -/
def State.entryOf (s : State) (f asid off : Nat) : Option Word :=
  match s.tlbFind f asid off with
  | some e => some e.entry
  | none => ((s.rootOf f asid).bind (fun r => s.walk r off)).map Prod.fst

/-- MIGRATION_COMPLETE (R132): the TLB entry is replaced, and what was held goes on at the new frame. -/
def execMigrationComplete (f : Nat) (s : State) : Host.Outcome State Fault Refusal :=
  .next (match (s.facet f).moving with
    | none => s
    | some m =>
      let s := s.updFacet f (fun x => { x with moving := none })
      (match s.entryOf f m.asid (m.page * 2 ^ m.shift) with
        | some e => s.movePage f m e
        | none => s).wakeHome f)

/-- TLBINV (R408). -/
def State.tlbKeep (s : State) (f : Nat) (keep : TlbEntry → Bool) : State := s.updFacet f (fun x => { x with tlb := x.tlb.filter keep })
def execTlbinvPage (f : Nat) (asid : BitVec 16) (vpn : BitVec 38) (s : State) : Host.Outcome State Fault Refusal :=
  .next (s.tlbKeep f (fun e => !(decide (e.asid = asid.toNat) && decide (vpn.toNat * 65536 / 2 ^ e.shift = e.page))))
def execTlbinvAsid (f : Nat) (asid : BitVec 16) (s : State) : Host.Outcome State Fault Refusal :=
  .next (s.tlbKeep f (fun e => decide (e.asid ≠ asid.toNat)))
def execTlbinvAll (f : Nat) (s : State) : Host.Outcome State Fault Refusal := .next (s.tlbKeep f (fun _ => false))

/-! ### Access counters and notifications (R131) -/

/-- The flag and the ten counters of a region are cleared. -/
def Facet.clearRegion (x : Facet) (region : Nat) : Facet :=
  { x with
    queued := x.queued.set false region false
    counters := (List.range 10).foldl (fun m r => m.set 0 (region * 10 + r) 0) x.counters }

/-- MIGCLR: a region outside the facet's two stacks is ignored. -/
def execMigclr (f : Nat) (v : Word) (s : State) : Host.Outcome State Fault Refusal :=
  .next (if bits v.toNat 21 27 * 2 ^ 21 < stackBytes then s.updFacet f (fun x => x.clearRegion (bits v.toNat 21 27)) else s)

/-- NQHEAD: a head beyond TAIL, or more than 1,024 behind it, is ignored. -/
def execNqheadWrite (f : Nat) (v : Word) (s : State) : Host.Outcome State Fault Refusal :=
  .next (
    let h := v.toNat % 2 ^ 32
    if ((s.facet f).nqtail + 2 ^ 32 - h) % 2 ^ 32 ≤ 1024 then s.updFacet f (fun x => { x with nqhead := h }) else s)

/-! ### Tasks, contexts and cores (R313, R338, R358) -/

/-- TASK_KILL (R313); a recording of its launch ends (R343). -/
def execTaskKill (task : Nat) (s : State) : Host.Outcome State Fault Refusal :=
  .next (
    let x := s.task task
    if x.st = .done ∨ x.st = .killed then s
    else (x.cores.foldl State.promote (((s.abortRecord x.launch).killTask task))).checkPreempted x.ctx)

/-- The tasks of a context, as a condition picks them. -/
def State.tasksOf (s : State) (cx : Nat) (p : Task → Bool) : List Nat :=
  (s.tasks.cells.filter (fun t => decide (t.2.ctx = cx) && p t.2)).map Prod.fst

/-- The preloads of a context are cancelled. -/
def State.cancelPreloads (s : State) (cx : Nat) : State :=
  (s.cores.keys.filter (fun c => match (s.core c).preload with | some t => decide ((s.task t).ctx = cx) | none => false)).foldl State.cancelPreload s

/-- PREEMPT.REQ := 1 (R358): every running task is saved with cause 0xFF; recordings end (R343). -/
def execPreempt (c : Nat) (s : State) : Host.Outcome State Fault Refusal :=
  .next (
    let s := (s.updCtx c (fun x => { x with preReq := true, preDone := false })).cancelPreloads c
    let recs := (s.launches.cells.filter (fun l => decide (l.2.ctx = c) && l.2.active)).map Prod.fst
    let s := recs.foldl State.abortRecord s
    ((s.tasksOf c (fun t => decide (t.st = .running))).foldl (fun s t => s.beginStop t 0xFF) s).checkPreempted c)

/-- PREEMPT.REQ := 0 (R358): the context's tasks are placed again. -/
def execResumeContext (c : Nat) (s : State) : Host.Outcome State Fault Refusal :=
  .next (s.updCtx c (fun x => { x with preReq := false, preDone := false }))

/-- What going offline does to a core (R338): its preload is cancelled, banks parked there are saved; those that a copy pins, or a frame that waits, when the
dispatcher finds them. -/
def State.takeOffline (s : State) (c : Nat) : State :=
  let s := s.cancelPreload c
  s.saveParked c ((((List.range 8).filterMap (fun b => s.bankParked c b)).eraseDups).filter (fun t => !s.frameWaits t))

/-- COREOFFk (R338). -/
def execCoreoffWrite (f k : Nat) (v : Word) (s : State) : Host.Outcome State Fault Refusal :=
  .next (
    let new := v &&& ~~~((s.facet f).coreoff.get 0 k)
    let s := s.updFacet f (fun x => { x with coreoff := x.coreoff.set 0 k v })
    ((List.range 64).filter (fun i => new.getLsbD i)).foldl (fun s i => s.takeOffline (192 * f + 64 * k + i)) s)

/-- LOCINV and LOCINVA (R407). -/
def State.askInval (s : State) (c : Nat) (hash : Option Nat) : State :=
  (s.updHub (fun h => { h with invals := h.invals ++ [(c, hash)] })).runInvals
def execLocinv (c : Nat) (v : Word) (s : State) : Host.Outcome State Fault Refusal := .next (s.askInval c (some v.toNat))
def execLocinva (c : Nat) (s : State) : Host.Outcome State Fault Refusal := .next (s.askInval c none)

/-- A context slot that is no longer valid: its tasks are killed and its launches end (R313). -/
def State.abortContext (s : State) (cx : Nat) : State :=
  let s := (s.tasksOf cx (fun _ => true)).foldl State.killTask s
  let ls := (s.launches.cells.filter (fun l => decide (l.2.ctx = cx) && l.2.active)).map Prod.fst
  let s := ls.foldl State.abortRecord s
  ls.foldl (fun s id =>
    let q := (s.launch id).queue
    (s.updLaunch id (fun l => { l with active := false })).updSubq q (fun x => { x with
      running := x.running.filter (fun r => decide (r.2 ≠ id))
      ticks := x.ticks.filter (fun t => decide (t.running ≠ some id)) })) s

/-! ### Queues and features (R327, R332, R407, R414) -/

def log2nOk (n : Nat) : Bool := decide (4 ≤ n) && decide (n ≤ 16)

/-- The enable bit that a write of SQCTL leaves: EN := 1 is ignored before the features are agreed (R414). -/
def State.enAfter (s : State) (q : Nat) (en : Bool) : Bool := if en && !s.hub.featDone then (s.subq q).en else en

/-- SQCTL (R327); a disabled queue's endless ticks end (R349), each with its last launch. -/
def execSqctlWrite (q : Nat) (v : Word) (s : State) : Host.Outcome State Fault Refusal :=
  .next (
    if !log2nOk (bits v.toNat 12 5) then s
    else s.updSubq q (fun x => { x with
      asid := bits v.toNat 24 16, ns := v.getLsbD 23, en := s.enAfter q (v.getLsbD 22), log2n := bits v.toNat 12 5, tryAt := s.cycle + 1
      ticks := if v.getLsbD 22 then x.ticks
        else (x.ticks.map (fun t => if t.left.isNone then { t with left := some 0 } else t)).filter (fun t => t.running.isSome || decide (t.left ≠ some 0)) }))

/-- SQERR.CODE := 0 (R332). -/
def State.setErr (s : State) (q code : Nat) : State := s.updSubq q (fun x => { x with errCode := code, tryAt := s.cycle + 1 })
def execSqerrClear (q : Nat) (s : State) : Host.Outcome State Fault Refusal := .next (s.setErr q 0)

/-- CIQCTL (R407). -/
def execCiqctlWrite (c : Nat) (v : Word) (s : State) : Host.Outcome State Fault Refusal :=
  .next (
    if !log2nOk (bits v.toNat 59 5) then s
    else s.updCtx c (fun x => { x with ciqLog := bits v.toNat 59 5, ciqLost := x.ciqLost && !v.getLsbD 58 }))

/-- FEATACC is written once per power-up (R414). -/
def execFeataccWrite (v : Word) (s : State) : Host.Outcome State Fault Refusal :=
  .next (if s.hub.featDone then s else s.updHub (fun h => { h with featacc := v.setWidth 8, featDone := true }))

/-! ### Freezes (R404, R405) -/

/-- A cycle count that a freeze of `d` cycles moves on; one that never comes stays. -/
def later (d t : Nat) : Nat := if never ≤ t then t else t + d

def Quad.shift (q : Quad) (d : Nat) : Quad :=
  if q.idle then q
  else { q with
    cyc := q.cyc + d, vcyc := q.vcyc + d, vecAt := q.vecAt + d, memAt := q.memAt + d, storeAt := q.storeAt + d
    memStall := q.memStall.map (· + d), storeStall := q.storeStall.map (· + d), flying := q.flying.map (fun x => (x.1, x.2 + d))
    memQ := q.memQ.map (fun e => { e with since := later d e.since })
    pend := q.pend.map (fun p => { p with land := p.land + d })
    wait := q.wait.map (fun w => { w with since := w.since + d })
    arrived := q.arrived.map (fun a => (a.1, a.2 + d)) }

def Job.shift (j : Job) (d : Nat) : Job :=
  { j with nextAt := later d j.nextAt, since := j.since.map (· + d), enteredAt := j.enteredAt + d, waitAt := j.waitAt.map (· + d) }
def Chan.shift (x : Chan) (d : Nat) : Chan :=
  { x with q := x.q.map (fun j => j.shift d), records := x.records.map (fun j => j.shift d), fetchAt := later d x.fetchAt }
def MRun.shift (r : MRun) (d : Nat) : MRun :=
  { r with nextAt := later d r.nextAt, feedAt := later d r.feedAt, doneAt := r.doneAt.map (· + d), since := r.since.map (· + d)
           air := r.air.map (fun a => { a with landAt := a.landAt + d }) }

/-- A core goes on `d` cycles later than it stopped: every cycle-counted relation holds across the freeze. -/
def Core.shift (k : Core) (d : Nat) : Core :=
  { k with
    q0 := k.q0.shift d, q1 := k.q1.shift d, q2 := k.q2.shift d, q3 := k.q3.shift d
    chans := mapChans k.chans (fun x => x.shift d), burst := k.burst + d, mAt := k.mAt + d, mrun := k.mrun.map (fun r => r.shift d), since := k.since + d }

/-- The core of a freeze that has begun. -/
def Core.stand (k : Core) (now : Nat) : Core := { k with stopAt := if k.stands then k.stopAt else now }

/-- A core whose freezes have all ended resumes every unit in the cycle it stopped; CYCLE does not count the freeze. -/
def State.unfreeze (s : State) (c : Nat) : State :=
  let k := s.core c
  if k.stands then s
  else
    let d := s.cycle - k.stopAt
    let t := k.task.getD 0
    let early := decide (k.stopAt < (s.task t).cycleBase)
    let s := if k.task.isSome ∧ (s.task t).units.head? = some c then s.updTask t (fun x => { x with
        saveAt := if x.stage = 0 then x.saveAt else x.saveAt + d, cycleBase := if early then x.cycleBase + d else x.cycleBase }) else s
    s.setCore c { k.shift d with stopAt := 0, dbgAt := 0, lost := if early ∨ k.task.isNone then k.lost else k.lost + d }

/-- A freeze by the debug window (R404). -/
def State.freezeCore (s : State) (c : Nat) : State :=
  s.updCore c (fun k => if k.frozen then k else { k.stand s.cycle with frozen := true, dbgAt := s.cycle })

/-- The watchdog does not count a freeze by the debug window (R395). -/
def Quad.rest (q : Quad) (d : Nat) : Quad := if q.idle then q else { q with doneAt := q.doneAt + d }

def State.thawCore (s : State) (c : Nat) : State :=
  if !(s.core c).frozen then s
  else (s.updCore c (fun k =>
    let d := s.cycle - k.dbgAt
    { k with frozen := false, q0 := k.q0.rest d, q1 := k.q1.rest d, q2 := k.q2.rest d, q3 := k.q3.rest d })).unfreeze c

/-- Where an error may be detected (log entry 80): below 2048 the cores and walk engines, with what they read; 2048 + f the stacks of facet f as another package's request reads them, and 2056
those of the hub's home; 4096 + 8 * core + channel a read by a copy job; 16384 + 8 * core + bank a bank of a core, with its tag entries; 28672 + 8 * core + channel the state of a copy
channel. -/
def siteFacet (site : Nat) : Option Nat := if 2048 ≤ site ∧ site < 2057 then some (site - 2048) else none
def siteChan (site : Nat) : Option (Nat × Nat) := if 4096 ≤ site ∧ site < 16384 then some ((site - 4096) / 8, site % 8) else none
def siteBank (site : Nat) : Option (Nat × Nat) := if 16384 ≤ site ∧ site < 28672 then some ((site - 16384) / 8, site % 8) else none
def siteJobs (site : Nat) : Option (Nat × Nat) := if 28672 ≤ site then some ((site - 28672) / 8, site % 8) else none
/-- The core whose state it is. -/
def siteCore (site : Nat) : Nat := match siteBank site, siteJobs site with | some (c, _), _ => c | none, some (c, _) => c | none, none => site

/-- ECC_CORRECTED (R405): the core stands for 24 cycles, or 24 more. A correction of DRAM is counted in DECCCNT and stops nothing (R406). -/
def execEccCorrected (core : Nat) (s : State) : Host.Outcome State Fault Refusal :=
  .next (match siteFacet core with
  | some f => s.updFacet f (fun x => { x with deccnt := min 0xFFFFFFFF (x.deccnt + 1) })
  | none => s.updCore (siteCore core) (fun k => { k.stand s.cycle with
    ecccnt := min 0xFFFFFFFF (k.ecccnt + 1), eccFreeze := (if k.eccFreeze = 0 then s.cycle else k.eccFreeze) + 24 }))

/-- FREEZE_END (R405). -/
def execFreezeEnd (core : Nat) (s : State) : Host.Outcome State Fault Refusal :=
  .next (
    let k := s.core core
    if k.eccFreeze = 0 ∨ s.cycle < k.eccFreeze then s
    else (s.updCore core (fun k => { k with eccFreeze := 0 })).unfreeze core)

/-- The context of the task that a core runs, or has preloaded: it owns the state of its quadrants and engines. -/
def State.coreOwner (s : State) (c : Nat) : Option Nat := ((s.core c).task.or (s.core c).preload).map (fun t => (s.task t).ctx)
/-- The context whose task holds a bank, or parks it there: it owns the bank and its tag entries. -/
def State.bankOwner (s : State) (c b : Nat) : Option Nat :=
  let x := (s.core c).banks.get {} b
  if x.st = .free then none else some (s.task x.task).ctx
/-- The contexts of the copies in a channel, and that of its core: they own the channel's state. -/
def State.chanOwners (s : State) (c ch : Nat) : List Nat :=
  let x := (s.core c).chan ch
  (x.q ++ x.records).map (fun j => (s.task j.task).ctx) ++ (s.coreOwner c).toList
/-- The context that owns the state at a site. -/
def State.siteOwner (s : State) (site : Nat) : Option Nat :=
  match siteBank site, siteJobs site with
  | some (c, b), _ => s.bankOwner c b
  | none, some (c, ch) => (s.chanOwners c ch).head?
  | none, none => s.coreOwner site

/-- The first quadrant of a core that is not idle. -/
def Core.firstQuad (k : Core) : Nat := ((List.range 4).find? (fun u => !(k.quad u).idle)).getD 0

/-- An uncorrectable DRAM read by the request due at a home, which fails with error class 4 (R382) or UNCORR, or by a copy job (R253). -/
def State.dramError (s : State) (site : Nat) : Option State :=
  match siteFacet site, siteChan site with
  | some f, _ => (s.dueReq f).map (fun e => s.leaveHome f e 48 [])
  | _, some (c, ch) => (((s.core c).chan ch).active.find? (fun j => j.entered.isSome)).map (fun j => s.copyTrap c ch j causeUNCORR 0 0 0)
  | _, _ => none

/-- ECC_UNCORRECTABLE (R405): UNCORR for the context that owns the state or reads the DRAM, else an event. -/
def execEccUncorrectable (core : Nat) (owned : Bool) (s : State) : Host.Outcome State Fault Refusal :=
  .next (match (if owned then s.dramError core else none) with
  | some s => s
  | none => match (if owned then s.siteOwner core else none) with
    | some cx => s.contextFatal cx { core := siteCore core, k := if (siteJobs core).isSome then 5 else (s.core (siteCore core)).firstQuad, cause := causeUNCORR, epc := 0, e0 := 0, e1 := 0, e2 := 0, e3 := 0, useInfo := false }
    | none => s.event (.eccFree (siteCore core)))

/-! ### Boot and power (R411, R412, R415) -/

/-- A fresh challenge (R411). -/
def State.newChallenge (s : State) : State :=
  (s.updHub (fun h => { h with
    chal := (List.range 4).foldl (fun m k => m.set 0 k (Config.challenge s.draws k)) Tab.empty, authUsed := false })).drawn

/-- The package without power: all state is lost; time goes on. -/
def State.dark (s : State) : State :=
  { State.reset with powered := false, pkg := s.pkg, cycle := s.cycle, time := s.time, draws := s.draws, tokens := s.tokens }

/-- The identity derived from a seed (R413). -/
def identityOf (seed : BitVec 256) : Identity :=
  let keys := Config.identityKeys seed
  { seed := seed, secretKey := keys.1, publicKey := keys.2, deviceId := sha3 keys.2 }

/-- An attestation over a 32-byte nonce (R413): the identity key signs the firmware hash, the configuration hash and the nonce. -/
def State.attest (s : State) (nonce : BitVec 256) : Option (List (BitVec 8)) :=
  s.hub.identity.map (fun i => Config.identitySign i.secretKey (s.hub.firmHash ++ s.hub.confHash ++ leBytes 32 nonce.toNat))

/-- The hashes that the boot ROM forms of an image (R412, step 2): firmware, then configuration. -/
def bootHashes (n : Nat) : List (BitVec 8) := sha3 (Config.firmware n) ++ sha3 (Config.configuration n)

/-- How the boot ROM ends (R412), as BOOTSTAT says it: no image, a signature by another key than the ROM's or that does not verify over the hashes, a failure of the PUF, or success. -/
def bootResult (n : Nat) : Nat :=
  if !Config.imageFound n then 1
  else if sha3 (Config.imageKey n) ≠ Config.romKeyHash ∨ !Config.signatureVerifies (Config.imageKey n) (bootHashes n) (Config.imageSignature n) then 2
  else if Config.pufFails n then 3 else 0

/-- What the steps of the boot ROM that ran leave in the hub (R412), for the BOOTSTAT `r` and a draw `n`: the hashes of the image (2), the identity
(4), the configuration (5). -/
def Hub.bootSteps (h : Hub) (r n : Nat) : Hub :=
  let h := if r = 1 then h else { h with firmHash := sha3 (Config.firmware n), confHash := sha3 (Config.configuration n) }
  let h := { h with bootstat := r }
  if r = 0 then { h with identity := some (identityOf Config.pufSeed), config := Config.configuration n, featoff := Config.featuresOffered (Config.configuration n), booted := true } else h

/-- The boot ROM runs (R412): with a good image the configuration is applied, and the supervisor cores run. -/
def State.boot (s : State) : State :=
  let n := s.draws
  (({ s with powered := true } : State).drawn.newChallenge).updHub (fun h => h.bootSteps (bootResult n) n)

/-- POWER_ON (R412). -/
def execPowerOn (s : State) : Host.Outcome State Fault Refusal :=
  .next (if s.powered && s.hub.booted then s else s.dark.boot)
/-- POWER_OFF (R16). -/
def execPowerOff (s : State) : Host.Outcome State Fault Refusal := .next s.dark
/-- THERMAL_SHUTDOWN (R415). -/
def execThermalShutdown (s : State) : Host.Outcome State Fault Refusal := .next s.dark

/-- The facets that take headroom first (R415): one of each context, which held the last arrival in most of its latest barriers over several facets (log entry 127). -/
def State.headroom (s : State) : List Nat :=
  s.ctxs.cells.filterMap (fun (_, x) => x.arrivals.foldl (fun (m : Option Nat) f => match m with
    | none => some f
    | some g => if x.arrivals.count g < x.arrivals.count f then some f else some g) none)

/-- Does another facet take the headroom that a step up of facet f would use? -/
def State.yieldsStep (s : State) (f : Nat) : Bool :=
  !s.headroom.contains f && s.headroom.any (fun g => decide ((s.facet g).clockDown ≠ 0) && decide ((s.facet g).clockAt ≤ s.time))

/-- CLOCK_STEP (R415): 20 steps below 940 MHz, and none above; one takes 1 µs, in which none begins. The facet runs at its new clock from the next cycle on. -/
def execClockStep (f : Nat) (up : Bool) (s : State) : Host.Outcome State Fault Refusal :=
  .next (if s.time < (s.facet f).clockAt ∨ (up && s.yieldsStep f) then s
    else s.updFacet f (fun x => { x with
      clockDown := if up then x.clockDown - 1 else min 20 (x.clockDown + 1), clockAt := s.time + 1000, skippedTo := max x.skippedTo (s.cycle + 1) }))

/-- Does a clock `d` steps of 23.5 MHz below 940 MHz leave out a cycle of the 940 MHz clock? Of 40 such cycles it leaves out d, evenly spread (DESIGN
CHOICE, log entry 81). -/
def skips (d t : Nat) : Bool := decide (40 ≤ t * d % 40 + d)

/-- The next cycle that a facet's clock leaves out. -/
def Facet.nextSkip (x : Facet) (now : Nat) : Option Nat :=
  let t := max now x.skippedTo
  ((List.range 40).find? (fun i => skips x.clockDown (t + i))).map (t + ·)

/-- A core whose clock leaves out a cycle: what was to come comes a cycle later, and CYCLE does not count it; a freeze goes on. -/
def State.skipCore (s : State) (c : Nat) : State :=
  let k := s.core c
  if k.stands then s.setCore c { k with eccFreeze := if k.eccFreeze = 0 then 0 else k.eccFreeze + 1 }
  else
    let t := k.task.getD 0
    let early := decide (s.cycle < (s.task t).cycleBase)
    let s := if k.task.isSome ∧ (s.task t).units.head? = some c then s.updTask t (fun x => { x with
        saveAt := if x.stage = 0 then x.saveAt else x.saveAt + 1, cycleBase := if early then x.cycleBase + 1 else x.cycleBase }) else s
    s.setCore c { k.shift 1 with lost := if early ∨ k.task.isNone then k.lost else k.lost + 1 }

def Incoming.shift (e : Incoming) (d : Nat) : Incoming := { e with nextAt := later d e.nextAt, since := e.since.map (· + d) }

/-- A facet's clock leaves out the present cycle: all its units do (R415). TIME goes on. -/
def State.skipCycle (s : State) (f : Nat) : State :=
  ((s.cores.keys.filter (fun c => decide (facetOf c = f))).foldl State.skipCore s).updFacet f (fun x => { x with
    skippedTo := s.cycle + 1, dispatchAt := x.dispatchAt + 1
    walks := x.walks.map (fun w => { w with doneAt := w.doneAt + 1 })
    reqQ := x.reqQ.map (fun e => e.shift 1), moving := x.moving.map (fun m => { m with doneAt := m.doneAt + 1 }) })

/-- DBGAUTH.GO (R411). -/
def execDbgauthGo (s : State) : Host.Outcome State Fault Refusal := .next (s.updHub (fun h => { h with authRes := 3 }))

/-- Does the signature in DBGSIG verify over the current challenge, by the key that the configuration names (R411)? -/
def Hub.authVerifies (h : Hub) : Bool :=
  Config.signatureVerifies (Config.debugKey h.config) ((List.range 4).flatMap (fun k => leBytes 8 (h.chal.get 0 k).toNat)) ((List.range 4627).map (h.sig.get 0))

/-- The end of a verification: it unlocks, or a new challenge is drawn; a challenge serves once. -/
def execDbgauthVerifyDone (s : State) : Host.Outcome State Fault Refusal :=
  .next (
    if s.hub.authRes ≠ 3 then s
    else if !s.hub.authUsed && s.hub.authVerifies then s.updHub (fun h => { h with authLock := false, authRes := 1, authUsed := true })
    else (s.updHub (fun h => { h with authRes := 2 })).newChallenge)

/-- DBGAUTH.LOCK := 1 (R411). -/
def execDbgauthLock (s : State) : Host.Outcome State Fault Refusal :=
  .next ((s.updHub (fun h => { h with authLock := true, authRes := if h.authRes = 3 then 0 else h.authRes })).newChallenge)

end Sys2Proof.Machine
end

