-- ==== Sys2Proof/Machine/VectorWords.lean ====
section
/-! DEFINITION. The meanings of the words of E = 2: each is steered into the vector queue (R38, R165), whose turns give it the effect of
`vecOut`. -/

namespace Sys2Proof.Machine

/-- A marker format without its feature raises FMT at the word (R414). -/
def State.markerBarred (s : State) (f : BitVec 5) : Bool := isMarker f.toNat && !s.feat 1
def State.markerTrap (s : State) (f : BitVec 5) : State :=
  s.issue {} (fun s => s.trap causeFMT s.me.pc (zext64 f) 0 0 s.me.pc)


/-! ### Element-wise words (R171 to R174) -/

def execVadd (d a b : BitVec 5) (t : BitVec 3) (y1 : BitVec 1) (s : State) : Host.Outcome State Fault Refusal :=
  .next (s.vecWord (.vadd d a b t y1) 1)
def execVsub (d a b : BitVec 5) (t : BitVec 3) (y1 : BitVec 1) (s : State) : Host.Outcome State Fault Refusal :=
  .next (s.vecWord (.vsub d a b t y1) 1)
def execVmul (d a b : BitVec 5) (t : BitVec 3) (y1 : BitVec 1) (s : State) : Host.Outcome State Fault Refusal :=
  .next (s.vecWord (.vmul d a b t y1) 1)
def execVfma (d a b : BitVec 5) (t : BitVec 3) (c : BitVec 5) (s : State) : Host.Outcome State Fault Refusal :=
  .next (s.vecWord (.vfma d a b t c) 1)
def execVmin (d a b : BitVec 5) (t : BitVec 3) (s : State) : Host.Outcome State Fault Refusal :=
  .next (s.vecWord (.vmin d a b t) 1)
def execVmax (d a b : BitVec 5) (t : BitVec 3) (s : State) : Host.Outcome State Fault Refusal :=
  .next (s.vecWord (.vmax d a b t) 1)
def execVabs (d a : BitVec 5) (t : BitVec 3) (y1 : BitVec 1) (s : State) : Host.Outcome State Fault Refusal :=
  .next (s.vecWord (.vabs d a t y1) 1)
def execVneg (d a : BitVec 5) (t : BitVec 3) (y1 : BitVec 1) (s : State) : Host.Outcome State Fault Refusal :=
  .next (s.vecWord (.vneg d a t y1) 1)
def execVand (d a b : BitVec 5) (s : State) : Host.Outcome State Fault Refusal :=
  .next (s.vecWord (.vand d a b) 1)
def execVor (d a b : BitVec 5) (s : State) : Host.Outcome State Fault Refusal :=
  .next (s.vecWord (.vor d a b) 1)
def execVxor (d a b : BitVec 5) (s : State) : Host.Outcome State Fault Refusal :=
  .next (s.vecWord (.vxor d a b) 1)
def execVshl (d a b : BitVec 5) (t : BitVec 3) (i : BitVec 1) (s : State) : Host.Outcome State Fault Refusal :=
  .next (s.vecWord (.vshl d a b t i) 1)
def execVshr (d a b : BitVec 5) (t : BitVec 3) (i : BitVec 1) (s : State) : Host.Outcome State Fault Refusal :=
  .next (s.vecWord (.vshr d a b t i) 1)
def execVsar (d a b : BitVec 5) (t : BitVec 3) (i : BitVec 1) (s : State) : Host.Outcome State Fault Refusal :=
  .next (s.vecWord (.vsar d a b t i) 1)

/-! ### Compares, selection, conversion (R175 to R179) -/

def execVcmp (m : BitVec 3) (a b : BitVec 5) (t : BitVec 3) (y : BitVec 1) (c : BitVec 3) (s : State) : Host.Outcome State Fault Refusal :=
  .next (s.vecWord (.vcmp m a b t y c) 1)
def execVsel (d a b : BitVec 5) (m : BitVec 3) (s : State) : Host.Outcome State Fault Refusal :=
  .next (s.vecWord (.vsel d a b m) 1)
def execVcvt (d a b : BitVec 5) (t : BitVec 3) (h : BitVec 1) (y : BitVec 3) (s : State) : Host.Outcome State Fault Refusal :=
  .next (s.vecWord (.vcvt d a b t h y) 1)

/-! ### Reductions, movement, constants (R180 to R183) -/

def execVred (d : BitVec 6) (a : BitVec 5) (t : BitVec 3) (g : BitVec 1) (o : BitVec 3) (s : State) : Host.Outcome State Fault Refusal :=
  .next (s.vecWord (.vred d a t g o) 1)
def execVscan (d a : BitVec 5) (t : BitVec 3) (x : BitVec 1) (o : BitVec 3) (s : State) : Host.Outcome State Fault Refusal :=
  .next (s.vecWord (.vscan d a t x o) 1)
def execVperm (d a b : BitVec 5) (s : State) : Host.Outcome State Fault Refusal :=
  .next (s.vecWord (.vperm d a b) 1)
def execVbcast (d : BitVec 5) (a : BitVec 6) (t : BitVec 3) (s : State) : Host.Outcome State Fault Refusal :=
  .next (s.vecWord (.vbcast d a t) 1)
def execVextr (d : BitVec 6) (a : BitVec 5) (e : BitVec 2) (t : BitVec 3) (l : BitVec 5) (s : State) : Host.Outcome State Fault Refusal :=
  .next (s.vecWord (.vextr d a e t l) 1)
def execVins (d : BitVec 5) (a : BitVec 6) (e : BitVec 2) (t : BitVec 3) (l : BitVec 5) (s : State) : Host.Outcome State Fault Refusal :=
  .next (s.vecWord (.vins d a e t l) 1)

/-! ### Special functions, random numbers, quantizing (R184 to R191) -/

def execVrcp (d a : BitVec 5) (t : BitVec 3) (s : State) : Host.Outcome State Fault Refusal :=
  .next (s.vecWord (.vrcp d a t) 1)
def execVrsq (d a : BitVec 5) (t : BitVec 3) (s : State) : Host.Outcome State Fault Refusal :=
  .next (s.vecWord (.vrsq d a t) 1)
def execVexp2 (d a : BitVec 5) (t : BitVec 3) (s : State) : Host.Outcome State Fault Refusal :=
  .next (s.vecWord (.vexp2 d a t) 1)
def execVlog2 (d a : BitVec 5) (t : BitVec 3) (s : State) : Host.Outcome State Fault Refusal :=
  .next (s.vecWord (.vlog2 d a t) 1)
def execVsin (d a : BitVec 5) (t : BitVec 3) (s : State) : Host.Outcome State Fault Refusal :=
  .next (s.vecWord (.vsin d a t) 1)
def execVcos (d a : BitVec 5) (t : BitVec 3) (s : State) : Host.Outcome State Fault Refusal :=
  .next (s.vecWord (.vcos d a t) 1)
def execVact (d a : BitVec 5) (s : State) : Host.Outcome State Fault Refusal :=
  .next (s.vecWord (.vact d a) 1)
def execVrng (d a b : BitVec 5) (k : BitVec 6) (s : State) : Host.Outcome State Fault Refusal :=
  .next (s.vecWord (.vrng d a b k) 1)
def execVqnt (d a f : BitVec 5) (s : State) : Host.Outcome State Fault Refusal :=
  .next (if s.markerBarred f then s.markerTrap f else s.vecWord (.vqnt d a f) 1)
def execVdqnt (d a f : BitVec 5) (s : State) : Host.Outcome State Fault Refusal :=
  .next (if s.markerBarred f then s.markerTrap f else s.vecWord (.vdqnt d a f) 1)
def execVdot4 (d a b : BitVec 5) (t : BitVec 3) (c : BitVec 5) (s : State) : Host.Outcome State Fault Refusal :=
  .next (s.vecWord (.vdot4 d a b t c) 1)

/-! ### Masks and queues (R177, R178, R181, R192) -/

def execVmovmMv (d : BitVec 3) (a : BitVec 5) (s : State) : Host.Outcome State Fault Refusal :=
  .next (s.vecWord (.vmovmMv d a) 1)
def execVmovmVm (d : BitVec 5) (m : BitVec 3) (s : State) : Host.Outcome State Fault Refusal :=
  .next (s.vecWord (.vmovmVm d m) 1)
def execVmovmMg (m : BitVec 3) (a : BitVec 6) (s : State) : Host.Outcome State Fault Refusal :=
  .next (s.vecWord (.vmovmMg m a) 1)
def execMlog (d : BitVec 6) (a b : BitVec 3) (g : BitVec 1) (f : BitVec 4) (s : State) : Host.Outcome State Fault Refusal :=
  .next (s.vecWord (.mlog d a b g f) 1)
def execVidx (d : BitVec 5) (t : BitVec 3) (s : State) : Host.Outcome State Fault Refusal :=
  .next (s.vecWord (.vidx d t) 1)
def execVqput (a : BitVec 5) (f : BitVec 6) (s : State) : Host.Outcome State Fault Refusal :=
  .next (s.vecWord (.vqput a f) 1)
def execVqget (d : BitVec 5) (f : BitVec 6) (s : State) : Host.Outcome State Fault Refusal :=
  .next (s.vecWord (.vqget d f) 1)
def execVli (d : BitVec 5) (k : BitVec 2) (i : BitVec 16) (s : State) : Host.Outcome State Fault Refusal :=
  .next (s.vecWord (.vli d k i) 1)

/-- A repeated word (R168, R169): it captures the bounds' product; 2^32 iterations or more are illegal at the splitter. -/
def execRepeatedVectorWord (k sd sa sb sc : BitVec 3) (op : BitVec 6) (d a b : BitVec 5) (t : BitVec 3) (c : BitVec 5) (s : State) :
    Host.Outcome State Fault Refusal :=
  .next (
    let total := dimProduct (s.me.dims k.toNat)
    if 2 ^ 32 ≤ total then s.issue {} (fun s => s.ill 0x0B)
    else if (op = 0x1F ∨ op = 0x20) ∧ s.markerBarred c then s.markerTrap c
    else s.vecWord (.repeatedVectorWord k sd sa sb sc op d a b t c) total)

end Sys2Proof.Machine
end

