-- ==== Sys2Proof/Machine/Window.lean ====
section
/-! DEFINITION. The debug window (R403, R404, R409, R459) and registers written under their access codes (R4, R5). -/

namespace Sys2Proof.Machine

/-! ### Items of the debug window (R403, R459) -/

/-- The core that DBGTGT names, and the context slot. -/
def Hub.tgtCore (h : Hub) : Nat := bits h.dbgtgt.toNat 0 11
def Hub.tgtCtx (h : Hub) : Nat := bits h.dbgtgt.toNat 11 8

/-- An item: its two data words. -/
abbrev Item := Word × Word

def item (x : Nat) : Item := (BitVec.ofNat 64 x, 0)

/-- Space 0: g0 to g47 and b0 to b3; a walk engine has g0 to g15 alone (R296). -/
def regCount (c : Nat) : Nat := if isWalk c then 16 else 52
def Quad.regItem (q : Quad) (i : Nat) : Item := if i < 48 then (q.gr i, 0) else (q.br (i - 48), 0)
def Quad.putReg (q : Quad) (i : Nat) (x : Word) : Quad := if i < 48 then q.setG i x else q.setB (i - 48) x

/-- Level L of the loop stack, 0 the outermost. -/
def Quad.level (q : Quad) (l : Nat) : Option Loop := if l < q.loops.length then q.loops[q.loops.length - 1 - l]? else none

/-- Item r of a loop level. -/
def Loop.item (l : Loop) (r : Nat) : Item :=
  if r = 0 then (l.start, l.last)
  else if r = 1 then (BitVec.ofNat 64 (bit l.nest + 2 * l.k + 16 * l.first + 1024 * l.cnt), if l.nest then 0 else BitVec.ofNat 64 l.count)
  else if l.nest ∧ r - 2 ≤ l.k then
    (BitVec.ofNat 64 (l.bounds.getD (r - 2) 0 + 2 ^ 32 * l.idx.getD (r - 2) 0), zext64 (l.strides.getD (r - 2) 0))
  else (0, 0)

/-- A list of n elements, cut or filled with a value. -/
def resize {α : Type} (d : α) (n : Nat) (l : List α) : List α := (List.range n).map (fun i => l.getD i d)

/-- A level as a write of its item r leaves it; a k above 5 is no level of LOOPN, and the write is ignored (log entry 79). -/
def Loop.putItem (l : Loop) (r : Nat) (x : Item) : Loop :=
  let d := x.1.toNat
  if r = 0 then { l with start := x.1, last := x.2 }
  else if r = 1 then
    if !x.1.getLsbD 0 ∨ bits d 1 3 ≤ 5 then
      let nest := x.1.getLsbD 0
      let n := if nest then bits d 1 3 + 1 else 0
      { l with nest := nest, k := bits d 1 3, first := bits d 4 6, cnt := bits d 10 3, count := if nest then 0 else x.2.toNat
               bounds := resize 0 n l.bounds, strides := resize 0 n l.strides, idx := resize 0 n l.idx }
    else l
  else if l.nest ∧ r - 2 ≤ l.k then
    { l with bounds := l.bounds.set (r - 2) (bits d 0 24), idx := l.idx.set (r - 2) (bits d 32 24), strides := l.strides.set (r - 2) (x.2.setWidth 32) }
  else l

/-- Space 1 (R459). -/
def Quad.ctlItem (q : Quad) (i : Nat) : Item :=
  if i = 0 then item ((q.p.toNat / 2 * 2) + 1)
  else if i ≤ 8 then (zext64 (q.mr (i - 1)), 0)
  else if i ≤ 14 then (zext64 (q.nest (i - 9)).bound, zext64 (q.nest (i - 9)).stride)
  else if i = 15 then item q.loops.length
  else if 48 ≤ i then (0, 0)
  else match q.level ((i - 16) / 8) with
    | some l => l.item ((i - 16) % 8)
    | none => (0, 0)
def Quad.putCtl (q : Quad) (i : Nat) (x : Item) : Quad :=
  if i = 0 then { q with p := putField (x.1.setWidth 8) 0 1 1 }
  else if i ≤ 8 then q.setM (i - 1) (x.1.setWidth 32)
  else if i ≤ 14 then q.setNest (i - 9) { bound := x.1.setWidth 24, stride := x.2.setWidth 32 }
  else if i = 15 ∨ 48 ≤ i then q
  else match q.level ((i - 16) / 8) with
    | some l => { q with loops := q.loops.set (q.loops.length - 1 - (i - 16) / 8) (l.putItem ((i - 16) % 8) x) }
    | none => q

/-- The state of a channel as space 7 shows it: queue entries in [3:0], a job held by a trap in bit 4, a chain running in bit 5 (DESIGN CHOICE, log
entry 84). -/
def Chan.item (x : Chan) : Item := (x.park, BitVec.ofNat 64 (x.q.length % 16 + 16 * bit x.halted.isSome + 32 * bit x.next.isSome))

/-- A link-table entry (R263). -/
def Link.image (l : Link) (time : Nat) : Nat :=
  let age := if l.rslot = 0 then 0 else min 16383 ((time - l.renewed) / 1000)
  l.rslot.toNat * 2 ^ 192 + l.hi * 2 ^ 138 + l.lo * 2 ^ 84 + l.asid * 2 ^ 68 + l.pulled * 2 ^ 53 + l.ntm1 * 2 ^ 39 + age * 2 ^ 25 + 2 * bit l.ns + bit l.v

/-! ### Commands (R403, R409) -/

/-- The quadrant of a core that IDX selects in a space, in two bits from `lo`. -/
def State.dbgQuad (s : State) (lo : Nat) : Nat := bits s.hub.dbgidx.toNat lo 2

/-- Where a space's quadrant number stands in IDX (log entry 84 for space 2). -/
def quadBits (space : Nat) : Nat := if space = 2 then 10 else if space = 3 then 12 else 8

/-- Is an index in range for a core, or a walk engine? -/
def State.dbgInRange (s : State) (space : Nat) : Bool :=
  let c := s.hub.tgtCore
  let i := s.hub.dbgidx.toNat
  let u := s.dbgQuad (quadBits space)
  if space = 8 then decide (bits i 12 4 < 8)
  else if 9 ≤ space then decide (space ≤ 11)
  else decide (c < 1680) && (match space with
    | 0 => decide (bits i 0 8 < regCount c) && (!isWalk c || decide (u = 0))
    | 1 => !isWalk c || decide (u = 0)
    | 2 => !isWalk c
    | 3 => !isWalk c && csrAssigned (bits i 0 12)
    | 4 => !isWalk c && decide (i < 256)
    | 5 => !isWalk c && decide (i < 1024)
    | 6 => !isWalk c && decide (i < 8192)
    | _ => decide (i < if isWalk c then 1 else 8))

def needsFreeze (space : Nat) : Bool := decide (space < 4) || decide (space = 6)

/-- Is the state of a space that of a secure-world context? -/
def State.dbgSecure (s : State) (space : Nat) : Bool :=
  if space = 11 then false
  else if 9 ≤ space then !(s.ctx s.hub.tgtCtx).ns
  else if space = 8 then
    let l := (s.facet (bits s.hub.dbgidx.toNat 12 4)).links.get {} (bits s.hub.dbgidx.toNat 0 12)
    decide (l.rslot ≠ 0) && !l.ns
  else
    let c := s.hub.tgtCore
    let i := s.hub.dbgidx.toNat
    (if space = 5 then (s.bankOwner c (i / 128)).toList else if space = 7 then s.chanOwners c i else (s.coreOwner c).toList).any (fun cx => !(s.ctx cx).ns)

/-- Is a read (or a write) refused (R403)? -/
def State.dbgRefused (s : State) (write : Bool) : Bool :=
  let sp := s.hub.dbgSpace
  !s.dbgInRange sp || (write && !(needsFreeze sp || decide (sp = 11))) || (needsFreeze sp && !(s.core s.hub.tgtCore).frozen)
    || ((decide (sp = 9) || decide (sp = 10)) && !(s.ctx s.hub.tgtCtx).en) || (s.hub.authLock && s.dbgSecure sp)

/-- The item that a command reads, which changes nothing (R427); none where its memory cannot be read. A debug window in the non-secure world reads memory so (R410). -/
def State.dbgItem (s : State) : Option Item :=
  let c := s.hub.tgtCore
  let k := s.core c
  let i := s.hub.dbgidx.toNat
  let q := k.quad (s.dbgQuad (quadBits s.hub.dbgSpace))
  let two (x : Nat) : Item := (BitVec.ofNat 64 x, BitVec.ofNat 64 (x / 2 ^ 64))
  match s.hub.dbgSpace with
  | 0 => some (q.regItem (bits i 0 8))
  | 1 => some (q.ctlItem (bits i 0 8))
  | 2 => some (zext64 (lane (q.vr (bits i 5 5)) (bits i 0 5)), 0)
  | 3 => some (s.csrValue c (s.dbgQuad 12) s.cycle (bits i 0 12), 0)
  | 4 => some (two (k.dict.get 0 i).toNat)
  | 5 =>
    let e := k.tags.get {} i
    some (BitVec.ofNat 64 (tagImage e (s.ctx (s.task (s.taskAt c)).ctx).asid), BitVec.ofNat 64 (if e.v then e.asid else 0))
  | 6 =>
    let r := k.acc.get 0 (i / 32)
    some (item ((elem r (2 * (i % 32))).toNat + 2 ^ 32 * (elem r (2 * (i % 32) + 1)).toNat))
  | 7 => some ((k.chan i).item)
  | 8 =>
    let l := (s.facet (bits i 12 4)).links.get {} (bits i 0 12)
    some (two (l.image s.time / 2 ^ (128 * bits i 16 1)))
  | 9 | 10 =>
    let x := s.ctx s.hub.tgtCtx
    let a := (if s.hub.dbgSpace = 9 then x.locbase >>> 16 <<< 16 else x.stopbase) + s.hub.dbgidx
    match (s.read { homeAgent s 8 x.asid x.ns with ns := x.ns || s.hub.secmap.getLsbD 12 } a 16).res with
    | .ok b => some (two (leNat b))
    | _ => none
  | _ => some (0, 0)

def State.dbgErr (s : State) : State := s.updHub (fun h => { h with dbgErr := true })

/-- OP 0. -/
def State.dbgRead (s : State) : State :=
  if s.dbgRefused false then s.dbgErr
  else match s.dbgItem with
    | some x => s.updHub (fun h => { h with dbgdata0 := x.1, dbgdata1 := x.2 })
    | none => s.dbgErr
def execDbgRead (s : State) : Host.Outcome State Fault Refusal := .next s.dbgRead

/-- OP 1: items take DBGDATA; a CSR as CSRW would write it; space 11 is ICINV. -/
def State.dbgPut (s : State) : State :=
  let c := s.hub.tgtCore
  let i := s.hub.dbgidx.toNat
  let x : Item := (s.hub.dbgdata0, s.hub.dbgdata1)
  let u := s.dbgQuad (quadBits s.hub.dbgSpace)
  match s.hub.dbgSpace with
  | 0 => s.updQuad c u (fun q => q.putReg (bits i 0 8) x.1)
  | 1 => s.updQuad c u (fun q => q.putCtl (bits i 0 8) x)
  | 2 => s.updQuad c u (fun q => q.setV (bits i 5 5) (putField (q.vr (bits i 5 5)) (32 * bits i 0 5) 32 x.1.toNat))
  | 3 =>
    let n := bits i 0 12
    if s.csrRefused n x.1 then s
    else (s.updCore c (fun k => k.csrPut s.cycle u n x.1)).updQuad c u (fun q => q.csrPut s.cycle n x.1)
  | 6 => s.updCore c (fun k => { k with acc := k.acc.set 0 (i / 32) (putField (k.acc.get 0 (i / 32)) (64 * (i % 32)) 64 x.1.toNat) })
  | 11 => s.flushCaches x.1.toNat x.2.toNat
  | _ => s
def State.dbgWrite (s : State) : State := if s.dbgRefused true then s.dbgErr else s.dbgPut
def execDbgWrite (s : State) : Host.Outcome State Fault Refusal := .next s.dbgWrite

/-- OP 2 and 3 (R404). -/
def State.dbgFreeze (s : State) : State := if 1680 ≤ s.hub.tgtCore then s.dbgErr else s.freezeCore s.hub.tgtCore
def State.dbgThaw (s : State) : State := if 1680 ≤ s.hub.tgtCore then s.dbgErr else s.thawCore s.hub.tgtCore
def execDbgFreeze (s : State) : Host.Outcome State Fault Refusal := .next s.dbgFreeze
def execDbgThaw (s : State) : Host.Outcome State Fault Refusal := .next s.dbgThaw

/-- A write of DBGCMD: SPACE, ERR (W1C), then the command of OP. -/
def State.dbgCommand (s : State) (v : Nat) : State :=
  let s := s.updHub (fun h => { h with dbgSpace := bits v 4 4, dbgErr := h.dbgErr && decide (bits v 2 1 = 0) })
  match bits v 0 2 with
  | 0 => s.dbgRead
  | 1 => s.dbgWrite
  | 2 => s.dbgFreeze
  | _ => s.dbgThaw

/-! ### Registers under their access codes (R4, R5) -/

/-- Bits hi : lo of a value, in place: the others are reserved. -/
def part (v hi lo : Nat) : Nat := bits v lo (hi + 1 - lo) * 2 ^ lo

def State.putSentinel (s : State) (f k : Nat) (u : Sentinel → Sentinel) : State :=
  s.updFacet f (fun x => { x with sentinels := x.sentinels.set {} k (u (x.sentinels.get {} k)) })

/-- A write of CTX: a slot that is no longer valid aborts what it runs. -/
def State.putCtx (s : State) (c v : Nat) : State :=
  let en := decide (bits v 21 1 = 1)
  let s := if (s.ctx c).en && !en then s.abortContext c else s
  s.updCtx c (fun x => { x with asid := bits v 24 16, ns := decide (bits v 23 1 = 1), svg := decide (bits v 22 1 = 1), en := en
                                halted := x.halted && en, firstCause := if en then x.firstCause else 0 })

/-- A write to QSASID from user mode raises the illegal-instruction exception (R330); the manual does not say what its stval holds. -/
def State.putQsasid (s : State) (h v : Nat) : State :=
  if (s.hart h).user then (s.updHart h (fun x => { x with illegal := true, stval := Config.undefinedWord s.draws })).drawn
  else s.updHart h (fun x => { x with qsasid := BitVec.ofNat 64 (part v 16 0) })

def State.putReg (s : State) (r : SupReg) (v : Nat) : State :=
  let w (x : Nat) : Word := BitVec.ofNat 64 x
  match r with
  | .migthr f => s.updFacet f (fun x => { x with migthr := w (part v 7 0) })
  | .nqstat f => s.updFacet f (fun x => { x with nqstat := w (part (x.nqstat.toNat) 32 32 * (1 - bits v 32 1) + part v 31 0) })
  | .sntBase f k => s.putSentinel f k (fun t => { t with base := w v })
  | .sntLim f k => s.putSentinel f k (fun t => { t with limit := w v })
  | .sntCtl f k => s.putSentinel f k (fun t => { t with ctl := w (part v 17 0) })
  | .sntRec f k => s.putSentinel f k (fun t => { t with hits := t.hits &&& ~~~(BitVec.ofNat 128 (part v 63 62)) })
  | .nbwin f k =>
    let x := w (part v 55 12 + part v 0 0)
    s.updFacet f (fun y => if k = 0 then { y with nbwin0 := x } else { y with nbwin1 := x })
  | .pwinA f k => s.updFacet f (fun x => { x with pwinA := x.pwinA.set 0 k (w (part v 53 21 + part v 0 0)) })
  | .pwinB f k => s.updFacet f (fun x => { x with pwinB := x.pwinB.set (BitVec.ofNat 64 (16 * 2 ^ 12)) k (w (part v 34 0)) })
  | .ecccnt c => s.updCore c (fun k => { k with ecccnt := part v 31 0 })
  | .deccnt f => s.updFacet f (fun x => { x with deccnt := part v 31 0 })
  | .ptroot c k => s.updCtx c (fun x => { x with ptroot := x.ptroot.set 0 k (w (part v 51 18 + part v 0 0)) })
  | .ctx c => s.putCtx c v
  | .stopbase c => s.updCtx c (fun x => { x with stopbase := w v })
  | .stopst c => s.updCtx c (fun x => { x with stoplost := x.stoplost && decide (bits v 0 1 = 0) })
  | .wdoglim c => s.updCtx c (fun x => { x with wdoglim := part v 15 0 })
  | .spawnq c => s.updCtx c (fun x => { x with spawnEn := decide (bits v 10 1 = 1), spawnQ := part v 9 0 })
  | .ciqbase c => s.updCtx c (fun x => { x with ciqbase := w v })
  | .ciqhead c => s.updCtx c (fun x => { x with ciqHead := part v 31 0 })
  | .fpbase c => s.updCtx c (fun x => { x with fpbase := w v })
  | .fpsz c => s.updCtx c (fun x => { x with fpsz := v })
  | .fpcnt c => s.updCtx c (fun x => { x with fpcnt := v })
  | .locbase c => s.updCtx c (fun x => { x with locbase := w (part v 63 16 + part v 11 0) })
  | .sqbase q => s.updSubq q (fun x => { x with base := w v })
  | .sqtick q => s.updSubq q (fun x => { x with skip := part v 31 0 })
  | .sqerr q => s.setErr q (part v 7 0)
  | .fabimg => s.updHub (fun h => { h with fabimg := w v })
  | .fabdrop => s.updHub (fun h => { h with fabdrop := part v 31 0 })
  | .secmap => s.updHub (fun h => { h with secmap := w (part v 14 0) })
  | .secrgnA k => s.updHub (fun h => { h with secrgnA := h.secrgnA.set 0 k (w (part v 51 16 + part v 0 0)) })
  | .secrgnB k => s.updHub (fun h => { h with secrgnB := h.secrgnB.set 0 k (w (part v 47 16 + part v 0 0)) })
  | .dbgtgt => s.updHub (fun h => { h with dbgtgt := w (part v 18 0) })
  | .dbgidx => s.updHub (fun h => { h with dbgidx := w v })
  | .dbgdata k => s.updHub (fun h => if k = 0 then { h with dbgdata0 := w v } else { h with dbgdata1 := w v })
  | .dbgcmd => s.dbgCommand v
  | .dbgsig k => s.updHub (fun h => { h with sig := (List.range 8).foldl (fun m i =>
      if 8 * k + i < 4627 then m.set 0 (8 * k + i) (BitVec.ofNat 8 (v / 2 ^ (8 * i))) else m) h.sig })
  | .qsasid h => s.putQsasid h v

/-! ### Reads (R4) -/

/-- The registers that a step of their own writes, or none but the hardware. -/
inductive Reg where
  | sup (r : SupReg)
  | nqtail (f : Nat) | nqhead (f : Nat) | nqent (f j : Nat) | migclr (f : Nat)          -- R131
  | coreoff (f k : Nat) | forecast (f : Nat)                                             -- R338, R415
  | tlbinv (f : Nat) | tlbinvst (f : Nat)                                                -- R408
  | sqctl (q : Nat) | sqwidx (q : Nat) | sqridx (q : Nat)                                -- R327
  | preempt (c : Nat) | ciqctl (c : Nat) | locinv (c : Nat) | locinva (c : Nat)          -- R407
  | fabact | fabstat | rquota (p : Nat)                                                  -- R366, R374
  | dbgauth | dbgchal (k : Nat)                                                          -- R411
  | featoff | featacc | bootstat                                                         -- R412, R414
  deriving DecidableEq, Repr

/-- What a register that REGISTER_WRITE writes reads as: its fields in place, 0 in a write-only field and in reserved bits. -/
def State.supValue (s : State) : SupReg → Nat
  | .migthr f => (s.facet f).migthr.toNat
  | .nqstat f => (s.facet f).nqstat.toNat
  | .sntBase f k => ((s.facet f).sentinels.get {} k).base.toNat
  | .sntLim f k => ((s.facet f).sentinels.get {} k).limit.toNat
  | .sntCtl f k => ((s.facet f).sentinels.get {} k).ctl.toNat
  | .sntRec f k => ((s.facet f).sentinels.get {} k).hits.toNat
  | .nbwin f k => (if k = 0 then (s.facet f).nbwin0 else (s.facet f).nbwin1).toNat
  | .pwinA f k => ((s.facet f).pwinA.get 0 k).toNat
  | .pwinB f k => ((s.facet f).pwinB.get (BitVec.ofNat 64 (16 * 2 ^ 12)) k).toNat
  | .ecccnt c => (s.core c).ecccnt
  | .deccnt f => (s.facet f).deccnt
  | .ptroot c k => ((s.ctx c).ptroot.get 0 k).toNat
  | .ctx c => let x := s.ctx c; x.asid * 2 ^ 24 + bit x.ns * 2 ^ 23 + bit x.svg * 2 ^ 22 + bit x.en * 2 ^ 21
  | .stopbase c => (s.ctx c).stopbase.toNat
  | .stopst c => bit (s.ctx c).stoplost
  | .wdoglim c => (s.ctx c).wdoglim
  | .spawnq c => bit (s.ctx c).spawnEn * 2 ^ 10 + (s.ctx c).spawnQ
  | .ciqbase c => (s.ctx c).ciqbase.toNat
  | .ciqhead c => (s.ctx c).ciqHead
  | .fpbase c => (s.ctx c).fpbase.toNat
  | .fpsz c => (s.ctx c).fpsz
  | .fpcnt c => (s.ctx c).fpcnt
  | .locbase c => (s.ctx c).locbase.toNat
  | .sqbase q => (s.subq q).base.toNat
  | .sqtick q => (s.subq q).skip
  | .sqerr q => let x := s.subq q; x.errPkt * 2 ^ 32 + x.errNode * 2 ^ 16 + x.errCode
  | .fabimg => s.hub.fabimg.toNat
  | .fabdrop => s.hub.fabdrop
  | .secmap => s.hub.secmap.toNat
  | .secrgnA k => (s.hub.secrgnA.get 0 k).toNat
  | .secrgnB k => (s.hub.secrgnB.get 0 k).toNat
  | .dbgtgt => s.hub.dbgtgt.toNat
  | .dbgidx => s.hub.dbgidx.toNat
  | .dbgdata k => (if k = 0 then s.hub.dbgdata0 else s.hub.dbgdata1).toNat
  | .dbgcmd => s.hub.dbgSpace * 2 ^ 4 + bit s.hub.dbgErr * 2 ^ 2
  | .dbgsig _ => 0
  | .qsasid h => (s.hart h).qsasid.toNat

/-- What a register reads as: a command or an invalidation is over within its step, so BUSY reads 0. -/
def State.regValue (s : State) : Reg → Nat
  | .sup r => s.supValue r
  | .nqtail f => (s.facet f).nqtail
  | .nqhead f => (s.facet f).nqhead
  | .nqent f j => ((s.facet f).nqent.get 0 (j % 1024)).toNat
  | .migclr _ | .tlbinv _ | .locinv _ | .locinva _ | .tlbinvst _ => 0
  | .coreoff f k => ((s.facet f).coreoff.get 0 k).toNat
  | .forecast f => (s.facet f).forecast % 2 ^ 16 * 2 ^ 16 + s.coresBusy f
  | .sqctl q => let x := s.subq q; x.asid * 2 ^ 24 + bit x.ns * 2 ^ 23 + bit x.en * 2 ^ 22 + x.log2n * 2 ^ 12
  | .sqwidx q => (s.subq q).widx
  | .sqridx q => (s.subq q).ridx
  | .preempt c => 2 * bit (s.ctx c).preDone + bit (s.ctx c).preReq
  | .ciqctl c => let x := s.ctx c; x.ciqLog * 2 ^ 59 + bit x.ciqLost * 2 ^ 58 + x.ciqTail
  | .fabact => s.hub.fabact.toNat
  | .fabstat => s.hub.fabstat.toNat
  | .rquota p => s.hub.rquota.get 1024 p
  | .dbgauth => 4 * s.hub.authRes + bit s.hub.authLock
  | .dbgchal k => (s.hub.chal.get 0 k).toNat
  | .featoff => s.hub.featoff.toNat
  | .featacc => bit s.hub.featDone * 2 ^ 8 + s.hub.featacc.toNat
  | .bootstat => s.hub.bootstat

/-- A read from outside the steps of the table (R4): the value, and the state it leaves; only a hart's own read of QSASID in user mode leaves another,
the illegal-instruction exception taken (R330). -/
def State.readReg (s : State) (r : Reg) : State × Nat :=
  match r with
  | .sup (.qsasid h) => if (s.hart h).user then (s.putQsasid h 0, 0) else (s, s.regValue r)
  | _ => (s, s.regValue r)

/-- The operating system grants a context its partition (R22): an input from outside, as the manual gives it no register (log entry 102). -/
def State.grantPartition (s : State) (c : Nat) (cores : List Nat) : State :=
  s.updCtx c (fun x => { x with barred := (List.range 1536).filter (fun k => !cores.contains k) })

/-- REGISTER_WRITE (R4). -/
def execRegisterWrite (r : SupReg) (v : Word) (s : State) : Host.Outcome State Fault Refusal := .next (s.putReg r v.toNat)

end Sys2Proof.Machine
end

