-- ==== Sys2Proof/Machine/Dispatch.lean ====
section
/-! DEFINITION. The dispatch of every instruction to its meaning. -/

namespace Sys2Proof.Machine

def exec (i : Instr) (s : State) : Host.Outcome State Fault Refusal :=
  match i with
  | .nop => Sys2Proof.Machine.execNop s
  | .add d n a b => Sys2Proof.Machine.execAdd d n a b s
  | .addi d n a y => Sys2Proof.Machine.execAddi d n a y s
  | .sub d n a b => Sys2Proof.Machine.execSub d n a b s
  | .and d n a b => Sys2Proof.Machine.execAnd d n a b s
  | .andi d n a y => Sys2Proof.Machine.execAndi d n a y s
  | .or d n a b => Sys2Proof.Machine.execOr d n a b s
  | .ori d n a y => Sys2Proof.Machine.execOri d n a y s
  | .xor d n a b => Sys2Proof.Machine.execXor d n a b s
  | .xori d n a y => Sys2Proof.Machine.execXori d n a y s
  | .andn d n a b => Sys2Proof.Machine.execAndn d n a b s
  | .shl d n a b => Sys2Proof.Machine.execShl d n a b s
  | .shli d n a y => Sys2Proof.Machine.execShli d n a y s
  | .shr d n a b => Sys2Proof.Machine.execShr d n a b s
  | .shri d n a y => Sys2Proof.Machine.execShri d n a y s
  | .sar d n a b => Sys2Proof.Machine.execSar d n a b s
  | .sari d n a y => Sys2Proof.Machine.execSari d n a y s
  | .rol d n a b => Sys2Proof.Machine.execRol d n a b s
  | .mul d n a b => Sys2Proof.Machine.execMul d n a b s
  | .mulh d n a b => Sys2Proof.Machine.execMulh d n a b s
  | .mulhn d n a b => Sys2Proof.Machine.execMulhn d n a b s
  | .div d n a b => Sys2Proof.Machine.execDiv d n a b s
  | .divn d n a b => Sys2Proof.Machine.execDivn d n a b s
  | .rem d n a b => Sys2Proof.Machine.execRem d n a b s
  | .remn d n a b => Sys2Proof.Machine.execRemn d n a b s
  | .min d n a b => Sys2Proof.Machine.execMin d n a b s
  | .max d n a b => Sys2Proof.Machine.execMax d n a b s
  | .minn d n a b => Sys2Proof.Machine.execMinn d n a b s
  | .maxn d n a b => Sys2Proof.Machine.execMaxn d n a b s
  | .clz d n a => Sys2Proof.Machine.execClz d n a s
  | .popc d n a => Sys2Proof.Machine.execPopc d n a s
  | .ext d n a f => Sys2Proof.Machine.execExt d n a f s
  | .li d y => Sys2Proof.Machine.execLi d y s
  | .lih d y => Sys2Proof.Machine.execLih d y s
  | .lea d n a b f => Sys2Proof.Machine.execLea d n a b f s
  | .hset d n a b f => Sys2Proof.Machine.execHset d n a b f s
  | .hget d n a f => Sys2Proof.Machine.execHget d n a f s
  | .cmp c p a b => Sys2Proof.Machine.execCmp c p a b s
  | .cmpi c p a y => Sys2Proof.Machine.execCmpi c p a y s
  | .plog d t a b => Sys2Proof.Machine.execPlog d t a b s
  | .sel d n a b g => Sys2Proof.Machine.execSel d n a b g s
  | .movpGet d => Sys2Proof.Machine.execMovpGet d s
  | .movpSet a => Sys2Proof.Machine.execMovpSet a s
  | .br p x o => Sys2Proof.Machine.execBr p x o s
  | .call p x o => Sys2Proof.Machine.execCall p x o s
  | .jr d a => Sys2Proof.Machine.execJr d a s
  | .loop c e => Sys2Proof.Machine.execLoop c e s
  | .loopReg a e => Sys2Proof.Machine.execLoopReg a e s
  | .loopn k e f c => Sys2Proof.Machine.execLoopn k e f c s
  | .nsetReg k a b => Sys2Proof.Machine.execNsetReg k a b s
  | .nsetImm k b x => Sys2Proof.Machine.execNsetImm k b x s
  | .nget d x k => Sys2Proof.Machine.execNget d x k s
  | .csrr d c => Sys2Proof.Machine.execCsrr d c s
  | .csrw a c => Sys2Proof.Machine.execCsrw a c s
  | .trap c => Sys2Proof.Machine.execTrap c s
  | .tret => Sys2Proof.Machine.execTret s
  | .brk c => Sys2Proof.Machine.execBrk c s
  | .dload a => Sys2Proof.Machine.execDload a s
  | .dfence => Sys2Proof.Machine.execDfence s
  | .iflush a b => Sys2Proof.Machine.execIflush a b s
  | .ldB d a o => Sys2Proof.Machine.execLdB d a o s
  | .ldBn d a o => Sys2Proof.Machine.execLdBn d a o s
  | .ldH d a o => Sys2Proof.Machine.execLdH d a o s
  | .ldHn d a o => Sys2Proof.Machine.execLdHn d a o s
  | .ldW d a o => Sys2Proof.Machine.execLdW d a o s
  | .ldWn d a o => Sys2Proof.Machine.execLdWn d a o s
  | .ldD d a o => Sys2Proof.Machine.execLdD d a o s
  | .lda d a z c g o => Sys2Proof.Machine.execLda d a z c g o s
  | .ldx d a b z x => Sys2Proof.Machine.execLdx d a b z x s
  | .stB x a g o => Sys2Proof.Machine.execStB x a g o s
  | .stH x a g o => Sys2Proof.Machine.execStH x a g o s
  | .stW x a g o => Sys2Proof.Machine.execStW x a g o s
  | .stD x a g o => Sys2Proof.Machine.execStD x a g o s
  | .stl x a g z c o => Sys2Proof.Machine.execStl x a g z c o s
  | .vld v a o => Sys2Proof.Machine.execVld v a o s
  | .vst v a g k m o => Sys2Proof.Machine.execVst v a g k m o s
  | .vgath d a y z x => Sys2Proof.Machine.execVgath d a y z x s
  | .vscat x a g y z => Sys2Proof.Machine.execVscat x a g y z s
  | .aadd d a b g c => Sys2Proof.Machine.execAadd d a b g c s
  | .aand d a b g c => Sys2Proof.Machine.execAand d a b g c s
  | .aor d a b g c => Sys2Proof.Machine.execAor d a b g c s
  | .axor d a b g c => Sys2Proof.Machine.execAxor d a b g c s
  | .amin d a b g c => Sys2Proof.Machine.execAmin d a b g c s
  | .amax d a b g c => Sys2Proof.Machine.execAmax d a b g c s
  | .aminn d a b g c => Sys2Proof.Machine.execAminn d a b g c s
  | .amaxn d a b g c => Sys2Proof.Machine.execAmaxn d a b g c s
  | .aswp d a b g c => Sys2Proof.Machine.execAswp d a b g c s
  | .acas d a b g c => Sys2Proof.Machine.execAcas d a b g c s
  | .mark c => Sys2Proof.Machine.execMark c s
  | .fence c => Sys2Proof.Machine.execFence c s
  | .lkup d a => Sys2Proof.Machine.execLkup d a s
  | .tins a b => Sys2Proof.Machine.execTins a b s
  | .tinv a => Sys2Proof.Machine.execTinv a s
  | .tstat d a => Sys2Proof.Machine.execTstat d a s
  | .loadReturn core quad => Sys2Proof.Machine.execLoadReturn core quad s
  | .vadd d a b t x => Sys2Proof.Machine.execVadd d a b t x s
  | .vsub d a b t x => Sys2Proof.Machine.execVsub d a b t x s
  | .vmul d a b t x => Sys2Proof.Machine.execVmul d a b t x s
  | .vfma d a b t c => Sys2Proof.Machine.execVfma d a b t c s
  | .vmin d a b t => Sys2Proof.Machine.execVmin d a b t s
  | .vmax d a b t => Sys2Proof.Machine.execVmax d a b t s
  | .vabs d a t x => Sys2Proof.Machine.execVabs d a t x s
  | .vneg d a t x => Sys2Proof.Machine.execVneg d a t x s
  | .vand d a b => Sys2Proof.Machine.execVand d a b s
  | .vor d a b => Sys2Proof.Machine.execVor d a b s
  | .vxor d a b => Sys2Proof.Machine.execVxor d a b s
  | .vshl d a b t y => Sys2Proof.Machine.execVshl d a b t y s
  | .vshr d a b t y => Sys2Proof.Machine.execVshr d a b t y s
  | .vsar d a b t y => Sys2Proof.Machine.execVsar d a b t y s
  | .vcmp m a b t y c => Sys2Proof.Machine.execVcmp m a b t y c s
  | .vsel d a b m => Sys2Proof.Machine.execVsel d a b m s
  | .vcvt d a b t h y => Sys2Proof.Machine.execVcvt d a b t h y s
  | .vred d a t g o => Sys2Proof.Machine.execVred d a t g o s
  | .vscan d a t x o => Sys2Proof.Machine.execVscan d a t x o s
  | .vperm d a b => Sys2Proof.Machine.execVperm d a b s
  | .vbcast d a t => Sys2Proof.Machine.execVbcast d a t s
  | .vextr d a e t l => Sys2Proof.Machine.execVextr d a e t l s
  | .vins d a e t l => Sys2Proof.Machine.execVins d a e t l s
  | .vrcp d a t => Sys2Proof.Machine.execVrcp d a t s
  | .vrsq d a t => Sys2Proof.Machine.execVrsq d a t s
  | .vexp2 d a t => Sys2Proof.Machine.execVexp2 d a t s
  | .vlog2 d a t => Sys2Proof.Machine.execVlog2 d a t s
  | .vsin d a t => Sys2Proof.Machine.execVsin d a t s
  | .vcos d a t => Sys2Proof.Machine.execVcos d a t s
  | .vact d a => Sys2Proof.Machine.execVact d a s
  | .vrng d a b k => Sys2Proof.Machine.execVrng d a b k s
  | .vqnt d a f => Sys2Proof.Machine.execVqnt d a f s
  | .vdqnt d a f => Sys2Proof.Machine.execVdqnt d a f s
  | .vdot4 d a b t c => Sys2Proof.Machine.execVdot4 d a b t c s
  | .vmovmMv d a => Sys2Proof.Machine.execVmovmMv d a s
  | .vmovmVm d m => Sys2Proof.Machine.execVmovmVm d m s
  | .vmovmMg m a => Sys2Proof.Machine.execVmovmMg m a s
  | .mlog d a b g f => Sys2Proof.Machine.execMlog d a b g f s
  | .vidx d t => Sys2Proof.Machine.execVidx d t s
  | .vqput a f => Sys2Proof.Machine.execVqput a f s
  | .vqget d f => Sys2Proof.Machine.execVqget d f s
  | .vli d k y => Sys2Proof.Machine.execVli d k y s
  | .repeatedVectorWord k sd sa sb sc op d a b t c => Sys2Proof.Machine.execRepeatedVectorWord k sd sa sb sc op d a b t c s
  | .dictionaryWord y p => Sys2Proof.Machine.execDictionaryWord y p s
  | .wld w x a b k f t p => Sys2Proof.Machine.execWld w x a b k f t p s
  | .wsel w x => Sys2Proof.Machine.execWsel w x s
  | .mstr w x base a c m f n p => Sys2Proof.Machine.execMstr w x base a c m f n p s
  | .mstq w x base q c m => Sys2Proof.Machine.execMstq w x base q c m s
  | .mstx w x base a c m f n p => Sys2Proof.Machine.execMstx w x base a c m f n p s
  | .mepiBias w x a => Sys2Proof.Machine.execMepiBias w x a s
  | .mepiScale w x a => Sys2Proof.Machine.execMepiScale w x a s
  | .mepiZero w x a => Sys2Proof.Machine.execMepiZero w x a s
  | .mepiAclr w x => Sys2Proof.Machine.execMepiAclr w x s
  | .mout w x base a k m eb ea eq f n c y => Sys2Proof.Machine.execMout w x base a k m eb ea eq f n c y s
  | .mgrp w y base a c nb f x t => Sys2Proof.Machine.execMgrp w y base a c nb f x t s
  | .mfade w x a => Sys2Proof.Machine.execMfade w x a s
  | .mact w x a => Sys2Proof.Machine.execMact w x a s
  | .mzero w x b c => Sys2Proof.Machine.execMzero w x b c s
  | .maccld w x base a m => Sys2Proof.Machine.execMaccld w x base a m s
  | .mnb w x a => Sys2Proof.Machine.execMnb w x a s
  | .mstat w x d => Sys2Proof.Machine.execMstat w x d s
  | .mprog w x n => Sys2Proof.Machine.execMprog w x n s
  | .msig w x => Sys2Proof.Machine.execMsig w x s
  | .mcan w x => Sys2Proof.Machine.execMcan w x s
  | .matrixCommandComplete core => Sys2Proof.Machine.execMatrixCommandComplete core s
  | .cpy c d x b => Sys2Proof.Machine.execCpy c d x b s
  | .cpyLong c d x b tv tag sl cv sf df qe => Sys2Proof.Machine.execCpyLong c d x b tv tag sl cv sf df qe s
  | .cpyn c d x r k => Sys2Proof.Machine.execCpyn c d x r k s
  | .cpynLong c d x r k tv tag sl cv sf df sd mc => Sys2Proof.Machine.execCpynLong c d x r k tv tag sl cv sf df sd mc s
  | .chain c a => Sys2Proof.Machine.execChain c a s
  | .drain c l y => Sys2Proof.Machine.execDrain c l y s
  | .twall a y => Sys2Proof.Machine.execTwall a y s
  | .twany a y => Sys2Proof.Machine.execTwany a y s
  | .tfind d a => Sys2Proof.Machine.execTfind d a s
  | .tclr a => Sys2Proof.Machine.execTclr a s
  | .pfh c a b => Sys2Proof.Machine.execPfh c a b s
  | .pfhAdapt c a b => Sys2Proof.Machine.execPfhAdapt c a b s
  | .send c d a b => Sys2Proof.Machine.execSend c d a b s
  | .drop c a => Sys2Proof.Machine.execDrop c a s
  | .pqry c d a => Sys2Proof.Machine.execPqry c d a s
  | .pull h a b n => Sys2Proof.Machine.execPull h a b n s
  | .pullLong h a b n tv tag => Sys2Proof.Machine.execPullLong h a b n tv tag s
  | .bopen t => Sys2Proof.Machine.execBopen t s
  | .bclose t => Sys2Proof.Machine.execBclose t s
  | .bwait d t y => Sys2Proof.Machine.execBwait d t y s
  | .bsel t => Sys2Proof.Machine.execBsel t s
  | .sqst d a => Sys2Proof.Machine.execSqst d a s
  | .slotw d a b => Sys2Proof.Machine.execSlotw d a b s
  | .copyBurst core => Sys2Proof.Machine.execCopyBurst core s
  | .copyJobCompletion core ch => Sys2Proof.Machine.execCopyJobCompletion core ch s
  | .chainRecordFetch core ch => Sys2Proof.Machine.execChainRecordFetch core ch s
  | .qbindReg q a => Sys2Proof.Machine.execQbindReg q a s
  | .qbindLabel q o => Sys2Proof.Machine.execQbindLabel q o s
  | .qres d q y => Sys2Proof.Machine.execQres d q y s
  | .qcmt a q => Sys2Proof.Machine.execQcmt a q s
  | .qacq d q y => Sys2Proof.Machine.execQacq d q y s
  | .qrel a q => Sys2Proof.Machine.execQrel a q s
  | .qstat d q => Sys2Proof.Machine.execQstat d q s
  | .hand g q y => Sys2Proof.Machine.execHand g q y s
  | .role m x => Sys2Proof.Machine.execRole m x s
  | .tbar => Sys2Proof.Machine.execTbar s
  | .cbar => Sys2Proof.Machine.execCbar s
  | .smwait k y => Sys2Proof.Machine.execSmwait k y s
  | .smsig k => Sys2Proof.Machine.execSmsig k s
  | .sigw a b y => Sys2Proof.Machine.execSigw a b y s
  | .sigwCond a b y c => Sys2Proof.Machine.execSigwCond a b y c s
  | .sigadd a b c => Sys2Proof.Machine.execSigadd a b c s
  | .awaitEq a b => Sys2Proof.Machine.execAwaitEq a b s
  | .awaitGen a b => Sys2Proof.Machine.execAwaitGen a b s
  | .awaitTags b => Sys2Proof.Machine.execAwaitTags b s
  | .yield => Sys2Proof.Machine.execYield s
  | .tend => Sys2Proof.Machine.execTend s
  | .spawn d a b => Sys2Proof.Machine.execSpawn d a b s
  | .guard k a => Sys2Proof.Machine.execGuard k a s
  | .stge k a b => Sys2Proof.Machine.execStge k a b s
  | .stwt k y => Sys2Proof.Machine.execStwt k y s
  | .teamid d => Sys2Proof.Machine.execTeamid d s
  | .qsubmit b a => Sys2Proof.Machine.execQsubmit b a s
  | .engineTrapTaken core quad => Sys2Proof.Machine.execEngineTrapTaken core quad s
  | .waitLimitExpiry core quad => Sys2Proof.Machine.execWaitLimitExpiry core quad s
  | .waitYield core => Sys2Proof.Machine.execWaitYield core s
  | .watchdogExpiry core quad => Sys2Proof.Machine.execWatchdogExpiry core quad s
  | .homeRequest f => Sys2Proof.Machine.execHomeRequest f s
  | .tlbWalk f => Sys2Proof.Machine.execTlbWalk f s
  | .migrationComplete f => Sys2Proof.Machine.execMigrationComplete f s
  | .pullDataArrival f => Sys2Proof.Machine.execPullDataArrival f s
  | .pullWaitTimeout core quad => Sys2Proof.Machine.execPullWaitTimeout core quad s
  | .stallTimeout f => Sys2Proof.Machine.execStallTimeout f s
  | .leaseRenewal f => Sys2Proof.Machine.execLeaseRenewal f s
  | .linkExpiry f l => Sys2Proof.Machine.execLinkExpiry f l s
  | .packetSend dst => Sys2Proof.Machine.execPacketSend dst s
  | .e2eTimeout dst => Sys2Proof.Machine.execE2eTimeout dst s
  | .packetStart q => Sys2Proof.Machine.execPacketStart q s
  | .tickLaunch q => Sys2Proof.Machine.execTickLaunch q s
  | .dispatchPlacement f => Sys2Proof.Machine.execDispatchPlacement f s
  | .locusEntryStart core => Sys2Proof.Machine.execLocusEntryStart core s
  | .taskDone task => Sys2Proof.Machine.execTaskDone task s
  | .budgetOverrun core => Sys2Proof.Machine.execBudgetOverrun core s
  | .taskSuspend core cause => Sys2Proof.Machine.execTaskSuspend core cause s
  | .switchAway core => Sys2Proof.Machine.execSwitchAway core s
  | .awaitConditionMet task => Sys2Proof.Machine.execAwaitConditionMet task s
  | .contextSave core => Sys2Proof.Machine.execContextSave core s
  | .saveComplete core => Sys2Proof.Machine.execSaveComplete core s
  | .freezeEnd core => Sys2Proof.Machine.execFreezeEnd core s
  | .illegalEncoding sub => Sys2Proof.Machine.execIllegalEncoding sub s
  | .exposedResultLanding core quad => Sys2Proof.Machine.execExposedResultLanding core quad s
  | .restoreComplete core => Sys2Proof.Machine.execRestoreComplete core s
  | .mprogRowsWritten core => Sys2Proof.Machine.execMprogRowsWritten core s
  | .locusRefine c hash => Sys2Proof.Machine.execLocusRefine c hash s
  | .linkRelease f l => Sys2Proof.Machine.execLinkRelease f l s
  | .pageReady f asid off => Sys2Proof.Machine.execPageReady f asid off s
  | .migrate f asid off ffac frame => Sys2Proof.Machine.execMigrate f asid off ffac frame s
  | .migclr f v => Sys2Proof.Machine.execMigclr f v s
  | .nqheadWrite f v => Sys2Proof.Machine.execNqheadWrite f v s
  | .tlbinvPage f asid vpn => Sys2Proof.Machine.execTlbinvPage f asid vpn s
  | .tlbinvAsid f asid => Sys2Proof.Machine.execTlbinvAsid f asid s
  | .tlbinvAll f => Sys2Proof.Machine.execTlbinvAll f s
  | .packetReceive => Sys2Proof.Machine.execPacketReceive s
  | .e2eAcknowledgement => Sys2Proof.Machine.execE2eAcknowledgement s
  | .linkReplayRequest fibre chan lseq => Sys2Proof.Machine.execLinkReplayRequest fibre chan lseq s
  | .linkCreditReturn fibre chan n => Sys2Proof.Machine.execLinkCreditReturn fibre chan n s
  | .reservationReturn dst n quota => Sys2Proof.Machine.execReservationReturn dst n quota s
  | .summaryRequest => Sys2Proof.Machine.execSummaryRequest s
  | .summaryReply => Sys2Proof.Machine.execSummaryReply s
  | .slotStart => Sys2Proof.Machine.execSlotStart s
  | .tableActivate => Sys2Proof.Machine.execTableActivate s
  | .fabactLoad v => Sys2Proof.Machine.execFabactLoad v s
  | .rquotaWrite x v => Sys2Proof.Machine.execRquotaWrite x v s
  | .sqDoorbell q v => Sys2Proof.Machine.execSqDoorbell q v s
  | .taskKill task => Sys2Proof.Machine.execTaskKill task s
  | .preempt c => Sys2Proof.Machine.execPreempt c s
  | .resumeContext c => Sys2Proof.Machine.execResumeContext c s
  | .coreoffWrite f k v => Sys2Proof.Machine.execCoreoffWrite f k v s
  | .locinv c v => Sys2Proof.Machine.execLocinv c v s
  | .locinva c => Sys2Proof.Machine.execLocinva c s
  | .sqctlWrite q v => Sys2Proof.Machine.execSqctlWrite q v s
  | .sqerrClear q => Sys2Proof.Machine.execSqerrClear q s
  | .ciqctlWrite c v => Sys2Proof.Machine.execCiqctlWrite c v s
  | .feataccWrite v => Sys2Proof.Machine.execFeataccWrite v s
  | .dbgRead => Sys2Proof.Machine.execDbgRead s
  | .dbgWrite => Sys2Proof.Machine.execDbgWrite s
  | .dbgFreeze => Sys2Proof.Machine.execDbgFreeze s
  | .dbgThaw => Sys2Proof.Machine.execDbgThaw s
  | .dbgauthGo => Sys2Proof.Machine.execDbgauthGo s
  | .dbgauthLock => Sys2Proof.Machine.execDbgauthLock s
  | .eccCorrected core => Sys2Proof.Machine.execEccCorrected core s
  | .eccUncorrectable core owned => Sys2Proof.Machine.execEccUncorrectable core owned s
  | .clockStep f up => Sys2Proof.Machine.execClockStep f up s
  | .thermalShutdown => Sys2Proof.Machine.execThermalShutdown s
  | .powerOn => Sys2Proof.Machine.execPowerOn s
  | .registerWrite r v => Sys2Proof.Machine.execRegisterWrite r v s
  | .powerOff => Sys2Proof.Machine.execPowerOff s
  | .dbgauthVerifyDone => Sys2Proof.Machine.execDbgauthVerifyDone s
  | .fabimgLoadDone => Sys2Proof.Machine.execFabimgLoadDone s

end Sys2Proof.Machine
end

