-- ==== Sys2Proof/Machine/Schedule.lean ====
section
/-! DEFINITION. Whose turn it is: the step of the part that comes next in time (R10, R23, R38), and the instruction or event that it then
performs. -/

namespace Sys2Proof.Machine

/-- A step that is due: an event of the table, the splitter of a quadrant, the head of its load, store or vector queue, a cycle of the matrix engine, an
instruction at a hart's port, a cycle that a throttled facet leaves out. -/
inductive Due where
  | event (i : Instr)
  | splitter (core quad : Nat)
  | memory (core quad : Nat) (stores : Bool)
  | vector (core quad : Nat)
  | matrix (core : Nat)
  | hart (h : Nat)
  | skip (f : Nat)
  deriving DecidableEq, Repr

/-- The cycle in which a TIME has come, in ns (R2, R365). -/
def cycleOf (t : Nat) : Nat := cdiv (47 * t) 50

/-! ### Cores -/

/-- Does a core run, not frozen by the debugger or by a correctable error (R404, R405)? -/
def State.coreRuns (s : State) (c : Nat) : Bool :=
  let k := s.core c
  !k.stands && (match k.task with
    | some t => (decide ((s.task t).st = .running) && decide ((s.task t).stage = 0)) || decide ((s.task t).st = .ending)
    | none => false)

/-- The answer to the head of a load queue that has asked another package. -/
def answerDue (c u : Nat) (q : Quad) : List (Nat × Due) :=
  if q.memTok.isSome && q.memReply.isSome && !q.memQ.isEmpty then [(q.memAt, .event (.loadReturn c u))] else []

/-- The heads of the two memory queues; while the load queue awaits an answer, entries that wait for registers may still read them. -/
def memoryDue (c u : Nat) (q : Quad) : List (Nat × Due) :=
  (if (q.headOf false).isNone ∨ (q.memTok.isSome ∧ !q.memQ.any (·.waits)) then [] else [(q.memAt, .memory c u false)])
  ++ (if (q.headOf true).isNone then [] else [(q.storeAt, .memory c u true)])

/-- What a quadrant could do, with the cycle in which it could: its memory queues, its vector queue, its splitter. -/
def quadDue (c u : Nat) (q : Quad) : List (Nat × Due) :=
  memoryDue c u q ++ answerDue c u q
  ++ (if q.vecQ.isEmpty ∨ (q.trapWait.isSome ∧ q.vecHeld) then [] else [(q.vecAt, .vector c u)])
  ++ (if q.idle ∨ q.ended then [] else [(q.cyc, .splitter c u)])

/-- The exposed result of a quadrant that lands first (R43). -/
def landDueAt (c u : Nat) (q : Quad) : List (Nat × Due) :=
  match q.pend.filter (fun p => decide (p.eng ≠ 3)) with
  | [] => []
  | p :: r => [(r.foldl (fun t x => min t x.land) p.land, .event (.exposedResultLanding c u))]

/-- What the matrix engine of a core could do: complete a command, or go on by a cycle; `starts`: it may start one. -/
def matrixDue (c : Nat) (k : Core) (starts : Bool) : List (Nat × Due) :=
  (match k.finished false with | some r => [(r.doneAt.getD 0 + 1, .event (.matrixCommandComplete c))] | none => [])
  ++ (match k.finished true with | some r => [(r.doneAt.getD 0 + 1, .event (.mprogRowsWritten c))] | none => [])
  ++ (if (k.mq.isEmpty ∨ k.mq.head?.any (fun m => k.halt && m.fault) ∨ !starts) ∧ k.mrun.all (fun r => r.doneAt.isSome) then [] else [(k.mAt, .matrix c)])

/-- A core whose task is being saved: vector words that still issue, answers, matrix commands that finish (R76, R227). -/
def stoppingDue (c : Nat) (k : Core) : List (Nat × Due) :=
  matrixDue c k false
  ++ (if isWalk c then [0] else k.order).flatMap (fun u =>
    let q := k.quad u
    answerDue c u q ++ (if k.vecStopped q then [] else [(q.vecAt, .vector c u)]))

/-- The units of a running core: the matrix engine, then the quadrants, the one served least recently first (R23, R41, R192, R199). -/
def runningDue (c : Nat) (k : Core) : List (Nat × Due) :=
  matrixDue c k true ++ (if isWalk c then [0] else k.order).flatMap (fun u => quadDue c u (k.quad u))

def State.unitsDue (s : State) : List (Nat × Due) :=
  s.cores.cells.flatMap (fun (c, k) =>
    if s.coreRuns c then runningDue c k
    else match k.task with
      | some t => if (s.task t).st = .running ∧ (s.task t).stage = 1 ∧ !k.stands then stoppingDue c k else []
      | none => [])

/-- The event by which a packet comes in. -/
def Packet.arrivalEvent (p : Packet) : Due :=
  .event (if p.ty = 14 then .e2eAcknowledgement else if p.ty = 11 then .summaryReply else if p.ty = 9 then .pullDataArrival (p.token % 8) else .packetReceive)

/-- The installs of links, from their arrival on: they come before the stores that reach the origin's home in the same cycle (R262, R271). -/
def State.installsDue (s : State) : List (Nat × Due) :=
  s.cores.cells.flatMap (fun (c, k) =>
    if k.stands then []
    else k.chans.cells.filterMap (fun (_, x) => match x.active with
      | j :: _ => if j.kind = .send ∧ j.phase = 3 ∧ !j.fin ∧ j.runs (s.stoppedTask c) ∧ k.mayRun x j then some (max k.burst j.nextAt, .event (.copyBurst c)) else none
      | [] => none))
  ++ s.facets.cells.flatMap (fun (f, x) =>
    (x.reqQ.filter (fun e => e.packet.installs && decide (e.nextAt < never) && s.inOrder f e.packet)).map (fun e => (e.nextAt, .event (.homeRequest f))))
  ++ (match s.nextArrival with
    | some p => if s.fabric.arrivals.any (fun x => x.installs && decide (x.dueIn ≤ p.dueIn)) then [(max s.cycle p.dueIn, p.arrivalEvent)] else []
    | none => [])

/-- The copy engines, also of tasks that are away (R317). -/
def State.copyDue (s : State) : List (Nat × Due) :=
  s.cores.cells.flatMap (fun (c, k) =>
    if k.stands then [] else (s.copyTimes c).map (fun x => (x.1, .event x.2)))

/-- Limits and landings of a running core. -/
def State.limitsDue (s : State) : List (Nat × Due) :=
  s.cores.cells.flatMap (fun (c, k) =>
    if !s.coreRuns c then []
    else
      (quadsIn c).flatMap (fun u => landDueAt c u (k.quad u)
        ++ (match s.watchdogAt c u with | some t => [(t, .event (.watchdogExpiry c u))] | none => []))
      ++ (match s.overrunAt c with | some t => [(t, .event (.budgetOverrun c))] | none => [])
      ++ (if s.switchReady c then [(s.cycle, .event (.switchAway c))] else [])
      ++ (if s.yieldReady c then [(s.cycle, .event (.waitYield c))] else []))
  ++ s.cores.cells.flatMap (fun (c, k) => if k.eccFreeze = 0 then [] else [(k.eccFreeze, .event (.freezeEnd c))])

/-! ### Tasks and launches -/

/-- A task's save, restore, conditions and end. -/
def State.tasksDue (s : State) : List (Nat × Due) :=
  s.tasks.cells.flatMap (fun (t, x) =>
    let lead := x.units.headD 0
    (if x.st = .running ∧ x.stage ≠ 0 ∧ !x.units.any (fun c => (s.core c).stands) then
      [(x.saveAt, .event (if x.stage = 1 then .contextSave lead else if x.stage = 2 ∨ x.stage = 4 then .saveComplete lead else .restoreComplete lead))] else [])
    ++ (if s.condDue t then [(s.cycle, .event (.awaitConditionMet t))]
        else if s.condAsks t then [(x.saveAt, .event (.awaitConditionMet t))] else [])
    ++ (if s.endReady t ∧ !x.units.any (fun c => (s.core c).stands) then [(s.cycle, .event (.taskDone t))] else []))

/-- Ticks that are due (R349), then the queues that could start a packet, from the one after the last that did (R331). -/
def State.queuesDue (s : State) : List (Nat × Due) :=
  let l := s.queues.cells.filter (fun (_, x) => x.en && decide (x.errCode = 0) && decide (x.widx ≠ x.ridx))
  s.queues.cells.flatMap (fun (q, x) =>
    (x.ticks.filter (fun t => decide (t.left ≠ some 0))).map (fun t => (max x.tryAt (cycleOf t.nextAt), .event (.tickLaunch q))))
  ++ (l.filter (fun x => decide (s.hub.lastQ < x.1)) ++ l.filter (fun x => decide (x.1 ≤ s.hub.lastQ))).map (fun (q, x) => (x.tryAt, .event (.packetStart q)))

/-- Later cycles at which cores fall free, or nodes that met a page may be tried again: a dispatcher that can place nothing now looks again then. -/
def State.freeTimes (s : State) (cores : Nat → Bool) : List Nat :=
  if !s.launches.cells.any (fun l => l.2.active) then []
  else (s.cores.cells.filter (fun c => cores c.1 && c.2.task.isNone && decide (s.cycle < c.2.freeAt))).map (fun c => c.2.freeAt)
    ++ s.launches.cells.flatMap (fun (_, l) =>
      if l.active then (l.nodes.cells.filter (fun n => n.2.ready.isSome && !n.2.done && decide (s.cycle < n.2.tryAt))).map (fun n => n.2.tryAt) else [])

/-- The cycles at which a node that waits rises in effective priority (R336): then it may go before a locus entry (R344). -/
def State.agingTimes (s : State) : List Nat :=
  if s.launches.cells.all (fun l => l.2.replay.cells.isEmpty) then []
  else s.launches.cells.flatMap (fun (_, l) =>
    if l.active then l.nodes.cells.filterMap (fun (_, n) =>
      match n.ready with
      | some r => if n.done ∨ 3 ≤ effPrio s.cycle n.prio r then none else some (r + 65536 * ((s.cycle - r) / 65536 + 1))
      | none => none)
    else [])

def State.placeDue (s : State) : List (Nat × Due) :=
  if s.tasks.cells.isEmpty ∧ s.launches.cells.isEmpty then []
  else (List.range 8).flatMap (fun f =>
      if s.untidy f ∨ (s.plan f).isSome then [((s.facet f).dispatchAt, .event (.dispatchPlacement f))]
      else (s.freeTimes (fun c => decide (facetOf c = f)) ++ s.agingTimes).map (fun t => (max t (s.facet f).dispatchAt, .event (.dispatchPlacement f))))
    ++ (s.launches.cells.flatMap (fun (_, l) => l.replay.keys)).flatMap (fun c =>
      if (s.locusStep c).isSome then [(s.cycle, .event (.locusEntryStart c))]
      else (s.freeTimes (fun k => decide (k = c))).map (fun t => (t, .event (.locusEntryStart c))))

/-! ### Homes and the fabric -/

/-- Requests at the home of a facet, or at the hub (8). -/
def State.homeDue (s : State) : List (Nat × Due) :=
  s.facets.cells.flatMap (fun (f, x) =>
    (x.reqQ.filter (fun e => s.inOrder f e.packet)).flatMap (fun e =>
      (if never ≤ e.nextAt then (if s.reqDue f e then [(s.cycle, .event (.homeRequest f))] else []) else [(e.nextAt, .event (.homeRequest f))])
      ++ (match e.since with
        | some t => if e.packet.stallmax = 0 then [] else [(t + e.packet.stallmax + 1, .event (.stallTimeout f))]
        | none => []))
    ++ x.walks.map (fun w => (w.doneAt, .event (.tlbWalk f)))
    ++ (match x.moving with | some m => [(m.doneAt, .event (.migrationComplete f))] | none => [])
    ++ x.slots.cells.flatMap (fun (_, y) => if y.st = .live then [(cycleOf y.renewAt, .event (.leaseRenewal f))] else [])
    ++ x.links.cells.flatMap (fun (l, y) => if y.v then [(cycleOf (y.renewed + 8000000), .event (.linkExpiry f l))] else []))

/-- What has come in from other packages. -/
def State.arrivalDue (s : State) : List (Nat × Due) :=
  (match s.nextArrival with
    | none => []
    | some p => [(max s.cycle p.dueIn, p.arrivalEvent)])
  ++ (if s.question.isSome then [(s.cycle, .event .summaryRequest)] else [])

/-- The times after now at which a circuit to a package may become free: in the slot now, or in the one after it. -/
def SlotTab.tries (t : SlotTab) (s : State) (dst : Nat) : List Nat :=
  let k := t.slotNow s.time
  let start := s.time - t.within s.time
  let next := (k + 1) % t.nslot
  ((start + t.guard k) :: (start + t.len k + t.guard next) :: (t.circuitsTo s.pkg dst k).map (fun c => (s.circuit c).freeAt)).filter (fun x => decide (s.time < x))

/-- When a package's send queue, or a circuit that replays to it, is tried next (R371). -/
def State.sendDue (s : State) : List (Nat × Due) :=
  match s.fabric.active with
  | none => []
  | some t =>
    let busy (dst : Nat) : Bool := s.fabric.sendq.get [] dst ≠ [] || s.fabric.circuits.cells.any (fun c =>
      c.2.replay.head?.any (fun p => decide (p.dpkg = dst)))
    ((List.range 64).filter busy).flatMap (fun dst =>
      if (s.nextSend dst).isSome then [(s.cycle, .event (.packetSend dst))]
      else match (t.tries s dst).map cycleOf ++ (s.fabric.sendq.get [] dst).flatMap (fun p => [p.at_ + 40, p.at_ + 100].filter (fun x => decide (s.cycle < x))) with
        | [] => []
        | x :: r => [(r.foldl min x, .event (.packetSend dst))])

/-- When the first timer of a package's packets runs out, if it does in the slot now (R376). -/
def State.timerDue (s : State) : List (Nat × Due) :=
  match s.fabric.active with
  | none => []
  | some t =>
    let k := t.slotNow s.time
    let wait := t.guard k - t.within s.time
    s.fabric.flows.flatMap (fun (key, f) =>
      let dst := key % 64
      f.unacked.filterMap (fun u =>
        match u.sentAt with
        | none => none
        | some v =>
          let overAt := v + 20000
          let now := s.servedNs dst
          if overAt ≤ now then some (s.cycle, .event (.e2eTimeout dst))
          else if t.lists s.pkg dst k then some (cycleOf (s.time + wait + (overAt - now)), .event (.e2eTimeout dst)) else none))

def State.hubDue (s : State) : List (Nat × Due) :=
  (if s.hub.tree ≠ [] then [(s.cycle, .event (.homeRequest 8))] else if s.hub.signals = [] ∧ s.hub.invals = [] then [] else [(s.hub.signalAt, .event (.homeRequest 8))])
  ++ (match s.fabric.active with | some _ => [(cycleOf s.fabric.slotAt, .event .slotStart)] | none => [])
  ++ (match s.fabric.shadow with | some (_, at_) => [(cycleOf at_, .event .tableActivate)] | none => [])
  ++ s.hub.refines.map (fun x => (x.1, .event (.locusRefine x.2.1 (BitVec.ofNat 64 x.2.2))))
  ++ (match s.hub.fabAt with | some t => [(t, .event .fabimgLoadDone)] | none => [])
  ++ (if s.hub.authRes = 3 then [(s.cycle, .event .dbgauthVerifyDone)] else [])
  ++ (match s.portHart with | some h => [(s.cycle, .hart h)] | none => [])

/-- The cycles that throttled facets leave out (R415). -/
def State.skipsDue (s : State) : List (Nat × Due) :=
  s.facets.cells.filterMap (fun (f, x) => (x.nextSkip s.cycle).map (fun t => (t, .skip f)))

/-- Everything that is due; of two at one cycle the first listed goes first. -/
def State.allDue (s : State) : List (Nat × Due) :=
  s.skipsDue ++ s.installsDue ++ s.unitsDue ++ s.copyDue ++ s.limitsDue ++ s.tasksDue ++ s.queuesDue ++ s.placeDue ++ s.homeDue ++ s.arrivalDue ++ s.sendDue ++ s.timerDue ++ s.hubDue

/-! ### The next step -/

/-- The earliest, the first listed of several. -/
def earliest : List (Nat × Due) → Option (Nat × Due)
  | [] => none
  | x :: r =>
    match earliest r with
    | none => some x
    | some y => if x.1 ≤ y.1 then some x else some y

/-- Time goes on to a cycle of the 940 MHz clock; TIME counts nanoseconds (R2, R365). -/
def State.advance (s : State) (t : Nat) : State :=
  let c := max s.cycle t
  { s with cycle := c, time := c * 50 / 47 }

/-- The splitter's turn: a trap that waits for the vector words, a trap that an engine has raised, an advance that waits, or the next word. -/
def State.splitterTurn (s : State) : State × Option Instr :=
  if s.me.trapWait.isSome then (s.trapTurn, none)
  else if s.me.trapReqs ≠ [] ∧ s.me.ask.isNone then (s, some (.engineTrapTaken s.cur.core s.cur.quad))
  else if s.me.adv ≠ [] then (s.updMe Quad.advTurn, none)
  else s.fetchInstr

/-- The instruction at a hart's coprocessor port: QSUBMIT, or an access to QSASID. -/
def State.hartTurn (s : State) (h : Nat) : State × Option Instr :=
  let w := (s.hart h).port.getD 0
  match decodeHart w, s.hartCsr h w with
  | some i, _ => (s, some i)
  | none, some s => (s, none)
  | none, none => (s.hartIllegal h w, none)

/-- The step that comes next: the instruction to execute, if it is one, else the state after the step. While the package has no power, or has not booted, its facets stay in reset: only time
goes on (R412). -/
def State.nextInstr (s : State) : State × Option Instr :=
  if !(s.powered && s.hub.booted) then (s.advance (s.cycle + 1), none)
  else match s.agenda with
  | i :: r => ({ s with agenda := r }, some i)
  | [] =>
    match earliest s.allDue with
    | none => (s.advance (s.cycle + 1), none)
    | some (t, .event i) => (s.advance t, some i)
    | some (t, .splitter c u) => ({ s.advance t with cur := { core := c, quad := u } }).splitterTurn
    | some (t, .vector c u) => (({ s.advance t with cur := { core := c, quad := u } }).vecTurn, none)
    | some (t, .matrix c) => ((s.advance t).matrixTurn c, none)
    | some (t, .memory c u stores) => (({ s.advance t with cur := { core := c, quad := u } }).memTurn stores, none)
    | some (t, .hart h) => (s.advance t).hartTurn h
    | some (t, .skip f) => ((s.advance t).skipCycle f, none)

end Sys2Proof.Machine
end

