-- ==== Sys2Proof/Machine/Step.lean ====
section
/-! DEFINITION. One step of the package, and the state in which a given instruction is the next to run. -/

namespace Sys2Proof.Machine

def step (s : State) : Host.Outcome State Fault Refusal :=
  match s.nextInstr with
  | (s, some i) =>
    match exec i s with
    | .next t => settled t
    | x => x
  | (s, none) => settled s

namespace State

/-- The state in which the instruction with bits `w` is the next one to be fetched: core 0 runs a plain task whose one bank holds the
word at its program counter, the features are agreed, and the same word stands at the port of supervisor hart 0 where no quadrant
has such a word (log entry 40). -/
def withFetchWord (s : State) (nbits w : Nat) : State :=
  s.placeWord nbits w

end State
end Sys2Proof.Machine
end

