-- ==== Sys2Proof/Safety.lean ====
section
/-! DEFINITION. What a safe run is: no step meets a frame beyond the stacks, and memory keeps its canonical form. -/

namespace Sys2Proof.Machine

/-- The invariant of every reachable state: memory is in its one canonical form. -/
def Inv (s : State) : Prop := s.memWf = true

/-- `k` steps end in a next state. -/
def runsFor (k : Nat) (s : State) : Prop := ∃ t, Sys2Proof.core.run k s = .next t

end Sys2Proof.Machine
end

