-- ==== Sys2Proof/Certificates/Slice0/Obligations.lean ====
section
/-! DEFINITION. The statements for the provers, and what they are stated in: each part says, in its own terms, what the rules of the
manual that it names give. -/

namespace Sys2Proof.Claim
open Sys2Proof.Machine

/-- Nothing has changed but the quadrant whose turn it is: not the rest of its core, not another core, not anything of the package besides,
and every byte of memory reads as before. -/
def OnlyMe (s t : State) : Prop :=
  ({ t with cores := s.cores } : State) = s ∧ (∀ c, c ≠ s.cur.core → t.core c = s.core c)
    ∧ t.myCore.setQuad s.cur.quad s.me = s.myCore ∧ ∀ key, t.byteAt key = s.byteAt key

/-- Nothing has changed but the core whose turn it is. -/
def OnlyMyCore (s t : State) : Prop :=
  ({ t with cores := s.cores } : State) = s ∧ (∀ c, c ≠ s.cur.core → t.core c = s.core c) ∧ ∀ key, t.byteAt key = s.byteAt key

/-- Nothing that the word `u` at the splitter reads or writes, as a word of engine `eng` (0 the scalar pipeline, 7 the splitter for another engine), is owed to the quadrant whose
turn it is, or in flight from another engine and not to land by its cycle (R42). -/
def Free (s : State) (u : Use) (eng : Nat := 0) : Prop := s.me.owes u = false ∧ s.me.readyAt u eng ≤ s.me.cyc

/-- Quadrant `w` is `q` with `x` written to g register `d` by a one-cycle word: g0 discards it (R45), and a product that lands in the same
cycle loses the register (R43). -/
def WritesG (q w : Quad) (d : Nat) (x : Word) : Prop :=
  (∀ k, w.gr k = if k = d ∧ d ≠ 0 then x else q.gr k)
    ∧ w.pend = q.pend.map (fun p => if engOf p.eng = 0 ∧ p.dst = .g d ∧ p.land = q.cyc + 1 then { p with dst := .none } else p)

/-- Latch `l` alone holds `x`. -/
def WritesB (q w : Quad) (l : Nat) (x : Word) : Prop := ∀ k, w.br k = if k = l then x else q.br k

/-- Everything of a quadrant but its g registers, latches and products in flight is the same. -/
def RestOfRegs (q w : Quad) : Prop := ({ w with g := q.g, b := q.b, pend := q.pend } : Quad) = q

/-- The word completes with the quadrant as `eff` leaves it: the loop end test is made, the next word follows after `n` bubbles (R75, R97). -/
def CompletesMe (i : Instr) (s : State) (n : Nat) (eff : Quad → Prop) : Prop :=
  ∃ t w, exec i s = .next t ∧ OnlyMe s t ∧ t.me = w.retire n ∧ eff w

/-! ### Integer words -/

/-- What an integer word reads, where its result goes and what the result is, in terms of the quadrant that it finds. -/
structure Result where
  reads : List (BitVec 6)
  d : BitVec 6
  val : Quad → Word

/-- A destination field under its n bit (R45). -/
def suppress (n : BitVec 1) (d : BitVec 6) : BitVec 6 := if n = 1 then 0 else d

/-- The first `n` bits of `a` from the top that are zero. -/
def leadingZeros (a : Word) : Nat := ((List.range 64).find? (fun i => a.getLsbD (63 - i))).getD 64

/-- EXT's width (R82). -/
def extWidth (f : BitVec 4) : Nat := 8 * 2 ^ (f.toNat % 4)

/-- The results that the tables of R79 to R90 give. -/
def resultOf : Instr → Option Result
  | .add d n a b => some ⟨[a, b], suppress n d, fun q => BitVec.ofNat 64 ((q.src a).toNat + (q.src b).toNat)⟩
  | .addi d n a i => some ⟨[a], suppress n d, fun q => BitVec.ofInt 64 ((q.src a).toInt + i.toInt)⟩
  | .sub d n a b => some ⟨[a, b], suppress n d, fun q => BitVec.ofInt 64 ((q.src a).toInt - (q.src b).toInt)⟩
  | .and d n a b => some ⟨[a, b], suppress n d, fun q => q.src a &&& q.src b⟩
  | .andi d n a i => some ⟨[a], suppress n d, fun q => q.src a &&& i.signExtend 64⟩
  | .or d n a b => some ⟨[a, b], suppress n d, fun q => q.src a ||| q.src b⟩
  | .ori d n a i => some ⟨[a], suppress n d, fun q => q.src a ||| i.signExtend 64⟩
  | .xor d n a b => some ⟨[a, b], suppress n d, fun q => q.src a ^^^ q.src b⟩
  | .xori d n a i => some ⟨[a], suppress n d, fun q => q.src a ^^^ i.signExtend 64⟩
  | .andn d n a b => some ⟨[a, b], suppress n d, fun q => q.src a &&& ~~~q.src b⟩
  | .shl d n a b => some ⟨[a, b], suppress n d, fun q => BitVec.ofNat 64 ((q.src a).toNat * 2 ^ ((q.src b).toNat % 64))⟩
  | .shli d n a i => some ⟨[a], suppress n d, fun q => BitVec.ofNat 64 ((q.src a).toNat * 2 ^ i.toNat)⟩
  | .shr d n a b => some ⟨[a, b], suppress n d, fun q => BitVec.ofNat 64 ((q.src a).toNat / 2 ^ ((q.src b).toNat % 64))⟩
  | .shri d n a i => some ⟨[a], suppress n d, fun q => BitVec.ofNat 64 ((q.src a).toNat / 2 ^ i.toNat)⟩
  | .sar d n a b => some ⟨[a, b], suppress n d, fun q => BitVec.ofInt 64 ((q.src a).toInt / 2 ^ ((q.src b).toNat % 64))⟩
  | .sari d n a i => some ⟨[a], suppress n d, fun q => BitVec.ofInt 64 ((q.src a).toInt / 2 ^ i.toNat)⟩
  | .rol d n a b => some ⟨[a, b], suppress n d, fun q =>
      (q.src a <<< ((q.src b).toNat % 64)) ||| (q.src a >>> (64 - (q.src b).toNat % 64))⟩
  | .min d n a b => some ⟨[a, b], suppress n d, fun q => if (q.src a).toInt ≤ (q.src b).toInt then q.src a else q.src b⟩
  | .max d n a b => some ⟨[a, b], suppress n d, fun q => if (q.src b).toInt ≤ (q.src a).toInt then q.src a else q.src b⟩
  | .minn d n a b => some ⟨[a, b], suppress n d, fun q => if (q.src a).toNat ≤ (q.src b).toNat then q.src a else q.src b⟩
  | .maxn d n a b => some ⟨[a, b], suppress n d, fun q => if (q.src b).toNat ≤ (q.src a).toNat then q.src a else q.src b⟩
  | .clz d n a => some ⟨[a], suppress n d, fun q => BitVec.ofNat 64 (leadingZeros (q.src a))⟩
  | .popc d n a => some ⟨[a], suppress n d, fun q => BitVec.ofNat 64 ((List.range 64).map (fun i => ((q.src a).getLsbD i).toNat)).sum⟩
  | .ext d n a f => if f.toNat % 4 = 3 then none else some ⟨[a], suppress n d, fun q =>
      if f.getLsbD 2 then BitVec.ofInt 64 (((q.src a).setWidth (extWidth f)).toInt)
      else BitVec.ofNat 64 ((q.src a).toNat % 2 ^ extWidth f)⟩
  | .li d i => some ⟨[], d, fun _ => BitVec.ofInt 64 i.toInt⟩
  | .lih d i => some ⟨[d], d, fun q => BitVec.ofNat 64 ((q.gr d.toNat).toNat * 2 ^ 16 + i.toNat)⟩
  | .lea d n a b f => some ⟨[a, b], suppress n d, fun q => BitVec.ofNat 64 ((q.src a).toNat + (q.src b).toNat * 2 ^ f.toNat)⟩
  | .hset d n a b f => if 3 ≤ f.toNat then none else some ⟨[a, b], suppress n d, fun q =>
      let lo := [58, 54, 54].getD f.toNat 0
      let w := [6, 4, 10].getD f.toNat 0
      BitVec.ofNat 64 ((q.src a).toNat - (q.src a).toNat / 2 ^ lo % 2 ^ w * 2 ^ lo + (q.src b).toNat % 2 ^ w * 2 ^ lo)⟩
  | .hget d n a f => if 3 ≤ f.toNat then none else some ⟨[a], suppress n d, fun q =>
      BitVec.ofNat 64 ((q.src a).toNat / 2 ^ [58, 54, 54].getD f.toNat 0 % 2 ^ [6, 4, 10].getD f.toNat 0)⟩
  | .sel d n a b g => some ⟨[a, b], suppress n d, fun q => if q.guard g then q.src a else q.src b⟩
  | .movpGet d => some ⟨[], d, fun q => BitVec.ofNat 64 ((List.range 8).map (fun k => (q.pr k).toNat * 2 ^ k)).sum⟩
  | .nget d sel k => some ⟨[], d, fun q =>
      if sel = 0 then BitVec.ofNat 64 (q.nest k.toNat).bound.toNat else BitVec.ofInt 64 (q.nest k.toNat).stride.toInt⟩
  | _ => none

end Sys2Proof.Claim
open Sys2Proof Sys2Proof.Machine Sys2Proof.Claim

/-- R79 to R90: an integer word writes its result to d and b0 and nothing else. -/
def Obligations.IntegerWordsWriteTheirResult : Prop :=
  ∀ (s : State) (i : Instr) (r : Result), resultOf i = some r → Free s (useOf r.reads r.d 0) →
    let q := s.me.begin (useOf r.reads r.d 0)
    CompletesMe i s 0 (fun w => WritesG q w r.d.toNat (r.val q) ∧ WritesB q w 0 (r.val q) ∧ RestOfRegs q w)

namespace Sys2Proof.Claim

/-! ### The multiply unit -/

/-- The results of R79 and R81 that the multiply unit computes: d is the register written, the value over exact integers. -/
def productOf : Instr → Option Result
  | .mul d n a b => some ⟨[a, b], suppress n d, fun q => BitVec.ofInt 64 ((q.src a).toInt * (q.src b).toInt)⟩
  | .mulh d n a b => some ⟨[a, b], suppress n d, fun q => BitVec.ofInt 64 ((q.src a).toInt * (q.src b).toInt / 2 ^ 64)⟩
  | .mulhn d n a b => some ⟨[a, b], suppress n d, fun q => BitVec.ofNat 64 ((q.src a).toNat * (q.src b).toNat / 2 ^ 64)⟩
  | .div d n a b => some ⟨[a, b], suppress n d, fun q =>
      if q.src b = 0 then 0xFFFFFFFFFFFFFFFF else BitVec.ofInt 64 ((q.src a).toInt.tdiv (q.src b).toInt)⟩
  | .divn d n a b => some ⟨[a, b], suppress n d, fun q =>
      if q.src b = 0 then 0xFFFFFFFFFFFFFFFF else BitVec.ofNat 64 ((q.src a).toNat / (q.src b).toNat)⟩
  | .rem d n a b => some ⟨[a, b], suppress n d, fun q =>
      if q.src b = 0 then q.src a else BitVec.ofInt 64 ((q.src a).toInt - (q.src b).toInt * (q.src a).toInt.tdiv (q.src b).toInt)⟩
  | .remn d n a b => some ⟨[a, b], suppress n d, fun q =>
      if q.src b = 0 then q.src a else BitVec.ofNat 64 ((q.src a).toNat - (q.src b).toNat * ((q.src a).toNat / (q.src b).toNat))⟩
  | _ => none

/-- The register that a result of the multiply unit lands in. -/
def landsIn (d : BitVec 6) : Dst := if d = 0 then .none else .g d.toNat

/-- Of the results `due` that go where `p` goes, `p` lands last: those issued before it land no later, those issued after it land earlier (R43). -/
def LandsLast {α : Type} (due : List Pend) (goes : Pend → α) (before : List Pend) (p : Pend) (after : List Pend) : Prop :=
  (∀ x ∈ before, x ∈ due → goes x = goes p → x.land ≤ p.land) ∧ ∀ x ∈ after, x ∈ due → goes x = goes p → x.land < p.land

/-- The register of a result holds it: g0 discards it, and a v register takes the bits of its mask. No engine has a predicate for a result (R73). -/
def Landed (w : Quad) (p : Pend) : Prop :=
  match p.dst with
  | .none => True
  | .g k => k ≠ 0 → w.gr k = BitVec.ofNat 64 p.val
  | .v k => w.vr k &&& BitVec.ofNat 1024 p.mask = BitVec.ofNat 1024 (p.val &&& p.mask)
  | .m k => w.mr k = BitVec.ofNat 32 p.val
  | .p _ => True

/-! ### Predicates and nests -/

/-- What CMP, CMPI, PLOG and `movp.set` make of the predicates (R87, R88, R89): the sources, the predicates written, and the new value of each. -/
structure PredResult where
  reads : List (BitVec 6)
  writes : List Nat
  val : Quad → Nat → Bool

/-- The condition codes of R87. -/
def relation (c : Nat) (a y : Word) : Bool :=
  [decide (a = y), decide (a ≠ y), decide (a.toInt < y.toInt), decide (a.toInt ≤ y.toInt), decide (a.toNat < y.toNat),
    decide (a.toNat ≤ y.toNat), decide (a &&& y ≠ 0), decide (a &&& y = 0)].getD c false

def predicatesOf : Instr → Option PredResult
  | .cmp c p a b => some ⟨[a, b], [p.toNat], fun q k => if k = p.toNat ∧ k ≠ 0 then relation c.toNat (q.src a) (q.src b) else q.pr k⟩
  | .cmpi c p a i => some ⟨[a], [p.toNat], fun q k => if k = p.toNat ∧ k ≠ 0 then relation c.toNat (q.src a) (i.signExtend 64) else q.pr k⟩
  | .plog d t a b => some ⟨[], [d.toNat], fun q k =>
      if k = d.toNat ∧ k ≠ 0 then t.getLsbD ((q.pr a.toNat).toNat * 2 + (q.pr b.toNat).toNat) else q.pr k⟩
  | .movpSet a => some ⟨[a], List.range 8, fun q k => if 0 < k ∧ k < 8 then (q.src a).getLsbD k else q.pr k⟩
  | _ => none

end Sys2Proof.Claim
open Sys2Proof Sys2Proof.Machine Sys2Proof.Claim

/-- R43, R46, R75, R79, R81: a word of the multiply unit changes no register as it issues; its result stands in flight, to land in `d` and b1
three cycles after its issue. -/
def Sys2Proof.Claim.MultiplyWordsLandThreeCyclesLater : Prop :=
  ∀ (s : State) (i : Instr) (r : Result), productOf i = some r → Free s (useOf r.reads r.d 1) →
    let q := s.me.begin (useOf r.reads r.d 1)
    CompletesMe i s 0 (fun w => w = { q with pend := q.pend ++
      [({ eng := 0, dst := landsIn r.d, latch := 1, val := (r.val q).toNat, mask := 0, land := q.cyc + 3 } : Pend)] })

/-- R43: a result in flight reaches its register and its latch in its cycle; of two that reach one register or latch in the same cycle the later-issued
is kept, and otherwise the one that lands last. What no result reaches, and everything else, stays. -/
def Sys2Proof.Claim.ResultsInFlightLand : Prop :=
  ∀ (s : State) (c n : Nat), ∃ t, exec (.exposedResultLanding c n) s = .next t ∧
    ({ t with cores := s.cores } : State) = s ∧ (∀ k, k ≠ c → t.core k = s.core k) ∧ (t.core c).setQuad n (s.quadOf c n) = s.core c ∧
    let q := s.quadOf c n
    let w := t.quadOf c n
    let due := q.pend.filter (fun p => decide (p.land ≤ s.cycle ∧ p.eng ≠ 3))
    w.pend = q.pend.filter (fun p => decide (s.cycle < p.land)) ∧
    ({ w with g := q.g, b := q.b, v := q.v, m := q.m, pend := q.pend } : Quad) = q ∧
    (∀ k, (∀ p ∈ due, p.dst ≠ .g k) → w.gr k = q.gr k) ∧
    (∀ k, (∀ p ∈ due, p.dst ≠ .v k) → w.vr k = q.vr k) ∧
    (∀ k, (∀ p ∈ due, p.dst ≠ .m k) → w.mr k = q.mr k) ∧
    (∀ k, (∀ p ∈ due, p.latch ≠ k) → w.br k = q.br k) ∧
    (∀ before after p, q.pend = before ++ p :: after → p ∈ due →
      (LandsLast due Pend.dst before p after → Landed w p) ∧
      (p.latch < 4 → LandsLast due Pend.latch before p after → w.br p.latch = BitVec.ofNat 64 p.val))

/-- R87 to R89, R73: CMP, CMPI, PLOG and `movp.set` write their predicates and no register and no latch; p0 keeps reading 1. -/
def Sys2Proof.Claim.PredicateWordsWriteTheirPredicates : Prop :=
  ∀ (s : State) (i : Instr) (r : PredResult), predicatesOf i = some r → Free s (predUse r.reads r.writes) →
    let q := s.me.begin (predUse r.reads r.writes)
    CompletesMe i s 0 (fun w => (∀ k, w.pr k = r.val q k) ∧ w.pr 0 = true ∧ ({ w with p := q.p } : Quad) = q)

/-- R93: NSET writes the bound and the stride of one nest register and nothing else. -/
def Sys2Proof.Claim.NsetWritesOneNest : Prop :=
  ∀ (s : State) (k : BitVec 3) (a b : BitVec 6) (bound : BitVec 9) (stride : BitVec 10),
    (Free s (predUse [a, b] []) →
      let q := s.me.begin (predUse [a, b] [])
      CompletesMe (.nsetReg k a b) s 0 (fun w => (∀ j, w.nest j = if j = k.toNat then
          { bound := BitVec.ofNat 24 (q.src a).toNat, stride := BitVec.ofNat 32 (q.src b).toNat } else q.nest j) ∧
        ({ w with n := q.n } : Quad) = q)) ∧
    (Free s (predUse [] []) →
      let q := s.me.begin (predUse [] [])
      CompletesMe (.nsetImm k bound stride) s 0 (fun w => (∀ j, w.nest j = if j = k.toNat then
          { bound := BitVec.ofNat 24 bound.toNat, stride := BitVec.ofInt 32 stride.toInt } else q.nest j) ∧
        ({ w with n := q.n } : Quad) = q))

/-- Multiply and division words put their result in flight, and it lands in d and b1 in its cycle. -/
def Obligations.MultiplyResultsLandThreeCyclesLater : Prop :=
  Sys2Proof.Claim.MultiplyWordsLandThreeCyclesLater ∧ Sys2Proof.Claim.ResultsInFlightLand

/-- CMP, CMPI, PLOG and movp.set write predicates, NSET one nest register, and nothing else. -/
def Obligations.PredicateAndNestWordsWriteTheirRegister : Prop :=
  Sys2Proof.Claim.PredicateWordsWriteTheirPredicates ∧ Sys2Proof.Claim.NsetWritesOneNest

namespace Sys2Proof.Claim

/-! ### CSRs -/

/-- A bit as a number. -/
def one (b : Bool) : Nat := if b then 1 else 0

/-- The commands of a matrix queue that have not started, a restore's reload apart (R217). -/
def waiting (l : List MCmd) : List MCmd := l.filter (fun m => m.took == false && m.reload == false)

/-- A quadrant's handler holds the matrix queue image: a command of the quadrant has faulted (R226). -/
def holdsImage (k : Core) (quad : Nat) : Bool := k.halt && k.mq.any (fun m => m.fault && m.quad == quad)

/-- What a CSR of the unit whose turn it is reads in a cycle, from the state that each CSR's rule names (R391); none for a number that is not assigned. -/
def csrReads (s : State) (now : Nat) (c : Nat) : Option Word :=
  let q := s.me
  let k := s.myCore
  let t := s.task (k.task.getD 0)
  let x := s.ctx t.ctx
  match c with
  | 0x000 => some (BitVec.ofNat 64 (one q.inh + 2 * one x.svg + 4 * one x.ns + 16 * one q.mskip + 32 * one q.xskip + 64 * one q.cskip
      + 128 * one q.disp))
  | 0x001 => some q.cause
  | 0x002 => some q.epc
  | 0x003 => some q.trapvec
  | 0x004 => some (q.einf 0)
  | 0x005 => some (q.einf 1)
  | 0x006 => some (q.einf 2)
  | 0x007 => some (q.einf 3)
  | 0x010 => some (BitVec.ofNat 64 (q.rmode % 8 + 64 * one q.cvnanz + 128 * one q.cvsat))
  | 0x011 => some (BitVec.ofNat 64 q.batchTag)
  | 0x012 => some (BitVec.ofNat 64 (s.hub.featoff &&& s.hub.featacc).toNat)
  | 0x020 => some (BitVec.ofNat 64 (t.cycles + ((if k.stands then k.stopAt else now) - t.cycleBase) - k.lost))
  | 0x021 => some (BitVec.ofNat 64 s.time)
  | 0x030 => some q.taskid
  | 0x031 => some q.nodeid
  | 0x032 => some q.instidx
  | 0x033 => some (BitVec.ofNat 64 (q.member.role + 2 ^ 6 * q.member.mnum + 2 ^ 12 * q.member.midx + 2 ^ 18 * q.member.rsz
      + 2 ^ 24 * q.member.tsz))
  | 0x034 => some q.dictbase
  | 0x040 => some k.tagmap
  | 0x041 => some (BitVec.ofNat 64 (one k.satov + 2 * one k.cvnanz + 4 * one k.cvsat + 2 ^ 17 * (k.wb0.k - 1) + 2 ^ 24 * k.wb0.fmt
      + 2 ^ 29 * (k.wb1.k - 1) + 2 ^ 36 * k.wb1.fmt + 2 ^ 41 * one k.abuf + 2 ^ 42 * one k.halt + 2 ^ 43 * (waiting k.mq).length))
  | 0x042 => some (k.cqf 0)
  | 0x043 => some (k.cqf 1)
  | 0x044 => some (k.cqf 2)
  | 0x045 => some (k.cqf 3)
  | 0x050 => some (BitVec.ofNat 64 q.prog0)
  | 0x051 => some (BitVec.ofNat 64 k.prog1)
  | 0x052 => some (BitVec.ofNat 64 q.prog2)
  | 0x053 => some q.prog3
  | 0x060 => some (q.watch.get 0 0)
  | 0x061 => some (q.watch.get 0 1)
  | 0x062 => some (q.watch.get 0 2)
  | 0x063 => some (q.watch.get 0 3)
  | 0x070 => some (BitVec.ofNat 64 ((s.facet (facetOf s.cur.core)).forecast % 2 ^ 16 * 2 ^ 16 +
      (s.cores.cells.filter (fun c => !isWalk c.1 && decide (facetOf c.1 = facetOf s.cur.core) && c.2.task.isSome)).length))
  | _ => none

/-- Only the low `n` bits of a value, or all but them. -/
def lowBits (x : Word) (n : Nat) : Word := BitVec.ofNat 64 (x.toNat % 2 ^ n)
def withoutLow (x : Word) (n : Nat) : Word := BitVec.ofNat 64 (x.toNat - x.toNat % 2 ^ n)

/-- The flags of a write that a 1 clears: bit `n` of `x`, unless the flag was set in the cycle of the write itself (R156). -/
def clears (x : Word) (n setAt now : Nat) : Word := BitVec.ofNat 64 (if x.getLsbD n ∧ setAt ≠ now + 1 then 2 ^ n else 0)

/-- What CSR `c` reads after CSRW has written `x` to it in cycle `at_` where it read `old` (R390 and the access codes of R149, R155, R156, R236, R391, R392): RO bits
stay, a 1 clears a W1C bit, and PROG0 to PROG3 take a value only in the handler that holds an image of that engine. Of two writes of one CQFMT in one cycle that of the
higher quadrant stays (R160). -/
def csrAfter (s : State) (c at_ : Nat) (old x : Word) : Word :=
  let q := s.me
  let k := s.myCore
  match c with
  | 0x000 => if q.inh then (old &&& 0xF) ||| (x &&& 0xF0) else old
  | 0x001 | 0x004 | 0x005 | 0x006 | 0x007 => x
  | 0x002 | 0x003 => withoutLow x 2
  | 0x010 => (lowBits x 3 ||| (old &&& 0xC0)) &&& ~~~(clears x 6 q.cvnanzAt at_ ||| clears x 7 q.cvsatAt at_)
  | 0x040 => old &&& ~~~x
  | 0x041 => old &&& ~~~(clears x 0 k.satovAt at_ ||| clears x 1 k.cvnanzAt at_ ||| clears x 2 k.cvsatAt at_)
  | 0x042 | 0x043 | 0x044 | 0x045 =>
    let last := k.cqfBy.get 0 (c - 0x042)
    if last / 4 = at_ + 1 ∧ s.cur.quad < last % 4 then old else lowBits x 15
  | 0x050 => if q.inh && !q.vecImg.isEmpty then lowBits x 32 else old
  | 0x051 => if q.inh && holdsImage k s.cur.quad then lowBits x 32 else old
  | 0x052 => if q.inh && !q.memImg.isEmpty then lowBits x 5 else old
  | 0x053 => if q.inh && !q.chImg.cells.isEmpty then x &&& 0x0700FFFFFFFFFFFF else old
  | 0x060 | 0x061 | 0x062 | 0x063 => withoutLow x 1
  | _ => old

/-- A queue format code that R157 accepts. -/
def queueCodeOk (f : Nat) : Prop := f < 20 ∨ f = 32 ∨ f = 33
/-- The formats that have a marker, refused without feature 1 (R414). -/
def markerCode (f : Nat) : Prop := f ∈ [3, 7, 12, 14, 29, 30]

/-- The values that CSRW refuses with FMT (R149, R158, R414). -/
def Refuses (s : State) (c : Nat) (x : Word) : Prop :=
  let feature (k : Nat) : Bool := (s.hub.featoff &&& s.hub.featacc).getLsbD k
  (c = 0x010 ∧ (6 ≤ x.toNat % 8 ∨ x.toNat % 8 = 5 ∧ feature 5 = false)) ∨
  (0x042 ≤ c ∧ c ≤ 0x045 ∧
    let src := x.toNat % 64
    let sink := x.toNat / 64 % 64
    let mode := x.toNat / 4096 % 8
    (¬ queueCodeOk src ∨ ¬ queueCodeOk sink ∨ c < 0x044 ∧ 20 ≤ sink ∨ 6 ≤ mode ∨ mode = 5 ∧ feature 5 = false ∨
      (markerCode src ∨ markerCode sink) ∧ feature 1 = false))

/-- What CSRW can change of a quadrant and of a core. -/
def OtherCsrs (q w : Quad) : Prop :=
  ({ w with mskip := q.mskip, xskip := q.xskip, cskip := q.cskip, disp := q.disp, cause := q.cause, epc := q.epc, trapvec := q.trapvec,
            einfo := q.einfo, rmode := q.rmode, cvnanz := q.cvnanz, cvsat := q.cvsat, prog0 := q.prog0, prog2 := q.prog2, prog3 := q.prog3,
            watch := q.watch } : Quad) = q

/-! ### Taking a trap -/

/-- Quadrant `w` is `q` after the delivery of a precise trap (R393): the latches saved, CAUSE, EPC and EINFO written, INH set, the program counter at TRAPVEC;
the results in flight of the exposed pipelines are in the snapshot buffer with their offsets (R76). No other register changes. -/
def Enters (q w : Quad) (cause : Nat) (epc e0 e1 e2 e3 : Word) : Prop :=
  w.einf 0 = e0 ∧ w.einf 1 = e1 ∧ w.einf 2 = e2 ∧ w.einf 3 = e3 ∧
  w.snap = q.snap ++ (q.pend.filter (fun p => decide (p.eng = 0))).map (fun (p : Pend) => { p with land := p.land - q.cyc })
    ++ (q.pend.filter (fun p => decide (p.eng = 2))).map (fun (p : Pend) => { p with land := p.land - q.vcyc }) ∧
  w.pend = q.pend.filter (fun p => decide (p.eng ≠ 0 ∧ p.eng ≠ 2)) ∧
  w = { q with lsave := q.b, cause := BitVec.ofNat 64 cause, epc := epc, einfo := w.einfo, inh := true, pc := q.trapvec, snap := w.snap, pend := w.pend,
               vecImg := [], seqMark := q.seq, advImg := q.adv, adv := [], trapWait := none, wait := none, ask := none, answer := none, got := [], inject := none, cond := none, arrived := none,
               cyc := q.cyc + 1 }

/-- The unit whose turn it is can take a trap in the plain way: a quadrant, not in its handler, with a handler, no vector word queued, and no snapshot entries
from an earlier return. -/
def CanTrap (s : State) : Prop :=
  s.cur.core < 1536 ∧ s.me.inh = false ∧ s.me.trapvec ≠ 0 ∧ s.me.vecQ = [] ∧ s.me.snapBack = false

/-- The word takes a precise trap with these values. -/
def Traps (i : Instr) (s : State) (u : Use) (cause : Nat) (epc e0 e1 e2 e3 : Quad → Word) (eng : Nat := 0) : Prop :=
  let q := s.me.begin u eng
  ∃ t, exec i s = .next t ∧ OnlyMe s t ∧ Enters q t.me cause (epc q) (e0 q) (e1 q) (e2 q) (e3 q)

/-- The pattern of the word at the splitter as ILL reports it (R72), and its dictionary index, that of the dictionary word itself where it is one, all ones where it has none. -/
def patternAt (q : Quad) : Word := BitVec.ofNat 64 (match q.inject with | some (p, _) => p | none => q.inst)
def indexAt (q : Quad) : Word :=
  match q.inject with
  | some (_, some i) => BitVec.ofNat 64 i
  | some (_, none) => 0xFFFFFFFFFFFFFFFF
  | none => if q.inst / 2 ^ 29 = 7 then BitVec.ofNat 64 (q.inst / 2 ^ 21 % 256) else 0xFFFFFFFFFFFFFFFF

/-- EINFO0 of an illegal encoding: an instruction that the dictionary has expanded reports 0x0A (R54, R72). -/
def subcauseAt (sub : Word) (q : Quad) : Word := match q.inject with | some (_, some _) => 0x0A | _ => sub

/-- The lowest fetch number among the words that a handler's quadrant has in its queues and images, at most that of the trap itself. -/
def firstFetched (q : Quad) : Nat :=
  (q.memQ.map MemEntry.seq ++ q.memImg.map MemEntry.seq ++ (q.vecQ.map VecEntry.seq ++ q.vecImg.map VecEntry.seq)).foldl min q.seqMark

/-- The fetch number of a word after the return: the words from before the trap come after those of the handler, in their own order (R42, R394). -/
def renumbered (q : Quad) (n : Nat) : Nat := if n < q.seqMark then q.seq + (n - firstFetched q) else n

/-- Quadrant `w` is `q` after TRET (R394), the matrix engine and the copy engine apart. -/
def Left (q : Quad) : Quad :=
  { q with
    b := q.lsave, pc := q.epc, inject := if q.disp then some ((q.einf 1).toNat, none) else none
    memQ := (q.memQ ++ (if q.mskip then q.memImg.drop 1 else q.memImg)).map (fun (e : MemEntry) => { e with seq := renumbered q e.seq })
    vecQ := (q.vecQ ++ q.vecImg).map (fun (e : VecEntry) => { e with seq := renumbered q e.seq })
    memImg := [], vecImg := [], seq := q.seq + (q.seqMark - firstFetched q), adv := q.advImg ++ q.adv, advImg := []
    chImg := Tab.empty, disp := false, cskip := false, xskip := false, mskip := false, inh := false, snapBack := true, wait := none
    words := q.words + q.wlen / 4, cyc := q.cyc + 3 }

end Sys2Proof.Claim
open Sys2Proof Sys2Proof.Machine Sys2Proof.Claim

/-- R390, R391: CSRR writes the CSR's value to d and no latch. RNDMODE waits for the vector words before it (R156), BATCH for the words that move it. -/
def Sys2Proof.Claim.CsrReadsGiveTheirRegister : Prop :=
  ∀ (s : State) (d : BitVec 6) (c : BitVec 12) (x : Word), Free s (useOf [] d 4) →
    (c.toNat = 0x010 → s.me.vecQ = []) → (c.toNat = 0x011 → s.me.memQ = []) →
    let r := s.me.begin (useOf [] d 4)
    let q := if c.toNat = 0x010 then
      { r with cyc := (r.pend.filter (fun p => decide (p.eng = 2 ∨ p.eng = 5))).foldl (fun t p => max t p.land) (max r.cyc r.vcyc) } else r
    csrReads (s.updMe (fun _ => r)) q.cyc c.toNat = some x →
    CompletesMe (.csrr d c) s 0 (fun w => WritesG q w d.toNat x ∧ ({ w with g := q.g, pend := q.pend } : Quad) = q)

/-- R390 to R392, R149, R155, R158, R236: CSRW writes the one CSR under its access codes; every other CSR reads as before. -/
def Sys2Proof.Claim.CsrWritesFollowTheAccessCodes : Prop :=
  ∀ (s : State) (a : BitVec 6) (c : BitVec 12) (now : Nat) (old : Word), Free s (useOf [a] 0 4) →
    let q := s.me.begin (useOf [a] 0 4)
    ¬ Refuses s c.toNat (q.src a) → (c.toNat = 0x070 → s.cores.wf {} = true) → csrReads (s.updMe (fun _ => q)) now c.toNat = some old →
    ∃ t w, exec (.csrw a c) s = .next t ∧ OnlyMyCore s t ∧ t.me = w.retire 0 ∧ OtherCsrs q w ∧
      (∀ k, k ≠ s.cur.quad → k < 4 → s.cur.quad < 4 → t.quadOf s.cur.core k = s.quadOf s.cur.core k) ∧
      ({ t.myCore with q0 := s.myCore.q0, q1 := s.myCore.q1, q2 := s.myCore.q2, q3 := s.myCore.q3, tagmap := s.myCore.tagmap, satov := s.myCore.satov,
                       cvsat := s.myCore.cvsat, cvnanz := s.myCore.cvnanz, cqfmt := s.myCore.cqfmt, cqfBy := s.myCore.cqfBy, prog1 := s.myCore.prog1 } : Core) = s.myCore ∧
      csrReads t now c.toNat = some (csrAfter (s.updMe (fun _ => q)) c.toNat q.cyc old (q.src a)) ∧
      ∀ j, j ≠ c.toNat → j ≠ 0x070 → csrReads t now j = csrReads (s.updMe (fun _ => q)) now j

/-- R149, R158, R414: a CSRW of a value that the register refuses raises FMT, with the value and the CSR number, and changes no register. -/
def Sys2Proof.Claim.RefusedCsrWriteTraps : Prop :=
  ∀ (s : State) (a : BitVec 6) (c : BitVec 12), Free s (useOf [a] 0 4) → CanTrap s →
    Refuses s c.toNat ((s.me.begin (useOf [a] 0 4)).src a) →
    Traps (.csrw a c) s (useOf [a] 0 4) 0x1C (fun q => q.pc) (fun q => q.src a) (fun _ => BitVec.ofNat 64 c.toNat) (fun _ => 0) (fun _ => 0)

/-- R393, R395, R396, R71, R72: TRAP, BRK and an illegal encoding take their precise trap: the saved latches, CAUSE, EPC, EINFO and INH as delivery sets them,
and the program counter at TRAPVEC. -/
def Sys2Proof.Claim.TrapWordsEnterTheHandler : Prop :=
  ∀ (s : State) (code : BitVec 16) (sub : BitVec 8), Free s {} → CanTrap s →
    Traps (.trap code) s {} 0x18 (fun q => q.pc + 4) (fun _ => BitVec.ofNat 64 code.toNat) (fun q => q.pc) (fun _ => 0) (fun _ => 0) ∧
    Traps (.brk code) s {} 0x16 (fun q => q.pc) (fun _ => BitVec.ofNat 64 code.toNat)
      (fun q => BitVec.ofNat 64 ((patternAt q).toNat % 2 ^ 32)) (fun _ => 0) (fun _ => 0) ∧
    Traps (.illegalEncoding sub) s {} 0x10 (fun q => q.pc) (subcauseAt (BitVec.ofNat 64 sub.toNat)) patternAt indexAt (fun _ => 0)

/-- R393: a trap in the handler is context-fatal with cause DOUBLE, and one without a handler is context-fatal with its own cause: the supervisor receives the
event. -/
def Sys2Proof.Claim.TrapWithoutHandlerIsContextFatal : Prop :=
  ∀ (s : State) (code : BitVec 16), Free s {} →
    let cx := (s.task ((s.core s.cur.core).task.getD 0)).ctx
    (s.me.inh = true → ∃ t, exec (.trap code) s = .next t ∧ t.events.getLast? = some (.contextFatal cx 0x33)) ∧
    (s.me.inh = false → s.me.trapvec = 0 → ∃ t, exec (.trap code) s = .next t ∧ t.events.getLast? = some (.contextFatal cx 0x18))

/-- R394: TRET gives back latches, program counter, mode and queue images, and clears the skip bits; outside a handler it raises ILL 0x0B. With no image of the matrix engine or of a
copy channel nothing but its quadrant changes. -/
def Sys2Proof.Claim.TretRestoresItsQuadrant : Prop :=
  ∀ (s : State), Free s {} →
    let q := s.me.begin {}
    (s.me.inh = false → CanTrap s →
      Traps .tret s {} 0x10 (fun q => q.pc) (subcauseAt 0x0B) patternAt indexAt (fun _ => 0)) ∧
    (s.me.inh = true → q.chImg = Tab.empty → holdsImage s.myCore s.cur.quad = false → ∃ t, exec .tret s = .next t ∧ OnlyMe s t ∧ t.me = Left q)

namespace Sys2Proof.Claim

/-- The registers that a word of the scalar pipeline (E = 0) reads and writes: integer words, those of the multiply unit, and CMP, CMPI, PLOG and `movp.set`. -/
def ScalarUse (i : Instr) (u : Use) : Prop :=
  (∃ r, resultOf i = some r ∧ u = useOf r.reads r.d 0) ∨ (∃ r, productOf i = some r ∧ u = useOf r.reads r.d 1) ∨
    ∃ r, predicatesOf i = some r ∧ u = predUse r.reads r.writes

/-- A result in flight that a scalar word waits for (R42): one of another engine, to a register or latch that it reads or writes, or a read that another engine has still to make of a
register or latch that it writes. -/
def WaitsFor (u : Use) (p : Pend) : Prop :=
  (p.eng = 3 ∧ ((p.dst ≠ .none ∧ p.dst ∈ u.writes) ∨ (p.latch < 4 ∧ u.wlatch = p.latch))) ∨
  ((p.eng = 1 ∨ p.eng = 2) ∧ ((p.dst ≠ .none ∧ (p.dst ∈ u.reads ∨ p.dst ∈ u.writes)) ∨ (p.latch < 4 ∧ (p.latch ∈ u.latches ∨ u.wlatch = p.latch))))

end Sys2Proof.Claim
open Sys2Proof Sys2Proof.Machine Sys2Proof.Claim

/-- R42: a scalar word that another engine owes a register does not issue: while the answer has no cycle yet it stands for a cycle, and where the results that it waits for are on their
way, up to the last cycle in which one of them lands; nothing else changes. -/
def Sys2Proof.Claim.OwedRegisterHoldsTheWord : Prop :=
  ∀ (s : State) (i : Instr) (u : Use), ScalarUse i u →
    (s.me.owes u = true → exec i s = .next (s.updMe (fun q => { q with cyc := q.cyc + 1 }))) ∧
    (s.me.owes u = false → s.me.snapBack = false → (∀ p ∈ s.me.pend, p.eng < 4) → (∃ p ∈ s.me.pend, WaitsFor u p ∧ s.me.cyc < p.land) →
      ∃ n, exec i s = .next (s.updMe (fun q => { q with cyc := n })) ∧ (∃ p ∈ s.me.pend, WaitsFor u p ∧ p.land = n) ∧ ∀ p ∈ s.me.pend, WaitsFor u p → p.land ≤ n)

/-- CSRR reads, and CSRW writes, the one CSR it names under its access codes; a refused value traps. Model choices: log entries 9, 11, 59. -/
def Obligations.CsrWordsReadAndWriteTheirRegister : Prop :=
  Sys2Proof.Claim.CsrReadsGiveTheirRegister ∧ Sys2Proof.Claim.CsrWritesFollowTheAccessCodes ∧ Sys2Proof.Claim.RefusedCsrWriteTraps

/-- TRAP, BRK and an illegal encoding enter the handler; without one, or inside it, the context stops. Model choices: log entries 42, 45, 46. -/
def Obligations.TrapsEnterTheHandlerOrStopTheContext : Prop :=
  Sys2Proof.Claim.TrapWordsEnterTheHandler ∧ Sys2Proof.Claim.TrapWithoutHandlerIsContextFatal

namespace Sys2Proof.Claim

/-! ### Branches and loops -/

/-- Control passes to `target`, whose word follows after two bubbles (R75), with the loop stack `l`. -/
def jumped (q : Quad) (l : List Loop) (target : Word) : Quad :=
  { q with loops := l, pc := target, cyc := q.cyc + 3, wait := none, inject := none, words := q.words + q.wlen / 4, doneAt := q.cyc }

/-- Does the body of a level hold an address? -/
def holds (l : Loop) (a : Word) : Prop := l.start.toNat ≤ a.toNat ∧ a.toNat ≤ l.last.toNat

/-- The loop stack after a taken BR (R98): a branch that stands inside the innermost body and leaves it pops that level, and every further one
whose body does not hold the target. -/
def LeavesLoops (q : Quad) (target : Word) (l : List Loop) : Prop :=
  ((∃ x r, q.loops = x :: r ∧ holds x q.pc ∧ ¬ holds x target) →
    ∃ popped, q.loops = popped ++ l ∧ (∀ x ∈ popped, ¬ holds x target) ∧ ∀ x ∈ l.head?, holds x target) ∧
  (¬ (∃ x r, q.loops = x :: r ∧ holds x q.pc ∧ ¬ holds x target) → l = q.loops)

/-- The target of a branch: a signed count of words from the branch (R58). -/
def branchTarget (q : Quad) (o : BitVec 19) : Word := BitVec.ofInt 64 (q.pc.toNat + 4 * o.toInt)

/-- The guard of a branch (R48). -/
def taken (q : Quad) (p : BitVec 3) (sense : BitVec 1) : Bool := q.pr p.toNat == decide (sense = 0)

/-- A word that links (R91, R92, R98): the link is the address with which the word's end test goes on, the word's end plainly; it goes to `d` and
to b0; the end test is made, and control passes to the target. -/
def Linked (q w : Quad) (d : Nat) (target : Word) : Prop :=
  ∃ x, WritesG q x d (q.retire 0).pc ∧ WritesB q x 0 (q.retire 0).pc ∧ RestOfRegs q x ∧
    w = { x.retire 0 with pc := target, cyc := q.cyc + 3 }

/-- The level that LOOP pushes (R95, R97). -/
def CountedLevel (q : Quad) (e count : Nat) (l : Loop) : Prop :=
  l.start = q.pc + 4 ∧ l.last = q.pc + BitVec.ofNat 64 (4 * e) ∧ l.nest = false ∧ l.count = count

/-- The level that LOOPN pushes (R96, R97): bounds and strides as n0 to nk stand, all indices 0. -/
def NestLevel (q : Quad) (k e f c : Nat) (l : Loop) : Prop :=
  l.start = q.pc + 4 ∧ l.last = q.pc + BitVec.ofNat 64 (4 * e) ∧ l.nest = true ∧ l.k = k ∧ l.first = f ∧ l.cnt = c ∧
    l.bounds = (List.range (k + 1)).map (fun j => (q.nest j).bound.toNat) ∧
    l.strides = (List.range (k + 1)).map (fun j => (q.nest j).stride) ∧ l.idx = List.replicate (k + 1) 0

/-- What LOOP and LOOPN have in common (R97): two checks, in this order, then the body is skipped or entered. `e` is the distance to the body's
last word. -/
def LoopWord (i : Instr) (s : State) (reads : List (BitVec 6)) (e : Nat) (skips : Quad → Prop) (level : Quad → Loop → Prop) : Prop :=
  let q := s.me.begin (useOf reads 0 4)
  let last := q.pc + BitVec.ofNat 64 (4 * e)
  ∃ t, exec i s = .next t ∧
    (4 ≤ q.loops.length → t = (s.updMe (fun _ => q)).ill 0x01) ∧
    (q.loops.length < 4 → (∃ x ∈ q.loops.head?, x.last.toNat < last.toNat) → t = (s.updMe (fun _ => q)).ill 0x0B) ∧
    (q.loops.length < 4 → (∀ x ∈ q.loops.head?, last.toNat ≤ x.last.toNat) → OnlyMe s t ∧
      (skips q → t.me = jumped q q.loops (last + 4)) ∧
      (¬ skips q → ∃ l, level q l ∧ t.me = { q with
        loops := l :: q.loops, pc := q.pc + 4, cyc := q.cyc + 1, wait := none, inject := none, words := q.words + q.wlen / 4, doneAt := q.cyc }))

/-- What the end of a word never changes: everything but the g registers that a LOOPN advances, what is in flight, the loop stack and where the
quadrant stands. -/
def EndFrame (q : Quad) (n : Nat) : Prop :=
  ({ q.retire n with g := q.g, pend := q.pend, loops := q.loops, pc := q.pc, cyc := q.cyc, wait := q.wait, inject := q.inject,
                     words := q.words, doneAt := q.doneAt } : Quad) = q

/-- A quadrant to which no engine owes anything: no result in flight, no queued word, no advance that waits, and nothing left from a trap's return; a trap's fetch
number lies before the next word's. -/
def Quiet (q : Quad) : Prop :=
  q.pend = [] ∧ q.snapBack = false ∧ q.owed = [] ∧ q.memQ = [] ∧ q.vecQ = [] ∧ q.adv = [] ∧ q.memTok = none ∧ q.memStall = none ∧ q.storeStall = none ∧
    q.seqMark ≤ q.seq

/-- Quiet, with no LOOPN level that names registers. -/
def Still (q : Quad) : Prop := Quiet q ∧ ∀ l ∈ q.loops, l.nest = true → l.cnt = 0

/-- The value to which LOOPN has brought a named register: its start value and, for each dimension, its index times its stride. -/
def walked : List Nat → List (BitVec 32) → Int
  | i :: is, x :: xs => i * x.toInt + walked is xs
  | _, _ => 0

/-- The dimension that the walk of a LOOPN level steps at its last word (R97): the lowest that has not reached its last index. -/
def StepsAt (l : Loop) (j : Nat) : Prop :=
  j < l.bounds.length ∧ l.idx.getD j 0 + 1 < l.bounds.getD j 0 ∧ ∀ i, i < j → ¬ l.idx.getD i 0 + 1 < l.bounds.getD i 0

/-- The indices that follow (R97): those below the dimension are zero, its own is one up, the others stay. -/
def Successor (l : Loop) (j : Nat) (next : List Nat) : Prop :=
  next.length = l.idx.length ∧ ∀ i, i < l.idx.length → next.getD i 0 = if i < j then 0 else if i = j then l.idx.getD i 0 + 1 else l.idx.getD i 0

/-- The amount by which the named registers advance at the last word (R97): the stride of the dimension that steps, of the outermost where none does, less what the dimensions below it
have walked. -/
def AdvancesBy (l : Loop) (d : Int) : Prop :=
  ∃ j, (StepsAt l j ∨ ((∀ i, i < l.bounds.length → ¬ l.idx.getD i 0 + 1 < l.bounds.getD i 0) ∧ j = l.k)) ∧
    d = (l.strides.getD j 0).toInt - ((List.range j).map (fun i => ((l.bounds.getD i 0 : Int) - 1) * (l.strides.getD i 0).toInt)).sum

end Sys2Proof.Claim
open Sys2Proof Sys2Proof.Machine Sys2Proof.Claim

/-- R49, R64, R400: NOP, and a BR or CALL whose guard does not hold, take their slot and have no other effect. -/
def Sys2Proof.Claim.NopAndGuardedOffBranchesOnlyTakeTheirSlot : Prop :=
  ∀ (s : State) (p : BitVec 3) (x : BitVec 1) (o : BitVec 19),
    (Free s {} → CompletesMe .nop s 0 (fun w => w = s.me.begin {})) ∧
    (Free s {} → taken (s.me.begin {}) p x = false → CompletesMe (.br p x o) s 0 (fun w => w = s.me.begin {})) ∧
    (Free s {} → taken s.me p x = false → CompletesMe (.call p x o) s 0 (fun w => w = s.me.begin {}))

/-- R91, R98: a taken BR passes control to its target, with no end test, and pops the levels that it leaves. -/
def Sys2Proof.Claim.TakenBranchLeavesLoops : Prop :=
  ∀ (s : State) (p : BitVec 3) (x : BitVec 1) (o : BitVec 19), Free s {} → taken (s.me.begin {}) p x = true →
    let q := s.me.begin {}
    ∃ t l, exec (.br p x o) s = .next t ∧ OnlyMe s t ∧ LeavesLoops q (branchTarget q o) l ∧ t.me = jumped q l (branchTarget q o)

/-- R91, R92, R98: CALL and a linking JR write the link to their register and b0 and pass control; the target of JR is read before the link is written. -/
def Sys2Proof.Claim.CallAndJumpLink : Prop :=
  ∀ (s : State),
    (∀ (p : BitVec 3) (x : BitVec 1) (o : BitVec 19), Free s { writes := [.g 47], wlatch := 0 } →
      let q := s.me.begin { writes := [.g 47], wlatch := 0 }
      taken s.me p x = true →
      ∃ t, exec (.call p x o) s = .next t ∧ OnlyMe s t ∧ Linked q t.me 47 (branchTarget q o)) ∧
    (∀ (d a : BitVec 6), d ≠ 0 → Free s (useOf [a] d 0) →
      let q := s.me.begin (useOf [a] d 0)
      (q.src a).toNat % 4 = 0 → ∃ t, exec (.jr d a) s = .next t ∧ OnlyMe s t ∧ Linked q t.me d.toNat (q.src a))

/-- R92, R98: a JR with d = 0 passes control to its target and writes nothing; as the last word of the innermost body it acts on the loop stack as a taken
BR does, and elsewhere it leaves the loop stack as it stands. -/
def Sys2Proof.Claim.JumpWithoutLink : Prop :=
  ∀ (s : State) (a : BitVec 6), Free s (useOf [a] 0 4) →
    let q := s.me.begin (useOf [a] 0 4)
    (q.src a).toNat % 4 = 0 →
    ∃ t l, exec (.jr 0 a) s = .next t ∧ OnlyMe s t ∧ t.me = jumped q l (q.src a) ∧
      (∀ x ∈ q.loops.head?, (x.last - q.pc).toNat < q.wlen → LeavesLoops q (q.src a) l) ∧
      ((∀ x ∈ q.loops.head?, q.wlen ≤ (x.last - q.pc).toNat) → l = q.loops)

/-- R35, R92: a JR to a target that is no multiple of 4 raises ALIGN, with the target in EINFO0, before any link is written. -/
def Sys2Proof.Claim.JumpToMisalignedTargetTraps : Prop :=
  ∀ (s : State) (d a : BitVec 6), let u := useOf [a] d (if d = 0 then 4 else 0)
    Free s u → ((s.me.begin u).src a).toNat % 4 ≠ 0 →
      exec (.jr d a) s = .next ((s.updMe (fun q => q.begin u)).trap 0x12 (s.me.begin u).pc ((s.me.begin u).src a) 0 0 0)

/-- R95 to R97: LOOP and LOOPN check the stack, then the enclosing level's end, and enter the body or skip it. -/
def Sys2Proof.Claim.LoopWordsEnterOrSkip : Prop :=
  ∀ (s : State),
    (∀ (c : BitVec 12) (e : BitVec 10), Free s (useOf [] 0 4) →
      LoopWord (.loop c e) s [] e.toNat (fun _ => c = 0) (fun q l => CountedLevel q e.toNat c.toNat l)) ∧
    (∀ (a : BitVec 6) (e : BitVec 10), Free s (useOf [a] 0 4) →
      LoopWord (.loopReg a e) s [a] e.toNat (fun q => q.src a = 0) (fun q l => CountedLevel q e.toNat (q.src a).toNat l)) ∧
    (∀ (k : BitVec 3) (e f : BitVec 6) (c : BitVec 3), Free s (useOf [] 0 4) →
      LoopWord (.loopn k e f c) s [] (e.toNat + 1) (fun q => ∃ j, j ≤ k.toNat ∧ (q.nest j).bound = 0)
        (fun q l => NestLevel q k.toNat (e.toNat + 1) f.toNat c.toNat l))

/-- R97: where no level ends at the word, the next word follows and no register changes. -/
def Sys2Proof.Claim.WordsInsideABodyRunOn : Prop :=
  ∀ (q : Quad) (n : Nat), (∀ l ∈ q.loops.head?, q.wlen ≤ (l.last - q.pc).toNat) →
    q.retire n = { q with pc := q.pc + BitVec.ofNat 64 q.wlen, cyc := q.cyc + 1 + n, wait := none, inject := none, words := q.words + q.wlen / 4,
                          doneAt := q.cyc }

/-- R97, R98: the last word of a counted level counts it down and goes back to its start; at the last count the level is popped and the next one is
tested at once. -/
def Sys2Proof.Claim.CountedLoopCountsDown : Prop :=
  ∀ (q : Quad) (n : Nat) (l : Loop) (rest : List Loop), q.loops = l :: rest → l.nest = false → (l.last - q.pc).toNat < q.wlen →
    (1 < l.count → q.retire n = { q with loops := { l with count := l.count - 1 } :: rest, pc := l.start, cyc := q.cyc + 1 + n, wait := none,
                                         inject := none, words := q.words + q.wlen / 4, doneAt := q.cyc }) ∧
    (l.count ≤ 1 → rest.length ≤ 3 → q.retire n = ({ q with loops := rest } : Quad).retire n)

/-- R97: from one pass of a LOOPN level to the next the indices go to their successor in the order of the walk, and each named register moves so that it stands at its start value and the
sum of index times stride over the dimensions; the body begins again at its first word. -/
def Sys2Proof.Claim.NestLoopWalksItsNest : Prop :=
  ∀ (q : Quad) (n : Nat) (l : Loop) (rest : List Loop) (base : Nat → Word), Quiet q → q.loops = l :: rest → l.nest = true →
    (l.last - q.pc).toNat < q.wlen → l.k + 1 = l.bounds.length → l.bounds.length = l.strides.length → l.idx.length = l.bounds.length →
    (∀ j, j < l.bounds.length → l.idx.getD j 0 < l.bounds.getD j 0) → 0 < l.first →
    (∀ r, l.first ≤ r → r < l.first + l.cnt → q.gr r = base r + BitVec.ofInt 64 (walked l.idx l.strides)) →
    ∀ j, StepsAt l j →
    EndFrame q n ∧ ∃ l', (q.retire n).loops = l' :: rest ∧ (q.retire n).pc = l.start ∧ l' = { l with idx := l'.idx } ∧ Successor l j l'.idx ∧
      (∀ r, (q.retire n).gr r = if l.first ≤ r ∧ r < l.first + l.cnt then base r + BitVec.ofInt 64 (walked l'.idx l.strides) else q.gr r)

/-- R97: after a LOOPN level's last pass its level is popped, and each named register stands at its start value and the outermost bound times the outermost
stride. -/
def Sys2Proof.Claim.NestLoopEndsAtItsOuterExtent : Prop :=
  ∀ (q : Quad) (n : Nat) (l : Loop) (base : Nat → Word), Quiet q → q.loops = [l] → l.nest = true →
    (l.last - q.pc).toNat < q.wlen → l.k + 1 = l.bounds.length → l.bounds.length = l.strides.length → l.idx.length = l.bounds.length →
    (∀ j, j < l.bounds.length → l.idx.getD j 0 + 1 = l.bounds.getD j 0) → 0 < l.first →
    (∀ r, l.first ≤ r → r < l.first + l.cnt → q.gr r = base r + BitVec.ofInt 64 (walked l.idx l.strides)) →
    EndFrame q n ∧ (q.retire n).loops = [] ∧ (q.retire n).pc = q.pc + BitVec.ofNat 64 q.wlen ∧
      ∀ r, (q.retire n).gr r = if l.first ≤ r ∧ r < l.first + l.cnt then
        base r + BitVec.ofInt 64 ((l.bounds.getD l.k 0 : Int) * (l.strides.getD l.k 0).toInt) else q.gr r

/-- R42, R97: where the end word of a LOOPN level has still to be waited for by another engine, its registers do not advance with it: the advance waits, and no later
word issues before it. -/
def Sys2Proof.Claim.AdvanceWaitsForOlderReads : Prop :=
  ∀ (q : Quad) (n : Nat) (l : Loop) (rest : List Loop), q.loops = l :: rest → l.nest = true → (l.last - q.pc).toNat < q.wlen → 0 < l.cnt → l.k + 1 = l.bounds.length → l.idx.length = l.bounds.length →
    (∃ e ∈ q.vecQ, ∃ r, l.first ≤ r ∧ r < l.first + l.cnt ∧ (Dst.g r ∈ e.reads ∨ Dst.g r ∈ e.writes)) → rest = [] →
    (q.retire n).g = q.g ∧ (∃ d, AdvancesBy l d ∧ (q.retire n).adv = q.adv ++ [(l.first, l.cnt, d)]) ∧
      ∀ (s : State), s.me = q.retire n → s.me.trapWait = none → s.me.trapReqs = [] → q.adv = [] →
        s.splitterTurn = (s.updMe (fun x => { x with cyc := x.cyc + 1 }), none)

/-- NOP, BR, CALL and JR: a guard that fails has no effect, a taken one passes control, links, and leaves loops. Model choices: log entries 30, 94. -/
def Obligations.BranchesAndJumpsPassControl : Prop :=
  Sys2Proof.Claim.NopAndGuardedOffBranchesOnlyTakeTheirSlot ∧ Sys2Proof.Claim.TakenBranchLeavesLoops ∧ Sys2Proof.Claim.CallAndJumpLink ∧ Sys2Proof.Claim.JumpWithoutLink ∧ Sys2Proof.Claim.JumpToMisalignedTargetTraps

/-- LOOP and LOOPN enter or skip their body; words inside run on; the last word counts down. Model choices: log entry 44. -/
def Obligations.LoopsEnterRunOnAndCountDown : Prop :=
  Sys2Proof.Claim.LoopWordsEnterOrSkip ∧ Sys2Proof.Claim.WordsInsideABodyRunOn ∧ Sys2Proof.Claim.CountedLoopCountsDown

/-- A LOOPN level's registers stand at their start value and the walked offset, pass by pass and at the end. Model choices: log entry 43. -/
def Obligations.NestLoopsWalkTheirNest : Prop :=
  Sys2Proof.Claim.NestLoopWalksItsNest ∧ Sys2Proof.Claim.NestLoopEndsAtItsOuterExtent

/-- A scalar word waits for a register that an engine owes or a result on its way; an advance waits for the end word. Model choices: log entry 43. -/
def Obligations.WordsWaitForOwedRegisters : Prop :=
  Sys2Proof.Claim.OwedRegisterHoldsTheWord ∧ Sys2Proof.Claim.AdvanceWaitsForOlderReads

namespace Sys2Proof.Claim

/-! ### Where an access leads -/

/-- The task, tenant and world of the unit whose turn it is. -/
def myTask (s : State) : Nat := (s.core s.cur.core).task.getD 0
def myAsid (s : State) : Nat := (s.ctx (s.task (myTask s)).ctx).asid
def myWorld (s : State) : Bool := (s.ctx (s.task (myTask s)).ctx).ns || s.hub.secmap.getLsbD (s.cur.core / 192)

/-- An access of `n` bytes at `a` by a quadrant is granted, within one 64 KiB span, and leads to the bytes of memory from `key` on (R25, R121, R122, R457): a bank of its
own scratchpad that its task holds, or of a core of its facet, or a page of this package whose translation its home has cached and whose entry allows the access, on which no link, window or
migration lies (R132, R260, R262). -/
def Granted (s : State) (need : Need) (a : Word) (n key : Nat) : Prop :=
  s.cur.core < 1536 ∧ 0 < n ∧ a.toNat % 65536 + n ≤ 65536 ∧
  ((homeOf a = 15 ∧ offOf a < 2 ^ 19 ∧ s.bankOk s.cur.core (offOf a / 65536) (myTask s) = true ∧ key = spadKey s.cur.core (offOf a)) ∨
   (homeOf a = 14 ∧ offOf a / 2 ^ 19 < 192 ∧ ∃ c, c = s.cur.core / 192 * 192 + offOf a / 2 ^ 19 ∧ (s.core c).stands = false ∧
      s.peerBankOk c (offOf a % 2 ^ 19 / 65536) = true ∧ key = spadKey c (offOf a % 2 ^ 19)) ∨
   (homeOf a < 8 ∧ pkgOf a = s.pkg ∧ key < 2 ^ 52 ∧ key % 2 ^ 48 < stackBytes ∧
    (∃ e, s.tlbFind (homeOf a) (myAsid s) (offOf a) = some e ∧
      s.checkLeaf (homeOf a) (offOf a) e.entry e.shift (myWorld s) need = .at key) ∧
    s.isMoving (homeOf a) (myAsid s) (offOf a) = false ∧ s.linkOver (homeOf a) (myAsid s) (offOf a) n (myWorld s) = none ∧
    s.slotAt (homeOf a) (myAsid s) (offOf a) (myWorld s) = none))

/-- What a granted access may change besides registers and the bytes written: access counters, sentinels, notifications and watches of the homes. -/
def BesidesHomes (s t : State) : Prop :=
  ({ t with cores := s.cores, facets := s.facets, events := s.events, watches := s.watches, mem := s.mem } : State) = s ∧
    (∀ c, c ≠ s.cur.core → t.core c = s.core c)

/-- The same with memory unchanged. -/
def MemorySame (s t : State) : Prop := ∀ key, t.byteAt key = s.byteAt key

/-- Only the bytes from `key` on are written, with `b`. -/
def MemoryWrites (s t : State) (key : Nat) (b : List (BitVec 8)) : Prop :=
  ∀ k, t.byteAt k = if key ≤ k ∧ k < key + b.length then b.getD (k - key) 0 else s.byteAt k

/-- The cycles of a DLOAD after its first: 40 in all from the local scratchpad, 32 and the latency of R126 from elsewhere (R399). -/
def dloadTime (s : State) (x : Word) : Nat :=
  if homeOf x = 15 then 39 else 31 + (if homeOf x = 14 then 40 else if homeOf x = s.cur.core / 192 then 180 else 300)

/-- The dictionary of the core has been replaced whole, from `x` (R56, R399): until its next DFENCE each of the four quadrants may expand with the old or the new entries (R400); nothing
else of the core changes, and the issuing quadrant goes on. -/
def DictionaryLoaded (s t : State) (q : Quad) (n : Nat) (x : Word) (entry : Nat → Nat) : Prop :=
  t.me = ({ q with dictbase := x, dictStale := true } : Quad).retire n ∧
  (s.cur.quad < 4 → ∀ u, u < 4 → u ≠ s.cur.quad → t.quadOf s.cur.core u = { s.quadOf s.cur.core u with dictStale := true }) ∧
  (∀ i, i < 256 → (t.myCore.dict.get 0 i).toNat = entry i) ∧ t.myCore.dictPrev = s.myCore.dict ∧
  ({ t.myCore with q0 := s.myCore.q0, q1 := s.myCore.q1, q2 := s.myCore.q2, q3 := s.myCore.q3, dict := s.myCore.dict, dictPrev := s.myCore.dictPrev
                   dictFrom := s.myCore.dictFrom } : Core) = s.myCore

/-- Sixteen bytes in memory, little-endian. -/
def entryBytes (s : State) (key : Nat) : Nat := ((List.range 16).map (fun j => (s.byteAt (key + j)).toNat * 2 ^ (8 * j))).sum

end Sys2Proof.Claim
open Sys2Proof Sys2Proof.Machine Sys2Proof.Claim

/-- R54, R55: a dictionary word whose entry is valid and has at most one hole is steered as the entry's pattern with the low bits of its payload in the hole. An
entry with V = 0 raises DICTU with the index and the word. Model choices: log entries 3, 46. -/
def Obligations.DictionaryWordsExpand : Prop :=
  ∀ (s : State) (i : BitVec 8) (p : BitVec 21), s.me.dictStale = false →
    let e := s.myCore.dict.get 0 i.toNat
    (e.getLsbD 112 = true → e.toNat / 2 ^ 113 = 0 → e.toNat / 2 ^ 76 % 2 ^ 36 = 0 →
      let pos := e.toNat / 2 ^ 64 % 64
      let w := e.toNat / 2 ^ 70 % 64
      let pattern := e.toNat % 2 ^ 64
      let inst := pattern - pattern / 2 ^ pos % 2 ^ w * 2 ^ pos + p.toNat * 2 ^ pos
      pos + w ≤ 64 → w ≤ 21 → p.toNat < 2 ^ w → inst / 2 ^ 29 % 8 ≠ 7 → (inst / 2 ^ 29 % 8 = 6 → inst / 2 ^ 32 ≠ 0) →
      (∃ j, decodePattern inst = .instr j) →
      exec (.dictionaryWord i p) s = .next (s.updMe (fun q => { q with inject := some (inst, some i.toNat) }))) ∧
    (e.getLsbD 112 = false → Free s {} → CanTrap s →
      Traps (.dictionaryWord i p) s {} 0x11 (fun q => q.pc) (fun _ => BitVec.ofNat 64 i.toNat)
        (fun _ => BitVec.ofNat 64 (7 * 2 ^ 29 + i.toNat * 2 ^ 21 + p.toNat)) (fun _ => 0) (fun _ => 0))

/-- R399: DLOAD of 0 makes every entry invalid and DICTBASE 0; of a multiple of 16 it loads 256 entries of 16 bytes and sets DICTBASE, once no store, acquire, MARK or
FENCE of the quadrant waits before it (R106, R107, R110); of any other address it raises ALIGN. Memory stays. -/
def Sys2Proof.Claim.DloadLoadsTheDictionary : Prop :=
  ∀ (s : State) (a : BitVec 6), Free s (useOf [a] 0 4) →
    let q := s.me.begin (useOf [a] 0 4)
    let x := q.src a
    (x = 0 → ∃ t, exec (.dload a) s = .next t ∧ OnlyMyCore s t ∧ DictionaryLoaded s t q 0 0 (fun _ => 0)) ∧
    (x ≠ 0 → x.toNat % 16 = 0 → (∀ e ∈ s.me.memQ, inStores e.op = false ∧ e.firstOf = false) → ∀ key, Granted s .load x 4096 key →
      ∃ t, exec (.dload a) s = .next t ∧ BesidesHomes s t ∧ MemorySame s t ∧
        DictionaryLoaded s t q (dloadTime s x) x (fun i => entryBytes s (key + 16 * i))) ∧
    (x.toNat % 16 ≠ 0 → CanTrap s →
      Traps (.dload a) s (useOf [a] 0 4) 0x12 (fun q => q.pc) (fun q => q.src a) (fun _ => 16)
        (fun _ => BitVec.ofNat 64 (myAsid s + 15 * 2 ^ 16)) (fun q => q.pc))

/-- R398, R400: DFENCE makes its quadrant expand with the new table, in 4 cycles; IFLUSH makes every instruction cache of the package, those of the issuing core's other quadrants among
them, drop the words that overlap its range and no other word, within 200 cycles and one for each 64 bytes. Neither changes a register, memory or anything else. -/
def Sys2Proof.Claim.CodeFencesDropWords : Prop :=
  ∀ (s : State),
    (Free s {} → CompletesMe .dfence s 3 (fun w => w = { s.me.begin {} with dictStale := false })) ∧
    (∀ (a b : BitVec 6), Free s (useOf [a, b] 0 4) → s.me.memQ = [] →
      let q := s.me.begin (useOf [a, b] 0 4)
      let len := (q.src b).toNat % 2 ^ 32
      let dropped (x w : Quad) : Prop := ({ w with icache := x.icache } : Quad) = x ∧
        ∀ j, w.icache.get 0 j = if (q.src a).toNat < j + 4 ∧ j < (q.src a).toNat + len then 0 else x.icache.get 0 j
      s.cur.quad < 4 →
      ∃ (t : State) (w : Quad) (n : Nat), exec (.iflush a b) s = .next t ∧ ({ t with cores := s.cores } : State) = s ∧ t.me = w.retire n ∧ dropped q w ∧
        n ≤ 199 + (len + 63) / 64 ∧ (len = 0 → n = 0) ∧
        (∀ c u, u < 4 → (c ≠ s.cur.core ∨ u ≠ s.cur.quad) → dropped (s.quadOf c u) (t.quadOf c u)) ∧
        ∀ c, ({ t.core c with q0 := (s.core c).q0, q1 := (s.core c).q1, q2 := (s.core c).q2, q3 := (s.core c).q3 } : Core) = s.core c)

/-- DLOAD loads the dictionary, DFENCE and IFLUSH drop words, and memory and registers stay. Model choices: log entries 2, 47, 111. -/
def Obligations.DictionaryLoadsAndCodeFences : Prop :=
  Sys2Proof.Claim.DloadLoadsTheDictionary ∧ Sys2Proof.Claim.CodeFencesDropWords

namespace Sys2Proof.Claim

/-! ### The memory engine -/

/-- The quadrant is still, its two memory queues are free to perform an entry in this cycle, and the value of every load has returned (R105, R118, R126). -/
def QueuesReady (s : State) : Prop := Still s.me ∧ s.me.memAt ≤ s.me.cyc ∧ s.me.storeAt ≤ s.me.cyc ∧ ∀ x ∈ s.me.flying, x.2 ≤ s.cycle

/-- The cycle in which the head of the quadrant's empty memory queue is tried (log entry 31). -/
def tryCycle (s : State) : Nat := max s.cycle s.me.cyc

/-- A word of the memory engine that is performed at once has taken the next fetch number and a place in its queue and left it again: `p` are the results on their way, and
`f` what the entry changes of the quadrant besides. When its queues go on, and which loads have yet to return, is not said here. -/
def LeavesItsQueue (s t : State) (p : List Pend) (f : Quad → Quad) : Prop :=
  ∃ loads stores l, t.me = { f (s.me.retire 0) with
    pend := p ++ (s.me.retire 0).pend, seq := s.me.seq + 1, memAt := loads, storeAt := stores, flying := l }

/-- Such a word completes: the quadrant goes on with its next word, and the rest of its core is as it was. -/
def Performed (s t : State) (p : List Pend) (f : Quad → Quad) : Prop :=
  t.myCore.setQuad s.cur.quad s.me = s.myCore ∧ LeavesItsQueue s t p f

/-- No store of the package that is on its way to another package, unacknowledged, covers a byte of the span (R106). -/
def NoneOnItsWay (s : State) (a : Word) (n : Nat) : Prop :=
  ∀ f ∈ s.fabric.flows, ∀ u ∈ f.2.unacked, u.p.ty = 1 →
    let b := (u.p.dpkg * 2 ^ 58 + u.p.home * 2 ^ 54 + u.p.offset) % 2 ^ 64
    a.toNat + n ≤ b ∨ b + u.p.payload.length ≤ a.toNat

/-- A loaded value in its register: sign- or zero-extended to 64 bits (R109). -/
def loaded (size : Nat) (signed : Bool) (b : List (BitVec 8)) : Word :=
  let n : Nat := (b.zipIdx.map (fun x => x.1.toNat * 2 ^ (8 * x.2))).sum
  if signed && decide (2 ^ (8 * 2 ^ size - 1) ≤ n) then BitVec.ofInt 64 ((n : Int) - (2 ^ (8 * 2 ^ size) : Nat)) else BitVec.ofNat 64 n

/-- The loads of R109, R110 and R113: log2 of the size, the sign, the register and the address. -/
structure LoadForm where
  size : Nat
  signed : Bool
  d : BitVec 6
  addr : Quad → Word

/-- An address with a scaled offset. -/
def plus (x : Word) (o : Int) (size : Nat) : Word := BitVec.ofInt 64 ((x.toNat : Int) + o * (2 ^ size : Nat))

def loadOf : Instr → Option LoadForm
  | .ldB d a o => some ⟨0, true, d, fun q => plus (q.src a) o.toInt 0⟩
  | .ldBn d a o => some ⟨0, false, d, fun q => plus (q.src a) o.toInt 0⟩
  | .ldH d a o => some ⟨1, true, d, fun q => plus (q.src a) o.toInt 1⟩
  | .ldHn d a o => some ⟨1, false, d, fun q => plus (q.src a) o.toInt 1⟩
  | .ldW d a o => some ⟨2, true, d, fun q => plus (q.src a) o.toInt 2⟩
  | .ldWn d a o => some ⟨2, false, d, fun q => plus (q.src a) o.toInt 2⟩
  | .ldD d a o => some ⟨3, false, d, fun q => plus (q.src a) o.toInt 3⟩
  | .lda d a z _ g o => some ⟨z.toNat, g = 1, d, fun q => plus (q.src a) o.toInt z.toNat⟩
  | .ldx d a b z g => some ⟨z.toNat, g = 1, d, fun q => plus (q.src a) (q.src b).toInt z.toNat⟩
  | _ => none

/-- The stores of R109 and R110: log2 of the size, the value, the guard, the release scope (none for a plain store) and the address. -/
structure StoreForm where
  size : Nat
  v : BitVec 6
  g : BitVec 4
  release : Option (BitVec 2)
  addr : Quad → Word

def storeOf : Instr → Option StoreForm
  | .stB v a g o => some ⟨0, v, g, none, fun q => plus (q.src a) o.toInt 0⟩
  | .stH v a g o => some ⟨1, v, g, none, fun q => plus (q.src a) o.toInt 1⟩
  | .stW v a g o => some ⟨2, v, g, none, fun q => plus (q.src a) o.toInt 2⟩
  | .stD v a g o => some ⟨3, v, g, none, fun q => plus (q.src a) o.toInt 3⟩
  | .stl v a g z c o => some ⟨z.toNat, v, g, some c, fun q => plus (q.src a) o.toInt z.toNat⟩
  | _ => none

/-- Does a guard hold (R48)? -/
def guardHolds (q : Quad) (g : BitVec 4) : Bool := q.pr (g.toNat % 8) == decide (g.toNat < 8)

/-- No watchpoint of the quadrant is armed (R133). -/
def Unwatched (q : Quad) : Prop := ∀ k, k < 4 → q.watch.get 0 k = 0

/-- No packet to another package is unacknowledged, no implicit close is under way, and no batch is closing or has anything to close
(R107, R110, R386). -/
def NothingPosted (s : State) : Prop :=
  (∀ f ∈ s.fabric.flows, f.2.unacked = []) ∧ s.me.implicit = [] ∧ s.me.kept = none ∧
    ∀ k, k < 4 → (s.me.batches.get {} k).st ≠ .closing ∧ ((s.me.batches.get {} k).st = .open → (s.me.batches.get {} k).peers = [])

/-- Every earlier access of the quadrant is done: none is queued, no value is on its way to a register, none is posted. -/
def Settled (s : State) : Prop := s.me.memQ = [] ∧ (∀ x ∈ s.me.flying, x.2 ≤ s.me.cyc) ∧ NothingPosted s

/-- The new value of an atomic (R117); none where ACAS does not match. -/
def atomicOf : Instr → Option (BitVec 6 × BitVec 6 × BitVec 6 × BitVec 4 × (Word → Word → Word → Option Word))
  | .aadd d a b g _ => some (d, a, b, g, fun o x _ => some (BitVec.ofNat 64 (o.toNat + x.toNat)))
  | .aand d a b g _ => some (d, a, b, g, fun o x _ => some (o &&& x))
  | .aor d a b g _ => some (d, a, b, g, fun o x _ => some (o ||| x))
  | .axor d a b g _ => some (d, a, b, g, fun o x _ => some (o ^^^ x))
  | .amin d a b g _ => some (d, a, b, g, fun o x _ => some (if o.toInt ≤ x.toInt then o else x))
  | .amax d a b g _ => some (d, a, b, g, fun o x _ => some (if x.toInt ≤ o.toInt then o else x))
  | .aminn d a b g _ => some (d, a, b, g, fun o x _ => some (if o.toNat ≤ x.toNat then o else x))
  | .amaxn d a b g _ => some (d, a, b, g, fun o x _ => some (if x.toNat ≤ o.toNat then o else x))
  | .aswp d a b g _ => some (d, a, b, g, fun _ x _ => some x)
  | .acas d a b g _ => some (d, a, b, g, fun o x c => if o = c then some x else none)
  | _ => none

/-- The bytes of memory from a key on. -/
def memBytes (s : State) (key n : Nat) : List (BitVec 8) := (List.range n).map (fun j => s.byteAt (key + j))

/-- The low `n` bytes of a value, lowest first. -/
def lowBytes (x n : Nat) : List (BitVec 8) := (List.range n).map (fun j => BitVec.ofNat 8 (x / 2 ^ (8 * j)))

/-- A lane of a v register (R161), signed. -/
def laneInt (v : VReg) (i : Nat) : Int := (BitVec.ofNat 32 (v.toNat / 2 ^ (32 * i))).toInt

end Sys2Proof.Claim
open Sys2Proof Sys2Proof.Machine Sys2Proof.Claim

/-- R109, R110, R113: a load of an aligned, granted address puts the bytes there, extended, on their way to d and b2, and changes no byte of memory. Model choices: log entries 31, 86. -/
def Obligations.LoadsReadTheirAddress : Prop :=
  ∀ (s : State) (i : Instr) (l : LoadForm) (key : Nat), loadOf i = some l → QueuesReady s → Unwatched s.me →
    (l.addr s.me).toNat % 2 ^ l.size = 0 → Granted s .load (l.addr s.me) (2 ^ l.size) key → NoneOnItsWay s (l.addr s.me) (2 ^ l.size) →
    ∃ t n, exec i s = .next t ∧ BesidesHomes s t ∧ MemorySame s t ∧
      Performed s t [{ eng := 1, dst := landsIn l.d, latch := 2, val := (loaded l.size l.signed (memBytes s key (2 ^ l.size))).toNat, mask := 0,
                       land := n }] id

/-- R109, R110, R49: a store of an aligned, granted address writes the low bytes of its register there and no other byte; guarded off it makes no access. The
address is that of the form. STL waits for the quadrant's stores to other packages. Model choices: log entry 31. -/
def Obligations.StoresWriteTheirAddress : Prop :=
  ∀ (s : State) (i : Instr) (l : StoreForm), storeOf i = some l → QueuesReady s →
    (guardHolds s.me l.g = false → ∃ t, exec i s = .next t ∧ OnlyMe s t ∧ Performed s t [] id) ∧
    (guardHolds s.me l.g = true → Unwatched s.me → (l.release ≠ none → NothingPosted s) → (l.addr s.me).toNat % 2 ^ l.size = 0 →
      ∀ key, Granted s .store (l.addr s.me) (2 ^ l.size) key →
        ∃ t, exec i s = .next t ∧ BesidesHomes s t ∧ MemoryWrites s t key (lowBytes (s.me.src l.v).toNat (2 ^ l.size)) ∧
          Performed s t [] id)

/-- R114: VLD reads 128 bytes into a v register, VST writes the lanes whose mask bit is set, with k = 0 all of them, and no other byte. -/
def Sys2Proof.Claim.VectorAccessesMoveLanes : Prop :=
  ∀ (s : State) (v : BitVec 5) (a : BitVec 6), QueuesReady s → Unwatched s.me →
    (∀ (o : BitVec 12) (key : Nat), let x := plus (s.me.src a) o.toInt 7
      x.toNat % 4 = 0 → Granted s .load x 128 key → NoneOnItsWay s x 128 →
      ∃ t n, exec (.vld v a o) s = .next t ∧ BesidesHomes s t ∧ MemorySame s t ∧
        Performed s t [{ eng := 1, dst := .v v.toNat, latch := 4, val := ((memBytes s key 128).zipIdx.map (fun b => b.1.toNat * 2 ^ (8 * b.2))).sum,
                         mask := 2 ^ 1024 - 1, land := n }] id) ∧
    (∀ (g : BitVec 4) (k : BitVec 1) (m : BitVec 3) (o : BitVec 4) (key : Nat), let x := plus (s.me.src a) o.toInt 7
      let mask := if k = 1 then s.me.mr m.toNat else 0xFFFFFFFF
      guardHolds s.me g = true → x.toNat % 4 = 0 → x.toNat % 65536 + 128 ≤ 65536 →
      (∀ l, l < 32 → Granted s .store (x + BitVec.ofNat 64 (4 * l)) 4 (key + 4 * l)) →
      ∃ t, exec (.vst v a g k m o) s = .next t ∧ BesidesHomes s t ∧ Performed s t [] id ∧
        ∀ j, t.byteAt j = if key ≤ j ∧ j < key + 128 ∧ mask.getLsbD ((j - key) / 4) = true then
          BitVec.ofNat 8 ((s.me.vr v.toNat).toNat / 2 ^ (8 * (j - key))) else s.byteAt j)

/-- R115, R116, R456: VGATH reads each lane at the base plus its scaled index, and puts it on its way to its lane of the register, none before the lanes below it; VSCAT stores each lane there in
ascending order, no other byte changing; PROG2 is 0 at the end. -/
def Sys2Proof.Claim.GatherAndScatterGoLaneByLane : Prop :=
  ∀ (s : State) (d j : BitVec 5) (a : BitVec 6) (z : BitVec 2) (g : BitVec 1) (p : BitVec 4) (key : Nat → Nat), QueuesReady s → Unwatched s.me →
    s.me.prog2 = 0 → z.toNat < 3 →
    let x (l : Nat) : Word := plus (s.me.src a) (laneInt (s.me.vr j.toNat) l) z.toNat
    (∀ l, l < 32 → (x l).toNat % 2 ^ z.toNat = 0) →
    ((∀ l, l < 32 → Granted s .load (x l) (2 ^ z.toNat) (key l) ∧ NoneOnItsWay s (x l) (2 ^ z.toNat)) →
      ∃ t, ∃ n : Nat → Nat, exec (.vgath d a j z g) s = .next t ∧ BesidesHomes s t ∧ MemorySame s t ∧ (∀ l, n l ≤ n (l + 1)) ∧
        Performed s t ((List.range 32).map (fun l => { eng := 1, dst := .v d.toNat, latch := 4
                                                       val := (loaded z.toNat (g = 1) (memBytes s (key l) (2 ^ z.toNat))).toNat % 2 ^ 32 * 2 ^ (32 * l)
                                                       mask := (2 ^ 32 - 1) * 2 ^ (32 * l), land := n l })) id) ∧
    ((∀ l, l < 32 → Granted s .store (x l) (2 ^ z.toNat) (key l)) → guardHolds s.me p = true →
      ∃ t, exec (.vscat d a p j z) s = .next t ∧ BesidesHomes s t ∧ Performed s t [] id ∧
        (∀ k, (∀ l, l < 32 → ¬ (key l ≤ k ∧ k < key l + 2 ^ z.toNat)) → t.byteAt k = s.byteAt k) ∧
        ∀ l k, l < 32 → key l ≤ k → k < key l + 2 ^ z.toNat →
          (∀ m, l < m → m < 32 → ¬ (key m ≤ k ∧ k < key m + 2 ^ z.toNat)) →
            t.byteAt k = BitVec.ofNat 8 ((s.me.vr d.toNat).toNat / 2 ^ (32 * l) / 2 ^ (8 * (k - key l))))

/-- R117, R118: an atomic writes the new value over the old one at its 8-byte address, no other byte changing, and the old value is on its way to d and b2; with
d = 0 it writes neither. A failing ACAS writes nothing. Model choices: log entry 31. -/
def Obligations.AtomicsUpdateOneLocation : Prop :=
  ∀ (s : State) (i : Instr) (d a b : BitVec 6) (g : BitVec 4) (f : Word → Word → Word → Option Word) (key : Nat),
    atomicOf i = some (d, a, b, g, f) → QueuesReady s →
    (guardHolds s.me g = false → ∃ t, exec i s = .next t ∧ OnlyMe s t ∧ Performed s t [] id) ∧
    (guardHolds s.me g = true → Unwatched s.me → NothingPosted s → (s.me.src a).toNat % 8 = 0 → Granted s .atomic (s.me.src a) 8 key →
      let old := loaded 3 false (memBytes s key 8)
      ∃ t n, exec i s = .next t ∧ BesidesHomes s t ∧
        (match f old (s.me.src b) (s.me.gr d.toNat) with
          | some v => MemoryWrites s t key (lowBytes v.toNat 8)
          | none => MemorySame s t) ∧
        Performed s t (if d = 0 then [] else [{ eng := 1, dst := .g d.toNat, latch := 2, val := old.toNat, mask := 0, land := n }]) id)

namespace Sys2Proof.Claim

/-- What an access of R109, R110, R113, R114 or R117 needs of its address: the multiple that the address must be, the access size that ALIGN reports, and its kind (R124). -/
structure AlignForm where
  addr : Quad → Word
  needs : Nat
  size : Nat
  kind : Nat

/-- The accesses of one address that a quadrant makes with its guard (R49): of a VST at least one lane is stored. -/
def alignOf (q : Quad) (i : Instr) : Option AlignForm :=
  match loadOf i, storeOf i, atomicOf i, i with
  | some l, _, _, _ => some ⟨l.addr, 2 ^ l.size, 2 ^ l.size, 0⟩
  | _, some l, _, _ => if guardHolds q l.g then some ⟨l.addr, 2 ^ l.size, 2 ^ l.size, 1⟩ else none
  | _, _, some (_, a, _, g, _), _ => if guardHolds q g then some ⟨fun q => q.src a, 8, 8, 2⟩ else none
  | _, _, _, .vld _ a o => some ⟨fun q => plus (q.src a) o.toInt 7, 4, 128, 3⟩
  | _, _, _, .vst _ a g k m o => if guardHolds q g ∧ (k = 1 → q.mr m.toNat ≠ 0) then some ⟨fun q => plus (q.src a) o.toInt 7, 4, 128, 4⟩ else none
  | _, _, _, _ => none

/-- The word is steered, and its entry has trapped with ALIGN (R124): the entry is the queue image, EINFO0 the address, EINFO1 the access size, EINFO2 tenant, kind and lane, EINFO3 the
word's address, and EPC the next word; the handler is entered. -/
def Misaligned (s t : State) (i : Instr) (a : Word) (size kind lane : Nat) : Prop :=
  t.me.memQ = [] ∧ t.me.memImg.map MemEntry.word = [i] ∧ t.me.inh = true ∧ t.me.cause = 0x12 ∧ t.me.pc = s.me.trapvec ∧ t.me.epc = (s.me.retire 0).pc ∧
  t.me.lsave = s.me.b ∧ t.me.g = (s.me.retire 0).g ∧ t.me.v = s.me.v ∧ t.me.einf 0 = a ∧ t.me.einf 1 = BitVec.ofNat 64 size ∧
  t.me.einf 2 = BitVec.ofNat 64 (myAsid s + kind * 2 ^ 16 + lane * 2 ^ 20) ∧ t.me.einf 3 = s.me.pc

end Sys2Proof.Claim
open Sys2Proof Sys2Proof.Machine Sys2Proof.Claim

/-- R109, R110, R113 to R117, R124: a load, store, atomic, VLD or VST whose address is not aligned raises ALIGN, and nothing else and no byte of memory changes; so does VGATH or VSCAT, at lane 0,
where its base is not a multiple of the element size. Model choices: log entries 31, 51. -/
def Obligations.MisalignedAccessTraps : Prop :=
  ∀ (s : State) (i : Instr), QueuesReady s → CanTrap s →
    (∀ f : AlignForm, alignOf s.me i = some f → (f.addr s.me).toNat % f.needs ≠ 0 →
      ∃ t, exec i s = .next t ∧ OnlyMe s t ∧ Misaligned s t i (f.addr s.me) f.size f.kind 0) ∧
    (∀ (d j : BitVec 5) (a : BitVec 6) (z : BitVec 2) (g : BitVec 1) (p : BitVec 4), s.me.prog2 = 0 → z.toNat < 3 → (s.me.src a).toNat % 2 ^ z.toNat ≠ 0 →
      let x : Word := plus (s.me.src a) (laneInt (s.me.vr j.toNat) 0) z.toNat
      (i = .vgath d a j z g → ∃ t, exec i s = .next t ∧ OnlyMe s t ∧ Misaligned s t i x (2 ^ z.toNat) 5 0 ∧ t.me.prog2 = 0) ∧
      (i = .vscat d a p j z → guardHolds s.me p = true → ∃ t, exec i s = .next t ∧ OnlyMe s t ∧ Misaligned s t i x (2 ^ z.toNat) 6 0 ∧ t.me.prog2 = 0))

/-- R107: with nothing of the quadrant outstanding, MARK and FENCE complete at once and change no register and no memory. With a store to another package
unacknowledged, they wait at the head of the queue. -/
def Sys2Proof.Claim.MarkAndFenceWaitForEarlierAccesses : Prop :=
  ∀ (s : State) (c : BitVec 2) (i : Instr), i = .mark c ∨ i = .fence c → QueuesReady s →
    (NothingPosted s → ∃ t, exec i s = .next t ∧ OnlyMe s t ∧ Performed s t [] id) ∧
    (s.postedLeft s.agent false = true → ∃ t e, exec i s = .next t ∧ OnlyMe s t ∧ t.me.memQ = [e] ∧ e.wordAt = s.me.pc ∧
      t.me = { s.me.retire 0 with memQ := [e], seq := s.me.seq + 1, memAt := tryCycle s + 1, storeAt := s.me.cyc })

/-- R127, R128: the tag table. TINS writes its slot and clears the line's other ones, TINV clears the line, TSTAT reads a slot, LKUP finds the lowest granted slot
that holds the line, all ones for none. OWN of TSTAT reads 0 in a slot without an entry. Model choices: log entry 95. -/
def Obligations.TagTableWordsFindAndPlaceLines : Prop :=
  ∀ (s : State) (d a b : BitVec 6), QueuesReady s → s.cur.core < 1536 →
    let line (x : Word) : Nat := x.toNat / 512
    let held (e : TagEntry) (x : Word) : Prop := e.v = true ∧ e.asid = myAsid s ∧ e.line = line x
    let granted (k : Nat) : Prop := s.bankOk s.cur.core (k / 128) (myTask s) = true
    (∃ t r n, exec (.lkup d a) s = .next t ∧ OnlyMe s t ∧
      Performed s t [{ eng := 1, dst := landsIn d, latch := 2, val := r, mask := 0, land := n }] id ∧
      ((r = 2 ^ 64 - 1 ∧ (∀ k, k < 1024 → granted k → ¬ held (s.myCore.tags.get {} k) (s.me.src a))) ∨
        (r < 1024 ∧ granted r ∧ held (s.myCore.tags.get {} r) (s.me.src a) ∧ ∀ k, k < r → granted k → ¬ held (s.myCore.tags.get {} k) (s.me.src a)))) ∧
    (let slot := (s.me.src b).toNat;
      slot < 1024 → granted slot → ∃ t, exec (.tins a b) s = .next t ∧ OnlyMyCore s t ∧
        LeavesItsQueue s t [] id ∧
        t.myCore.tags.get {} slot = { v := true, asid := myAsid s, line := line (s.me.src a) } ∧
        ∀ k, k < 1024 → k ≠ slot → (¬ held (s.myCore.tags.get {} k) (s.me.src a) → t.myCore.tags.get {} k = s.myCore.tags.get {} k) ∧
          (held (s.myCore.tags.get {} k) (s.me.src a) → t.myCore.tags.get {} k = {})) ∧
    (∃ t, exec (.tinv a) s = .next t ∧ OnlyMyCore s t ∧ LeavesItsQueue s t [] id ∧
      ∀ k, k < 1024 → (¬ held (s.myCore.tags.get {} k) (s.me.src a) → t.myCore.tags.get {} k = s.myCore.tags.get {} k) ∧
        (held (s.myCore.tags.get {} k) (s.me.src a) → t.myCore.tags.get {} k = {})) ∧
    (let slot := (s.me.src a).toNat;
      slot < 1024 → granted slot → ∃ t n, exec (.tstat d a) s = .next t ∧ OnlyMe s t ∧
        let e := s.myCore.tags.get {} slot
        let x := (if e.v then 2 ^ 63 else 0) + (if e.v = true ∧ e.asid = myAsid s then 2 ^ 62 + e.line else 0)
        Performed s t [{ eng := 1, dst := landsIn d, latch := 2, val := x, mask := 0, land := n }] id)

/-- R126: an answer from another package completes the load at the head of its quadrant's queue: the value is on its way to the register and to b2. Without an answer
nothing changes but whose turn it is. -/
def Sys2Proof.Claim.LoadReturnCompletesItsLoad : Prop :=
  ∀ (s : State) (c n : Nat), let u : State := { s with cur := { core := c, quad := n } };
    ((s.quadOf c n).memReply = none → exec (.loadReturn c n) s = .next u) ∧
    (∀ size sg dst acq addr (e : MemEntry) rest tok b, u.me.memQ = e :: rest → e.op = .load size sg dst acq → e.addr = addr →
      (∀ x ∈ u.me.memQ, x.waits = false) → u.me.memTok = some tok → u.me.memReply = some { status := 0, bytes := b } → u.me.pend = [] → Unwatched u.me → size < 4 → b.length = 2 ^ size →
      addr.toNat % 2 ^ size = 0 → homeOf addr < 8 → pkgOf addr ≠ s.pkg → u.feat 6 = true →
      ∃ t m, exec (.loadReturn c n) s = .next t ∧ OnlyMe u t ∧
        t.me = { u.me with
          pend := [{ eng := 1, dst := dst, latch := 2, val := (loaded size sg b).toNat, mask := 0, land := m }], memQ := rest
          memTok := none, memReply := none, memStall := none, memAt := t.me.memAt, storeAt := t.me.storeAt, flying := t.me.flying })

/-- VLD, VST, VGATH and VSCAT move their lanes, each at its address, and no other byte. Model choices: log entries 31, 51. -/
def Obligations.VectorAccessesGoLaneByLane : Prop :=
  Sys2Proof.Claim.VectorAccessesMoveLanes ∧ Sys2Proof.Claim.GatherAndScatterGoLaneByLane

/-- MARK and FENCE wait for earlier accesses; a remote answer completes the load that waits. Model choices: log entry 31. -/
def Obligations.MemoryQueueWaitsAndReturns : Prop :=
  Sys2Proof.Claim.MarkAndFenceWaitForEarlierAccesses ∧ Sys2Proof.Claim.LoadReturnCompletesItsLoad

namespace Sys2Proof.Claim

/-! ### The vector unit -/

/-- Width of an element of a type, elements of a lane, and whether the type is natural or float (R162). -/
def wid (t : Nat) : Nat := [32, 16, 16, 32, 32, 16, 8, 8].getD t 32
def perLane (t : Nat) : Nat := 32 / wid t
def naturalType (t : Nat) : Bool := t == 4 || t == 7
def floatType (t : Nat) : Bool := decide (t < 3)

/-- Element `j` of a register in `w`-bit elements, and the integer that it holds. -/
def el (w : Nat) (v : VReg) (j : Nat) : Nat := v.toNat / 2 ^ (w * j) % 2 ^ w
def asInt (t x : Nat) : Int := if naturalType t || decide (x < 2 ^ (wid t - 1)) then (x : Int) else (x : Int) - (2 ^ wid t : Nat)
/-- An exact integer in an element: clamped to the element range of R162 where `sat` asks for it, then its low bits (R164, R171). -/
def fit (t : Nat) (sat : Bool) (z : Int) : Nat :=
  let lo : Int := if naturalType t then 0 else -(2 ^ (wid t - 1) : Nat)
  let hi : Int := if naturalType t then (2 ^ wid t : Nat) - 1 else (2 ^ (wid t - 1) : Nat) - 1
  ((if sat then max lo (min hi z) else z) % (2 ^ wid t : Nat)).toNat

/-- The register value whose element `j` is `f j`, for every element. -/
def elements (t : Nat) (v : Nat) (f : Nat → Nat) : Bool :=
  decide (v < 2 ^ 1024) && (List.range (1024 / wid t)).all (fun j => v / 2 ^ (wid t * j) % 2 ^ wid t == f j)

/-- The mask whose bit `i` is `f i`. -/
def maskBits (v : Nat) (f : Nat → Bool) : Bool := decide (v < 2 ^ 32) && (List.range 32).all (fun i => v.testBit i == f i)

/-- The number in a float element, and a number rounded to nearest even (R148). -/
def num (t x : Nat) : Machine.Num := decodeNum ([32, 2, 1].getD t 32) x
def nearest (t : Nat) (z : Machine.Num) : Nat := rne ([32, 2, 1].getD t 32) z

/-- A result of the vector unit: where it goes, its latch, its latency, the bits it writes, and what is known of its value. -/
structure VecForm where
  dst : Dst
  tells : Quad → Nat → Bool
  lat : Nat := 2
  latch : Nat := 4
  mask : Nat := 2 ^ 1024 - 1
  conv : Bool := false

/-- The relations of VCMP for integers (R175). -/
def intRelation (c : Nat) (x y : Int) : Bool :=
  [decide (x = y), decide (x ≠ y), decide (x < y), decide (x ≤ y), decide (y < x), decide (y ≤ x), false, true].getD c false

/-- Integer addition, minimum, maximum, and, or, exclusive or, on elements (R182). -/
def joined (t op x y : Nat) : Nat :=
  match op with
  | 0 => fit t false (asInt t x + asInt t y)
  | 1 => if asInt t y < asInt t x then y else x
  | 2 => if asInt t x < asInt t y then y else x
  | 3 => x &&& y
  | 4 => x ||| y
  | _ => x ^^^ y

/-- The elements at one position of every lane, joined in lane order, which for integers is what the tree gives (R182, R183). -/
def joinLanes (t op j : Nat) (v : VReg) (n : Nat) : Nat :=
  (List.range (n - 1)).foldl (fun acc i => joined t op acc (el (wid t) v (perLane t * (i + 1) + j))) (el (wid t) v j)

/-- What the rules say of the value of every vector word: exactly for integers, moves, masks and constants, and for float words whose exact result is rounded
once (R171 to R174); nothing here of conversions between types, special functions and block formats. -/
def vectorOf : Instr → Option VecForm
  | .vadd d a b t s => some { dst := .v d.toNat, tells := (fun q v => elements t.toNat v (fun j =>
      let x := el (wid t.toNat) (q.vr a.toNat) j; let y := el (wid t.toNat) (q.vr b.toNat) j
      if floatType t.toNat then nearest t.toNat ((num t.toNat x).add (num t.toNat y)) else fit t.toNat (s = 1) (asInt t.toNat x + asInt t.toNat y))) }
  | .vsub d a b t s => some { dst := .v d.toNat, tells := (fun q v => elements t.toNat v (fun j =>
      let x := el (wid t.toNat) (q.vr a.toNat) j; let y := el (wid t.toNat) (q.vr b.toNat) j
      if floatType t.toNat then nearest t.toNat ((num t.toNat x).add (num t.toNat y).flip) else fit t.toNat (s = 1) (asInt t.toNat x - asInt t.toNat y))) }
  | .vmul d a b t s => some { dst := .v d.toNat, lat := 4, tells := (fun q v => elements t.toNat v (fun j =>
      let x := el (wid t.toNat) (q.vr a.toNat) j; let y := el (wid t.toNat) (q.vr b.toNat) j
      if floatType t.toNat then nearest t.toNat ((num t.toNat x).mul (num t.toNat y)) else fit t.toNat (s = 1) (asInt t.toNat x * asInt t.toNat y))) }
  | .vfma d a b t c => some { dst := .v d.toNat, lat := 4, tells := (fun q v => elements t.toNat v (fun j =>
      let x := el (wid t.toNat) (q.vr a.toNat) j; let y := el (wid t.toNat) (q.vr b.toNat) j; let z := el (wid t.toNat) (q.vr c.toNat) j
      if floatType t.toNat then nearest t.toNat (((num t.toNat x).mul (num t.toNat y)).add (num t.toNat z))
      else fit t.toNat false (asInt t.toNat x * asInt t.toNat y + asInt t.toNat z))) }
  | .vmin d a b t => some { dst := .v d.toNat, tells := (fun q v => floatType t.toNat || elements t.toNat v (fun j =>
      joined t.toNat 1 (el (wid t.toNat) (q.vr a.toNat) j) (el (wid t.toNat) (q.vr b.toNat) j))) }
  | .vmax d a b t => some { dst := .v d.toNat, tells := (fun q v => floatType t.toNat || elements t.toNat v (fun j =>
      joined t.toNat 2 (el (wid t.toNat) (q.vr a.toNat) j) (el (wid t.toNat) (q.vr b.toNat) j))) }
  | .vabs d a t s => some { dst := .v d.toNat, tells := (fun q v => floatType t.toNat || elements t.toNat v (fun j =>
      fit t.toNat (s = 1) (asInt t.toNat (el (wid t.toNat) (q.vr a.toNat) j)).natAbs)) }
  | .vneg d a t s => some { dst := .v d.toNat, tells := (fun q v => floatType t.toNat || elements t.toNat v (fun j =>
      fit t.toNat (s = 1) (-asInt t.toNat (el (wid t.toNat) (q.vr a.toNat) j)))) }
  | .vand d a b => some { dst := .v d.toNat, tells := (fun q v => v == (q.vr a.toNat &&& q.vr b.toNat).toNat) }
  | .vor d a b => some { dst := .v d.toNat, tells := (fun q v => v == (q.vr a.toNat ||| q.vr b.toNat).toNat) }
  | .vxor d a b => some { dst := .v d.toNat, tells := (fun q v => v == (q.vr a.toNat ^^^ q.vr b.toNat).toNat) }
  | .vshl d a b t i => some { dst := .v d.toNat, tells := (fun q v => elements t.toNat v (fun j =>
      let n := if i = 1 then b.toNat else el (wid t.toNat) (q.vr b.toNat) j % wid t.toNat
      el (wid t.toNat) (q.vr a.toNat) j * 2 ^ n % 2 ^ wid t.toNat)) }
  | .vshr d a b t i => some { dst := .v d.toNat, tells := (fun q v => elements t.toNat v (fun j =>
      let n := if i = 1 then b.toNat else el (wid t.toNat) (q.vr b.toNat) j % wid t.toNat
      el (wid t.toNat) (q.vr a.toNat) j / 2 ^ n)) }
  | .vsar d a b t i => some { dst := .v d.toNat, tells := (fun q v => elements t.toNat v (fun j =>
      let n := if i = 1 then b.toNat else el (wid t.toNat) (q.vr b.toNat) j % wid t.toNat
      let x := el (wid t.toNat) (q.vr a.toNat) j
      (((x : Int) - (if x < 2 ^ (wid t.toNat - 1) then 0 else 2 ^ wid t.toNat : Nat)) / (2 ^ n : Nat) % (2 ^ wid t.toNat : Nat)).toNat)) }
  | .vcmp m a b t y c => some { dst := .m m.toNat, tells := (fun q v => floatType t.toNat || maskBits v (fun i =>
      let holds (j : Nat) : Bool := intRelation c.toNat (asInt t.toNat (el (wid t.toNat) (q.vr a.toNat) (perLane t.toNat * i + j)))
        (asInt t.toNat (el (wid t.toNat) (q.vr b.toNat) (perLane t.toNat * i + j)))
      if y = 1 then (List.range (perLane t.toNat)).any holds else (List.range (perLane t.toNat)).all holds)) }
  | .vsel d a b m => some { dst := .v d.toNat, tells := (fun q v => elements 3 v (fun i =>
      if (q.mr m.toNat).getLsbD i then el 32 (q.vr a.toNat) i else el 32 (q.vr b.toNat) i)) }
  | .vcvt d a _ t _ y => some { dst := .v d.toNat, conv := true, tells := (fun q v => decide (t ≠ y) || v == (q.vr a.toNat).toNat) }
  | .vred d a t g o => some { dst := if g = 1 then landsIn d else .v (d.toNat % 32), latch := if g = 1 then 3 else 4, tells := (fun q v =>
      floatType t.toNat || (
        let z := (List.range (perLane t.toNat)).foldr (fun j acc => joinLanes t.toNat o.toNat j (q.vr a.toNat) 32 + 2 ^ wid t.toNat * acc) 0
        if g = 1 then v == (if t = 3 then (BitVec.ofNat 32 z).signExtend 64 else BitVec.ofNat 64 z).toNat else elements 3 v (fun _ => z))) }
  | .vscan d a t x o => some { dst := .v d.toNat, tells := (fun q v => floatType t.toNat || decide (x ≠ 0) || elements t.toNat v (fun j =>
      joinLanes t.toNat o.toNat (j % perLane t.toNat) (q.vr a.toNat) (j / perLane t.toNat + 1))) }
  | .vperm d a b => some { dst := .v d.toNat, tells := (fun q v => elements 3 v (fun i =>
      let n := el 32 (q.vr b.toNat) i
      if 2 ^ 31 ≤ n then 0 else el 32 (q.vr a.toNat) (n % 32))) }
  | .vbcast d a t => some { dst := .v d.toNat, tells := (fun q v => elements t.toNat v (fun _ => (q.src a).toNat % 2 ^ wid t.toNat)) }
  | .vextr d a e t l => some { dst := landsIn d, latch := 3, tells := (fun q v =>
      let x := el (wid t.toNat) (q.vr a.toNat) (perLane t.toNat * l.toNat + e.toNat)
      v == if t = 3 ∨ t = 5 ∨ t = 6 then (BitVec.ofInt 64 (asInt t.toNat x)).toNat else x) }
  | .vins d a e t l => some { dst := .v d.toNat, mask := (2 ^ wid t.toNat - 1) * 2 ^ (32 * l.toNat + wid t.toNat * e.toNat), tells := (fun q v =>
      v == (q.src a).toNat % 2 ^ wid t.toNat * 2 ^ (32 * l.toNat + wid t.toNat * e.toNat)) }
  | .vrcp d _ _ | .vrsq d _ _ | .vexp2 d _ _ | .vlog2 d _ _ | .vsin d _ _ | .vcos d _ _ | .vact d _ =>
    some { dst := .v d.toNat, lat := 8, tells := (fun _ v => decide (v < 2 ^ 1024)) }
  | .vrng d _ _ _ => some { dst := .v d.toNat, tells := (fun _ v => decide (v < 2 ^ 1024)) }
  | .vqnt d _ _ | .vdqnt d _ _ => some { dst := .v d.toNat, conv := true, tells := (fun _ _ => true) }
  | .vdot4 d a b t c => some { dst := .v d.toNat, lat := 4, tells := (fun q v => floatType t.toNat || elements 3 v (fun i =>
      let p (j : Nat) : Int := asInt t.toNat (el (wid t.toNat) (q.vr a.toNat) (perLane t.toNat * i + j)) *
        asInt t.toNat (el (wid t.toNat) (q.vr b.toNat) (perLane t.toNat * i + j))
      ((((el 32 (q.vr c.toNat) i : Nat) : Int) + ((List.range (perLane t.toNat)).map p).sum) % (2 ^ 32 : Nat)).toNat)) }
  | .vmovmMv d a => some { dst := .m d.toNat, tells := (fun q v => maskBits v (fun i => decide (el 32 (q.vr a.toNat) i ≠ 0))) }
  | .vmovmVm d m => some { dst := .v d.toNat, tells := (fun q v => elements 3 v (fun i => if (q.mr m.toNat).getLsbD i then 0xFFFFFFFF else 0)) }
  | .vmovmMg m a => some { dst := .m m.toNat, tells := (fun q v => v == (q.src a).toNat % 2 ^ 32) }
  | .mlog d a b g f => some { dst := if g = 1 then landsIn d else .m (d.toNat % 8), latch := if g = 1 then 3 else 4, tells := (fun q v =>
      let x := q.mr a.toNat; let y := q.mr b.toNat
      if g ≠ 1 then maskBits v (fun i => f.getLsbD ((x.getLsbD i).toNat * 2 + (y.getLsbD i).toNat))
      else if f = 0 then v == ((List.range 32).map (fun i => ((x &&& y).getLsbD i).toNat)).sum
      else if f = 1 then if x &&& y = 0 then v == 32 else decide (v < 32) && (x &&& y).getLsbD v && (List.range v).all (fun i => !(x &&& y).getLsbD i)
      else decide (f ≠ 2) || v == (x &&& y).toNat) }
  | .vidx d t => some { dst := .v d.toNat, tells := (fun _ v => elements t.toNat v (fun j => j)) }
  | .vli d k i => some { dst := .v d.toNat, tells := (fun _ v => elements 3 v (fun _ =>
      if k = 0 then (i.signExtend 32).toNat else if k = 1 then i.toNat * 2 ^ 16 else i.toNat * 2 ^ 16 + i.toNat)) }
  | _ => none

/-- VQNT and VDQNT of a format with a marker need feature 1 (R414). -/
def barred (s : State) : Instr → Prop
  | .vqnt _ _ f | .vdqnt _ _ f => markerCode f.toNat ∧ (s.hub.featoff &&& s.hub.featacc).getLsbD 1 = false
  | _ => False

/-- The vector unit issues the word in the cycle in which it is steered: `p` is its result on its way, the next word may issue a cycle later; PROG0 and the queue are then as
given. Nothing else of the quadrant and the core changes but the flags and the random-number count of a conversion. -/
def IssuedWith (s t : State) (i : VecForm) (p prog0 : Nat) (queue : List VecEntry) : Prop :=
  OnlyMyCore s t ∧ (i.conv = false → OnlyMe s t) ∧
  ({ t.myCore.setQuad s.cur.quad s.me with srcnt := s.myCore.srcnt } : Core) = s.myCore ∧
  (i.conv = false → t.me.cvsat = s.me.cvsat ∧ t.me.cvnanz = s.me.cvnanz ∧ t.me.cvsatAt = s.me.cvsatAt ∧ t.me.cvnanzAt = s.me.cvnanzAt) ∧
  t.me = { s.me.retire 0 with
    pend := [{ eng := 2, dst := i.dst, latch := i.latch, val := p, mask := i.mask, land := tryCycle s + i.lat }]
    vcyc := tryCycle s + 1, vecAt := tryCycle s + 1, seq := s.me.seq + 1, prog0 := prog0, vecQ := queue, cvsat := t.me.cvsat, cvnanz := t.me.cvnanz
    cvsatAt := t.me.cvsatAt, cvnanzAt := t.me.cvnanzAt }

/-- A word that is no repeated one leaves the queue. -/
def Issued (s t : State) (i : VecForm) (p : Nat) : Prop := IssuedWith s t i p s.me.prog0 []

end Sys2Proof.Claim
open Sys2Proof Sys2Proof.Machine Sys2Proof.Claim

/-- R161 to R182, R165: a vector word steered into an empty queue issues at once, and its result lands after its pipeline's latency, also in b3 where it goes to a g register. The
result is stated for integers, moves, masks and constants, and for float sums and products rounded once; of VRNG, special functions, block formats, conversions between types,
and float comparisons, reductions and scans it is stated where and when it lands. Nothing else changes but the flags of a conversion. Model choices: log entries 4, 55, 85. -/
def Obligations.VectorWordsCompute : Prop :=
  ∀ (s : State) (i : Instr) (f : VecForm), vectorOf i = some f → ¬ barred s i → Still s.me → s.me.vcyc ≤ s.me.cyc →
    ∃ t v, exec i s = .next t ∧ f.tells s.me v = true ∧ Issued s t f v

/-- R169, R170: a repeated word issues its first iteration at once, with the registers that it names, and nothing else of the quadrant or the core changes; it stays at the head of the queue,
PROG0 naming the next iteration, unless that was its last. With an empty nest it leaves the queue with no effect. 2^32 iterations or more are illegal. -/
def Sys2Proof.Claim.RepeatedWordIssuesItsIterations : Prop :=
  ∀ (s : State) (k sd sa sb sc : BitVec 3) (op : BitVec 6) (d a b : BitVec 5) (t : BitVec 3) (c : BitVec 5) (j : Instr) (f : VecForm),
    decodeWord (2 * 2 ^ 29 + op.toNat * 2 ^ 23 + d.toNat * 2 ^ 18 + a.toNat * 2 ^ 13 + b.toNat * 2 ^ 8 + t.toNat * 2 ^ 5 + c.toNat) = .instr j →
    vectorOf j = some f → ¬ barred s j → Still s.me → s.me.prog0 = 0 → s.me.vcyc ≤ s.me.cyc →
    let total := ((List.range (k.toNat + 1)).map (fun n => (s.me.nest n).bound.toNat)).foldl (· * ·) 1
    (2 ^ 32 ≤ total → CanTrap s → Traps (.repeatedVectorWord k sd sa sb sc op d a b t c) s {} 0x10 (fun q => q.pc) (subcauseAt 0x0B) patternAt
      indexAt (fun _ => 0)) ∧
    (total = 0 → ∃ u, exec (.repeatedVectorWord k sd sa sb sc op d a b t c) s = .next u ∧ OnlyMe s u ∧
      u.me = { s.me.retire 0 with seq := s.me.seq + 1, vecAt := tryCycle s }) ∧
    (0 < total → total < 2 ^ 32 → ∃ (u : State) (v : Nat) (q : List VecEntry), exec (.repeatedVectorWord k sd sa sb sc op d a b t c) s = .next u ∧ f.tells s.me v = true ∧
      IssuedWith s u f v (if total = 1 then 0 else 1) q ∧
      (total = 1 → q = []) ∧
      (1 < total → ∃ e : VecEntry, q = [e] ∧ e.word = .repeatedVectorWord k sd sa sb sc op d a b t c ∧ e.wordAt = s.me.pc ∧ e.total = total ∧ e.mode = s.me.rmode % 8))

/-- R192, R193, R153: VQPUT pushes its register as a source beat of cq0 where its code is the queue's source format; VQGET takes the next sink beat of cq2, between equal formats the
elements of the source beat as they are, and waits at the head of its queue while cq2 is empty; a code that is not the queue's raises FMT. -/
def Sys2Proof.Claim.VectorQueueWordsMoveBeats : Prop :=
  ∀ (s : State) (a : BitVec 5) (f : BitVec 6), Still s.me → s.me.vcyc ≤ s.me.cyc →
    ((s.myCore.cqf 0).toNat % 64 = f.toNat → (s.myCore.cq.get [] 0).length < 8 →
      ∃ t, exec (.vqput a f) s = .next t ∧ OnlyMyCore s t ∧
        t.myCore.cq.get [] 0 = s.myCore.cq.get [] 0 ++ [s.me.vr a.toNat] ∧ (∀ k, k ≠ 0 → t.myCore.cq.get [] k = s.myCore.cq.get [] k) ∧
        t.me = { s.me.retire 0 with vcyc := tryCycle s + 1, vecAt := tryCycle s + 1, seq := s.me.seq + 1 }) ∧
    ((s.myCore.cqf 2).toNat / 64 % 64 = f.toNat → s.myCore.cq.get [] 2 = [] → (s.myCore.cqBits.get (0, 0) 2).2 = 0 →
      ∃ t, exec (.vqget a f) s = .next t ∧ OnlyMe s t ∧ t.me.vecQ.map VecEntry.word = [.vqget a f] ∧ t.me.vecAt = tryCycle s + 1) ∧
    (∀ x, (s.myCore.cqf 2).toNat / 64 % 64 = f.toNat → (s.cqBeat s.cur.core 2).2 = some x →
      ∃ t, exec (.vqget a f) s = .next t ∧ OnlyMyCore s t ∧ t.me = { s.me.retire 0 with
          pend := [{ eng := 2, dst := .v a.toNat, latch := 4, val := x.toNat, mask := 2 ^ 1024 - 1, land := tryCycle s + 2 }]
          vcyc := tryCycle s + 1, vecAt := tryCycle s + 1, seq := s.me.seq + 1 }) ∧
    (∀ x rest, (s.myCore.cqf 2).toNat % 64 = f.toNat → (s.myCore.cqf 2).toNat / 64 % 64 = f.toNat → elemWidth f.toNat = codeWidth f.toNat →
      s.myCore.cq.get [] 2 = x :: rest → s.myCore.cqPos.get 0 2 = 0 → s.myCore.cqBits.get (0, 0) 2 = (0, 0) →
      ∃ t, exec (.vqget a f) s = .next t ∧ t.myCore.cq.get [] 2 = rest ∧
        t.me.pend.map Pend.val = [x.toNat % 2 ^ (1024 / codeWidth f.toNat * codeWidth f.toNat)]) ∧
    ((s.myCore.cqf 0).toNat % 64 ≠ f.toNat → CanTrap s →
      ∃ t, exec (.vqput a f) s = .next t ∧ OnlyMe s t ∧ t.me.inh = true ∧ t.me.cause = 0x1C ∧ t.me.pc = s.me.trapvec ∧ t.me.epc = (s.me.retire 0).pc ∧
        t.me.einf 0 = BitVec.ofNat 64 f.toNat ∧ t.me.einf 1 = s.myCore.cqf 0 ∧ t.me.einf 2 = 0 ∧ t.me.einf 3 = s.me.pc ∧
        t.me.vecImg.map VecEntry.word = [.vqput a f])

/-- A repeated word issues its iterations; VQPUT and VQGET move beats of the conversion queues. Model choices: log entries 46, 55. -/
def Obligations.RepeatedAndQueueVectorWords : Prop :=
  Sys2Proof.Claim.RepeatedWordIssuesItsIterations ∧ Sys2Proof.Claim.VectorQueueWordsMoveBeats

namespace Sys2Proof.Claim

/-! ### The matrix engine -/

/-- A matrix command word (R202): wait and signal semaphore, the operands that it reads, the nest that replaces its count, its accumulator rows, and the register
that MSTAT writes. -/
structure MatrixForm where
  waits : BitVec 4
  signals : BitVec 4
  reads : List (BitVec 6) := []
  nest : Option Nat := none
  base : Nat := 0
  rows : Nat := 0
  d : BitVec 6 := 0

/-- The nest that a 3-bit field names, 7 for none (R205). -/
def nestField (n : BitVec 3) : Option Nat := if n.toNat < 6 then some n.toNat else none

def matrixForm : Instr → Option MatrixForm
  | .wld w y a b _ _ _ p => some { waits := w, signals := y, reads := [a, b, p] }
  | .wsel w y => some { waits := w, signals := y }
  | .mstr w y base a _ m _ n p => some { waits := w, signals := y, reads := [a, p], nest := nestField n, base := base.toNat, rows := m.toNat + 1 }
  | .mstq w y base _ _ m => some { waits := w, signals := y, base := base.toNat, rows := m.toNat + 1 }
  | .mstx w y base a _ m _ n p => some { waits := w, signals := y, reads := [a, p], nest := nestField n, base := base.toNat, rows := m.toNat + 1 }
  | .mepiBias w y a => some { waits := w, signals := y, reads := [a] }
  | .mepiScale w y a => some { waits := w, signals := y, reads := [a] }
  | .mepiZero w y a => some { waits := w, signals := y, reads := [a] }
  | .mepiAclr w y => some { waits := w, signals := y }
  | .mout w y base a _ m _ _ _ _ n _ _ => some { waits := w, signals := y, reads := [a], nest := nestField n, base := base.toNat, rows := m.toNat + 1 }
  | .mgrp w y base a _ nb _ x t => some { waits := w, signals := y, reads := [a, x, t], base := base.toNat, rows := 16 * (nb.toNat + 1) }
  | .mfade w y a => some { waits := w, signals := y, reads := [a] }
  | .mact w y a => some { waits := w, signals := y, reads := [a] }
  | .mzero w y b c => some { waits := w, signals := y, base := b.toNat, rows := c.toNat + 1 }
  | .maccld w y base a m => some { waits := w, signals := y, reads := [a], base := base.toNat, rows := m.toNat + 1 }
  | .mnb w y a => some { waits := w, signals := y, reads := [a] }
  | .mstat w y d => some { waits := w, signals := y, d := d }
  | .mprog w y _ => some { waits := w, signals := y }
  | .msig w y => some { waits := w, signals := y }
  | .mcan w y => some { waits := w, signals := y }
  | _ => none

/-- The bounds and strides of n0 to nk as they stand (R94). -/
def capturedNest (q : Quad) : Option Nat → List Dim
  | none => []
  | some k => (List.range (k + 1)).map (fun j => { bound := (q.nest j).bound.toNat, stride := (q.nest j).stride.toInt })

/-- The rows of the nest: the product of its bounds. -/
def nestRows (l : List Dim) : Nat := l.foldr (fun d n => d.bound * n) 1

/-- Does a form stream its nest's rows into accumulators? MOUT keeps its own count with a nest (R213). -/
def nestCounts : Instr → Bool
  | .mstr .. | .mstx .. => true
  | _ => false

/-- Nothing has changed but the core whose turn it is and the next token. -/
def MyCoreAndToken (s t : State) : Prop :=
  ({ t with cores := s.cores, tokens := s.tokens } : State) = s ∧ t.tokens = s.tokens + 1 ∧ (∀ c, c ≠ s.cur.core → t.core c = s.core c) ∧
    ∀ key, t.byteAt key = s.byteAt key

/-- The STATE field of MSTATUS (R155, R217). -/
def matrixStatus (k : Core) : Word :=
  BitVec.ofNat 64 (one k.satov + 2 * one k.cvnanz + 4 * one k.cvsat + 2 ^ 17 * (k.wb0.k - 1) + 2 ^ 24 * k.wb0.fmt
      + 2 ^ 29 * (k.wb1.k - 1) + 2 ^ 36 * k.wb1.fmt + 2 ^ 41 * one k.abuf + 2 ^ 42 * one k.halt + 2 ^ 43 * (waiting k.mq).length)

/-- An operand of the integer formats (R137, R146). -/
def intOf (f x : Nat) : Int :=
  match f with
  | 8 => (BitVec.ofNat 8 x).toInt
  | 9 => (x % 256 : Nat)
  | 15 => (BitVec.ofNat 4 x).toInt
  | 16 => (x % 16 : Nat)
  | 17 => (BitVec.ofNat 2 x).toInt
  | 18 => if x % 4 = 1 then 1 else if x % 4 = 3 then -1 else 0
  | _ => if x % 2 = 1 then 1 else -1

/-- The formats of R146. -/
def intFormat (f : Nat) : Prop := f ∈ [8, 9, 15, 16, 17, 18, 19]

/-- A value cut to 32 signed bits by saturation (R146). -/
def saturated (v : Int) : Int := max (-(2 ^ 31)) (min (2 ^ 31 - 1) v)

/-- Column `n` of an accumulator row, and element (k, n) of a weight buffer. -/
def column (r : Row) (n : Nat) : BitVec 32 := BitVec.ofNat 32 (r.toNat / 2 ^ (32 * n))

/-- The signals and the takes of a cycle so far (R199). -/
def freshIn (k : Core) (now i : Nat) : Nat := if k.smAt = now then k.smNew.get 0 i else 0
def takenIn (k : Core) (now i : Nat) : Nat := if k.smAt = now then k.smTook.get 0 i else 0

/-- Core `w` has the semaphores of `k` after a signal to `i` in cycle `now` (R199): one more, up to 0xFFFF, which counts before the takes of the cycle; no one takes it in that cycle. -/
def Signalled (k w : Core) (now i : Nat) : Prop :=
  ∀ j, let up := if j = i ∧ j ≠ 0 ∧ k.sm.get 0 j + takenIn k now j < 0xFFFF then 1 else 0
    w.sm.get 0 j = k.sm.get 0 j + up ∧ freshIn w now j = freshIn k now j + up ∧ takenIn w now j = takenIn k now j

/-- The same after a take. -/
def Took (k w : Core) (now i : Nat) : Prop :=
  ∀ j, let one := if j = i ∧ j ≠ 0 then 1 else 0
    w.sm.get 0 j = k.sm.get 0 j - one ∧ freshIn w now j = freshIn k now j ∧ takenIn w now j = takenIn k now j + one

/-- The only change outside a core is none; the core may change. -/
def OnlyCore (c : Nat) (s t : State) : Prop :=
  ({ t with cores := s.cores } : State) = s ∧ (∀ k, k ≠ c → t.core k = s.core k) ∧ ∀ key, t.byteAt key = s.byteAt key

/-- The command of a core's list that completes first: nothing before it completes as early, nothing after it earlier. -/
def CompletesFirst (mprog : Bool) (before : List MRun) (n : Nat) (after : List MRun) : Prop :=
  let isProg (i : Instr) : Bool := match i with | .mprog .. => true | _ => false
  (∀ x ∈ before, ∀ m, x.doneAt = some m → isProg x.cmd.word = mprog → n < m) ∧
  (∀ x ∈ after, ∀ m, x.doneAt = some m → isProg x.cmd.word = mprog → n ≤ m)

end Sys2Proof.Claim
open Sys2Proof Sys2Proof.Machine Sys2Proof.Claim

/-- R72, R94, R150, R196, R200, R202, R205: a matrix word puts its command, with its operands, nest and rounding mode as they stand, at the end of the core's queue; MSTAT then
owes its register. A stream's nest of more than 256 rows, or that passes acc255, raises ILL 0x0B; with 16 commands waiting in the queue the word stands and starts nothing. Model choices: log entry 60. -/
def Obligations.MatrixWordsEnterTheQueue : Prop :=
  ∀ (s : State) (i : Instr) (f : MatrixForm), matrixForm i = some f → Sys2Proof.wf i = true →
    (16 ≤ (waiting s.myCore.mq).length → exec i s = .next (s.updMe (fun q => { q with cyc := q.cyc + 1 }))) ∧
    ((waiting s.myCore.mq).length < 16 → Free s (useOf f.reads f.d 4) 7 →
    let q := s.me.begin (useOf f.reads f.d 4) 7
    let dims := capturedNest q f.nest
    let tooMany := f.nest ≠ none ∧ (256 < nestRows dims ∨ 256 < f.base + (if nestCounts i then nestRows dims else f.rows))
    (tooMany → exec i s = .next ((s.updMe (fun _ => q)).ill 0x0B)) ∧
    (¬ tooMany → ∃ t, exec i s = .next t ∧ MyCoreAndToken s t ∧
      t.myCore.mq = s.myCore.mq ++ [({ word := i, ops := f.reads.map q.src, dims := dims, mode := q.rmode % 8, quad := s.cur.quad, wordAt := q.pc,
                                       token := s.tokens } : MCmd)] ∧
      t.myCore.order = s.myCore.order.filter (fun x => decide (x ≠ s.cur.quad)) ++ [s.cur.quad] ∧
      t.myCore.mAt = (if s.myCore.mq = [] ∧ s.myCore.mrun = [] then q.cyc + 1 else s.myCore.mAt) ∧
      ({ t.myCore with mq := s.myCore.mq, mAt := s.myCore.mAt, order := s.myCore.order } : Core).setQuad s.cur.quad s.me = s.myCore ∧
      t.me = ({ q with owed := if f.d = 0 then q.owed else
        q.owed ++ [({ token := s.tokens, dst := .g f.d.toNat, latch := 4, size := 8, sg := false } : Owed)] } : Quad).retire 0))

/-- R196, R198, R199, R210, R216: the engine starts the command at the head of its queue once the count that it waits for, without the signals of the same cycle, can be taken, and takes
it; a stream has read FADE, an output the epilogue registers, MPROG watches the command before it; it runs in the same cycle. Until then the command stays and holds those behind it. -/
def Sys2Proof.Claim.MatrixEngineStartsItsHead : Prop :=
  ∀ (s : State) (c n : Nat) (f : MatrixForm) (m : MCmd) (rest : List MCmd), (s.core c).task = some n → (s.task n).st = .running → (s.task n).stage = 0 →
    matrixForm m.word = some f → m.took = false → m.reload = false → m.fault = false → m.out = [] → m.held = [] → m.epi = none → m.fade = none → m.watch = none →
    (s.core c).mq = m :: rest → (s.core c).mrun = [] → (∀ w y, m.word ≠ .mcan w y) →
    let k := s.core c
    let now := max s.cycle k.mAt
    let t := s.matrixTurn c
    let fresh := freshIn k now f.waits.toNat
    (f.waits ≠ 0 → k.sm.get 0 f.waits.toNat ≤ fresh → OnlyCore c s t ∧ t.core c = { k with mAt := now + 1 }) ∧
    (f.waits = 0 ∨ fresh < k.sm.get 0 f.waits.toNat →
      ∃ (r : MRun) (w : Core), t = ((s.setCore c w).runAll c now [] [r]).updCore c (fun x => { x with mAt := now + 1 }) ∧
        r.cmd = { m with fade := some k.fade, epi := r.cmd.epi } ∧ (r.cmd.epi.isSome = true → r.cmd.epi = some k.epilogue) ∧
        (∀ a b d e g h i j l o p q u, m.word = .mout a b d e g h i j l o p q u → r.cmd.epi = some k.epilogue) ∧
        r = ({ cmd := r.cmd, buf := one k.abuf, row := m.row, landed := m.row, nextAt := now, watch := k.mlast } : MRun) ∧
        Took k w now f.waits.toNat ∧
        w = { k with mq := rest, mrun := [r], sm := w.sm, smAt := w.smAt, smNew := w.smNew, smTook := w.smTook, mlast := m.token })

/-- R204, R208, R210, R211, R218: what running WSEL, MZERO, MFADE and `mepi.aclr` do to the core in a cycle, and when they complete: the buffers swap, four more rows are zero, FADE is the low word of
the operand, the adapter cache is empty; every other row and the rest of the core stay. -/
def Sys2Proof.Claim.MatrixCommandsChangeTheirState : Prop :=
  ∀ (s : State) (c now : Nat) (r : MRun) (w y : BitVec 4), r.doneAt = none → r.nextAt ≤ now →
    let k := s.core c
    let t := (s.runTurn c now [] r).1
    let becomes (x : MRun) : Prop := (s.runTurn c now [] r).2 = .go x
    (r.cmd.word = .wsel w y → OnlyCore c s t ∧ t.core c = { k with abuf := !k.abuf } ∧ becomes { r with doneAt := some now }) ∧
    (∀ b n, r.cmd.word = .mzero w y b n → OnlyCore c s t ∧ t.core c = { k with acc := (t.core c).acc } ∧
      let upTo := r.row + min 4 (n.toNat + 1 - r.row)
      (∀ j, (t.core c).acc.get 0 j = if b.toNat + r.row ≤ j ∧ j < b.toNat + upTo then 0 else k.acc.get 0 j) ∧
      becomes { r with row := upTo, nextAt := now + 1, doneAt := if n.toNat + 1 ≤ upTo then some (now + 1) else none }) ∧
    (∀ a x, r.cmd.word = .mfade w y a → r.cmd.ops = [x] → OnlyCore c s t ∧ t.core c = { k with fade := BitVec.ofNat 32 x.toNat } ∧ becomes { r with doneAt := some (now + 1) }) ∧
    (r.cmd.word = .mepiAclr w y → OnlyCore c s t ∧ t.core c = { k with adapters := [] } ∧ becomes { r with doneAt := some (now + 1) })

/-- R146: in integer formats a row of A meets the weight buffer exactly: each column is the sum of the products over the buffer's rows, added to the accumulator under
control 1 and alone under control 0, saturated to 32 bits, and a saturation is reported. -/
def Obligations.IntegerRowsAccumulateExactly : Prop :=
  ∀ (fa : Nat) (xs scales : List Nat) (w : WBuf) (ctl : Nat) (fade : BitVec 32) (acc : Row), intFormat fa → intFormat w.fmt → w.k ≤ 128 → ctl < 2 → xs.length = 128 →
    let total (n : Nat) : Int := ((List.range w.k).map (fun k =>
      intOf fa (xs.getD k 0) * intOf w.fmt (column (w.rows.get 0 k) n).toNat)).sum + (if ctl = 0 then 0 else (column acc n).toInt)
    let r := accRow fa xs scales w ctl fade acc
    (∀ n, n < 64 → (column r.1 n).toInt = saturated (total n)) ∧ (r.2 = true ↔ ∃ n, n < 64 ∧ total n ≠ saturated (total n))

/-- R196, R199, R200, R218: of the commands that have finished the one that did so first leaves the engine and adds one to its signal semaphore, up to 0xFFFF; MSTAT's register
takes the STATE of MSTATUS and is owed no more. MPROG's completion is an event of its own. With none finished nothing changes. Model choices: log entry 50. -/
def Obligations.MatrixCompletionSignals : Prop :=
  ∀ (s : State) (c : Nat) (mprog : Bool), let i : Instr := if mprog then .mprogRowsWritten c else .matrixCommandComplete c
    let isProg (i : Instr) : Bool := match i with | .mprog .. => true | _ => false
    ((∀ x ∈ (s.core c).mrun, x.doneAt ≠ none → isProg x.cmd.word ≠ mprog) → exec i s = .next s) ∧
    (∀ (r : MRun) (f : MatrixForm) (n : Nat) (before after : List MRun), (s.core c).mrun = before ++ r :: after → matrixForm r.cmd.word = some f →
      isProg r.cmd.word = mprog → r.doneAt = some n → CompletesFirst mprog before n after → (∀ x ∈ before ++ after, x.cmd.token ≠ r.cmd.token) →
      ∃ t, exec i s = .next t ∧ OnlyCore c s t ∧
        let k := s.core c
        let w := t.core c
        w.mrun = before ++ after ∧ Signalled k w (max s.cycle (n + 1)) f.signals.toNat ∧
        ({ w with mrun := k.mrun, sm := k.sm, smAt := k.smAt, smNew := k.smNew, smTook := k.smTook } : Core).setQuad r.cmd.quad (s.quadOf c r.cmd.quad) = k ∧
        ((∀ y z d, r.cmd.word ≠ .mstat y z d) → t.quadOf c r.cmd.quad = s.quadOf c r.cmd.quad) ∧
        (∀ y z d, r.cmd.word = .mstat y z d →
          let q := s.quadOf c r.cmd.quad
          let v := t.quadOf c r.cmd.quad
          v = { q with g := v.g, owed := q.owed.filter (fun o => decide (o.token ≠ r.cmd.token)) } ∧
          ∀ j, v.gr j = if j = d.toNat ∧ j ≠ 0 then matrixStatus k else q.gr j))

/-- The engine starts its head when its semaphore allows; WSEL, MZERO, MFADE and mepi.aclr change what they name. Model choices: log entries 50, 59. -/
def Obligations.MatrixCommandsStartAndRun : Prop :=
  Sys2Proof.Claim.MatrixEngineStartsItsHead ∧ Sys2Proof.Claim.MatrixCommandsChangeTheirState

namespace Sys2Proof.Claim

/-! ### Copy words -/

/-- A word that puts a job into a channel (R238, R239): what it reads, its channel, the register that it owes, and the job. -/
structure CopyForm where
  reads : List (BitVec 6)
  ch : BitVec 3
  reg : BitVec 6 := 0
  job : Quad → Job

/-- A job as it is captured (R42, R94, R150): its task, rounding mode, quadrant, address and pattern of its word, and its token. -/
def captured (s : State) (kind : JobKind) (q : Quad) : Job :=
  { kind := kind, task := myTask s, mode := q.rmode % 8, quad := s.cur.quad, wordAt := q.pc, pattern := q.inst, token := s.tokens }

/-- The tag that a long form names. -/
def namedTag (tv : BitVec 1) (tag : BitVec 6) : Option Nat := if tv = 1 then some tag.toNat else none

/-- The words that copy, prefetch, chain, drop, query and pull. -/
def copyForm (s : State) : Instr → Option CopyForm
  | .cpy c d y b => some ⟨[d, y, b], c, 0, fun q => { captured s .copy q with d := q.src d, s := q.src y, n := (q.src b).toNat % 2 ^ 32 }⟩
  | .cpyLong c d y b tv tag sl cv sf df qe => some ⟨[d, y, b], c, 0, fun q => { captured s .copy q with
      d := q.src d, s := q.src y, n := (q.src b).toNat % 2 ^ 32, tag := namedTag tv tag, slack := sl.toNat, cv := decide (cv = 1)
      sfmt := sf.toNat, dfmt := df.toNat, qe := qe.toNat }⟩
  | .cpyn c d y r k => some ⟨[d, y, r], c, 0, fun q => { captured s .nest q with
      d := q.src d, s := q.src y, n := (q.src r).toNat % 2 ^ 32, dims := capturedNest q (some k.toNat) }⟩
  | .cpynLong c d y r k tv tag sl cv sf df sd mc =>
      if mc = 1 then some ⟨[d, y, r, tag], c, 0, fun q => { captured s .nest q with
        d := q.src d, s := q.src y, n := (q.src r).toNat % 2 ^ 32, dims := capturedNest q (some k.toNat), slack := sl.toNat, cv := decide (cv = 1)
        sfmt := sf.toNat, dfmt := df.toNat, side := decide (sd = 1), mask := some (q.src tag) }⟩
      else some ⟨[d, y, r], c, 0, fun q => { captured s .nest q with
        d := q.src d, s := q.src y, n := (q.src r).toNat % 2 ^ 32, dims := capturedNest q (some k.toNat), tag := namedTag tv tag, slack := sl.toNat
        cv := decide (cv = 1), sfmt := sf.toNat, dfmt := df.toNat, side := decide (sd = 1) }⟩
  | .chain c a => some ⟨[a], c, 0, fun q => { captured s .chain q with s := q.src a }⟩
  | .pfh c a b => some ⟨[a, b], c, 0, fun q => { captured s (.pfh false) q with s := q.src a, n := (q.src b).toNat % 2 ^ 32 }⟩
  | .pfhAdapt c a b => some ⟨[a, b], c, 0, fun q => { captured s (.pfh true) q with s := q.src a, n := (q.src b).toNat % 2 ^ 12 }⟩
  | .drop c a => some ⟨[a], c, 0, fun q => { captured s .drop q with s := q.src a }⟩
  | .pqry c d a => some ⟨[a], c, d, fun q => { captured s .pqry q with s := q.src a, reg := d.toNat }⟩
  | .send c d a b => some ⟨[a, b], c, d, fun q => { captured s .send q with s := q.src a, d := q.src b, reg := d.toNat }⟩
  | .pull h a b n => some ⟨[a, b, n], h, 0, fun q => { captured s .pull q with s := q.src a, d := q.src b, n := (q.src n).toNat }⟩
  | .pullLong h a b n tv tag => some ⟨[a, b, n], h, 0, fun q => { captured s .pull q with
      s := q.src a, d := q.src b, n := (q.src n).toNat, tag := namedTag tv tag }⟩
  | _ => none

/-- The multicast form of CPYN (R244). -/
def isMulticast : Instr → Bool
  | .cpynLong _ _ _ _ _ _ _ _ _ _ _ _ mc => decide (mc = 1)
  | _ => false

/-! ### Waits for copies -/

/-- What a wait for copies waits for (R248, R250): what it reads, whether it is over, its limit, the jobs that it names by channel and tag, and those of them that were queued when it issued. -/
structure CopyWait where
  reads : List (BitVec 6)
  isOver : Core → Quad → Prop
  limit : BitVec 16
  names : Quad → Nat → Option Nat → Bool
  upto : Quad → Nat

/-- The jobs in a channel that have a token below `upto`, prefetches apart. -/
def jobsBefore (k : Core) (upto ch : Nat) : List Job :=
  (k.chans.get {} ch).q.filter (fun j => decide (j.token < upto) && (match j.kind with | .pfh _ => false | _ => true))

/-- The jobs that were queued when the wait issued. -/
def queuedBefore (s : State) (q : Quad) : Nat := match q.wait with | some w => w.upto | none => s.tokens

def copyWait (s : State) : Instr → Option CopyWait
  | .twall a i => some ⟨[a], fun k q => k.tagmap &&& q.src a = q.src a, i, fun q _ tag => tag.any (fun t => (q.src a).getLsbD t), fun _ => s.tokens⟩
  | .twany a i => some ⟨[a], fun k q => k.tagmap &&& q.src a ≠ 0, i, fun q _ tag => tag.any (fun t => (q.src a).getLsbD t), fun _ => s.tokens⟩
  | .drain c l i => some ⟨[], fun k q => ∀ ch, ch < 8 → (l = 1 ∨ ch = c.toNat) → jobsBefore k (queuedBefore s q) ch = [], i,
      fun _ ch _ => decide (ch < 8 ∧ (l = 1 ∨ ch = c.toNat)), queuedBefore s⟩
  | _ => none

/-- A mark of a wait's issue on a job that has none: it is the first wait that names it (R428). -/
def marked (p : Bool) (at_ : Nat) (old : Option Nat) : Option Nat := if p = true ∧ old = none then some at_ else old

/-- A wait issued in cycle `at_` has marked the jobs that it names, those queued with a token below `upto` and the records of such a chain, and their traces (R428). Nothing else has changed but the
quadrant and the agenda. -/
def MarksItsJobs (s t : State) (p : Nat → Option Nat → Bool) (at_ upto : Nat) : Prop :=
  let mark (ch : Nat) (j : Job) : Job := { j with waitAt := marked (p ch j.tag) at_ j.waitAt }
  ({ t with cores := s.cores, tasks := s.tasks, agenda := s.agenda } : State) = s ∧ (∀ c, c ≠ s.cur.core → t.core c = s.core c) ∧ (∀ key, t.byteAt key = s.byteAt key) ∧
    ({ t.myCore with chans := s.myCore.chans } : Core).setQuad s.cur.quad s.me = s.myCore ∧
    (∀ ch, let x := s.myCore.chans.get {} ch
      t.myCore.chans.get {} ch = { x with
        q := x.q.map (fun j => if j.token < upto then mark ch j else j)
        records := if ∃ h ∈ x.q.head?, h.token < upto then x.records.map (mark ch) else x.records }) ∧
    ∀ n, t.task n = if n = myTask s then
      { s.task n with trace := (s.task n).trace.map (fun j => { j with wait := marked (p j.ch j.tag) at_ j.wait }) } else s.task n

/-! ### Words that write a register without a latch -/

/-- The circuits of the active table serve a package in a slot (R360, R363). -/
def serves (t : SlotTab) (pkg dst k : Nat) : Prop := t.lists pkg dst k = true

/-- The image of SQST (R387): the depth of the queue and, where a slot of the active table serves the peer, that slot and the time to its data period. -/
def SendImage (s : State) (dst : Nat) (x : Word) : Prop :=
  let depth := min 4096 (s.fabric.sendq.get [] dst).length
  ((dst = s.pkg ∨ s.fabric.active = none) → x = BitVec.ofNat 64 (2 ^ 57 + depth)) ∧
  ∀ t, s.fabric.active = some t → dst ≠ s.pkg →
    ((∀ k, k < t.nslot → ¬ serves t s.pkg dst k) → x = BitVec.ofNat 64 (2 ^ 57 + depth)) ∧
    (t.slotNow s.time < t.nslot → serves t s.pkg dst (t.slotNow s.time) →
      let left := (t.hdr.get {} (t.slotNow s.time)).guard - t.within s.time
      x = BitVec.ofNat 64 (t.slotNow s.time * 2 ^ 51 + (if left = 0 then 2 ^ 50 else min 0x3FFFF (left / 64) * 2 ^ 32) + depth))

/-- BWAIT's image (R385). -/
def batchImage (b : Batch) : Word :=
  if b.st = .open then 0x8000000000000000
  else BitVec.ofNat 64 (b.err % 2 ^ 16 * 2 ^ 40 + min 0xFFFFF b.issued * 2 ^ 20 + min 0xFFFFF b.done)

end Sys2Proof.Claim
open Sys2Proof Sys2Proof.Machine Sys2Proof.Claim

/-- R230, R237 to R247, R261, R267, R269, R270: a copy word puts its job, with its operands as they stand, at the end of its channel's queue; PQRY and SEND owe their register until the job
completes. With eight jobs queued it stands and starts nothing, as a copy does behind a queued MARK or FENCE; SEND is a release at gang scope, and the multicast form is a walk engine's.
Model choices: log entry 88. -/
def Obligations.CopyWordsEnterTheirChannel : Prop :=
  ∀ (s : State) (i : Instr) (f : CopyForm), copyForm s i = some f →
    let isSend : Prop := ∃ c d a b, i = .send c d a b
    let behind : Prop := ∃ e ∈ s.me.memQ, ∃ g x, e.op = .sync g x
    let jobs := (s.myCore.chans.get {} f.ch.toNat).q
    let q := s.me.begin (useOf f.reads f.reg 4) 7
    (isMulticast i = true → s.cur.core < 1536 → Free s {} 7 → exec i s = .next ((s.updMe (fun q => q.begin {} 7)).ill 0x0C)) ∧
    ((isMulticast i = true → 1536 ≤ s.cur.core) →
      (8 ≤ jobs.length ∨ (¬ isSend ∧ behind) → exec i s = .next (s.updMe (fun q => { q with cyc := q.cyc + 1 }))) ∧
      (jobs.length < 8 → isSend → s.me.memQ ≠ [] → Free s (useOf f.reads f.reg 4) 7 → exec i s = .next (s.updMe (fun _ => { q with cyc := q.cyc + 1 }))) ∧
      (jobs.length < 8 → Free s (useOf f.reads f.reg 4) 7 → (isSend → Settled s) → (¬ isSend → ¬ behind) → ∃ t, exec i s = .next t ∧ MyCoreAndToken s t ∧
        (∀ ch, t.myCore.chans.get {} ch = if ch = f.ch.toNat then
          { s.myCore.chans.get {} ch with q := (s.myCore.chans.get {} ch).q ++ [f.job q] } else s.myCore.chans.get {} ch) ∧
        t.myCore.order = s.myCore.order.filter (fun x => decide (x ≠ s.cur.quad)) ++ [s.cur.quad] ∧
        ({ t.myCore with chans := s.myCore.chans, order := s.myCore.order } : Core).setQuad s.cur.quad s.me = s.myCore ∧
        t.me = ({ q with owed := if f.reg = 0 then q.owed else
          q.owed ++ [({ token := s.tokens, dst := .g f.reg.toNat, latch := 4, size := 8, sg := false } : Owed)] } : Quad).retire 0))

/-- R248, R250, R251, R428: TWALL, TWANY and DRAIN go on in the cycle in which their condition holds; until then they stand, each cycle counted, and past their limit the wait expires. The jobs that
they name keep the cycle of the first wait on them. -/
def Sys2Proof.Claim.CopyWaitsEndWithTheirTags : Prop :=
  ∀ (s : State) (i : Instr) (f : CopyWait), copyWait s i = some f → Free s (useOf f.reads 0 4) 7 →
    let q := s.me.begin (useOf f.reads 0 4) 7
    let since := match q.wait with | some w => w.since | none => q.cyc
    (f.isOver s.myCore q → ∃ t, exec i s = .next t ∧ MarksItsJobs s t (f.names q) since (f.upto q) ∧ t.me = q.retire 0 ∧ t.agenda = s.agenda) ∧
    (¬ f.isOver s.myCore q → (∀ ch, ch < 8 → ∀ j, j ∈ (s.myCore.chans.get {} ch).q ∨ j ∈ (s.myCore.chans.get {} ch).records → j.held = .none) →
      ∃ t w, exec i s = .next t ∧ MarksItsJobs s t (f.names q) since (f.upto q) ∧
        w.since = since ∧ w.limit = 64 * f.limit.toNat ∧ w.e3 = BitVec.ofNat 64 f.limit.toNat ∧
        (if f.limit ≠ 0 ∧ since + 64 * f.limit.toNat ≤ q.cyc then
          t.me = { q with waited := q.waited + 1, wait := some w } ∧ t.agenda = s.agenda ++ [.waitLimitExpiry s.cur.core s.cur.quad]
        else t.me = { q with waited := q.waited + 1, wait := some w, cyc := q.cyc + 1 } ∧ t.agenda = s.agenda))

/-- R249, R236, R291, R385, R387: TFIND, TEAMID, SQST and BWAIT write their register in one cycle and no latch: the lowest tag of the mask, the MEMBER image, the state of a send queue, the
result of a batch that is not closing. TCLR clears its tags and writes no register. -/
def Sys2Proof.Claim.ReadsAtTheSplitter : Prop :=
  ∀ (s : State) (d a : BitVec 6),
    (Free s (useOf [a] d 4) 7 → let q := s.me.begin (useOf [a] d 4) 7
      ∃ x, CompletesMe (.tfind d a) s 0 (fun w => WritesG q w d.toNat x ∧ ({ w with g := q.g, pend := q.pend } : Quad) = q) ∧
        ((x = 64 ∧ s.myCore.tagmap &&& q.src a = 0) ∨ ∃ k, k < 64 ∧ x = BitVec.ofNat 64 k ∧ (s.myCore.tagmap &&& q.src a).getLsbD k = true ∧
          ∀ j, j < k → (s.myCore.tagmap &&& q.src a).getLsbD j = false)) ∧
    (Free s (useOf [] d 4) 7 → let q := s.me.begin (useOf [] d 4) 7
      let m := q.member
      CompletesMe (.teamid d) s 0 (fun w => WritesG q w d.toNat (BitVec.ofNat 64 (m.role + 2 ^ 6 * m.mnum + 2 ^ 12 * m.midx + 2 ^ 18 * m.rsz + 2 ^ 24 * m.tsz)) ∧
        ({ w with g := q.g, pend := q.pend } : Quad) = q)) ∧
    (Free s (useOf [a] d 4) 7 → let q := s.me.begin (useOf [a] d 4) 7
      ∃ x, SendImage s ((q.src a).toNat % 64) x ∧
        CompletesMe (.sqst d a) s 0 (fun w => WritesG q w d.toNat x ∧ ({ w with g := q.g, pend := q.pend } : Quad) = q)) ∧
    (∀ (tag : BitVec 2) (i : BitVec 16), Free s (useOf [] d 4) 7 → let q := s.me.begin (useOf [] d 4) 7
      (q.batches.get {} tag.toNat).st ≠ .closing → (∀ e ∈ q.memQ ++ q.memImg, ∀ o, e.op ≠ .batch o tag.toNat) →
      CompletesMe (.bwait d tag i) s 0 (fun w => WritesG q w d.toNat (batchImage (q.batches.get {} tag.toNat)) ∧
        ({ w with g := q.g, pend := q.pend } : Quad) = q)) ∧
    (Free s (useOf [a] 0 4) 7 → let q := s.me.begin (useOf [a] 0 4) 7
      ∃ t, exec (.tclr a) s = .next t ∧ OnlyMyCore s t ∧ t.me = q.retire 0 ∧
        ({ t.myCore with tagmap := s.myCore.tagmap } : Core).setQuad s.cur.quad s.me = s.myCore ∧ t.myCore.tagmap = s.myCore.tagmap &&& ~~~(q.src a))

/-- R381, R384: BOPEN opens a batch that is not closing, empty, and makes it the current one; BSEL makes an open batch the current one and opens any other; BCLOSE closes an open batch
without peers, and does nothing to one that is not open. Every other batch stays. -/
def Sys2Proof.Claim.BatchWordsOpenAndClose : Prop :=
  ∀ (s : State) (t : BitVec 2), QueuesReady s → let k := t.toNat
    let b := s.me.batches.get {} k
    let leaves (i : Instr) (b' : Batch) (tag : Nat) : Prop := ∃ u, exec i s = .next u ∧ OnlyMe s u ∧
      Performed s u [] (fun q => { q with batches := u.me.batches, batchTag := tag }) ∧
      ∀ j, u.me.batches.get {} j = if j = k then b' else s.me.batches.get {} j
    (b.st ≠ .closing → leaves (.bopen t) ({ st := .open } : Batch) k) ∧
    (b.st = .open → leaves (.bsel t) b k) ∧
    (b.st = .closed → leaves (.bsel t) ({ st := .open } : Batch) k) ∧
    (b.st = .open → b.peers = [] → leaves (.bclose t) { b with st := .closed } s.me.batchTag) ∧
    (b.st ≠ .open → leaves (.bclose t) b s.me.batchTag) ∧
    (∀ i, i = .bopen t ∨ i = .bsel t → b.st = .closing → ∃ u e, exec i s = .next u ∧ OnlyMe s u ∧ u.me.memQ = [e] ∧
      u.me = { s.me.retire 0 with memQ := [e], seq := s.me.seq + 1, storeAt := tryCycle s + 1 })

/-- TWALL, TWANY and DRAIN end with their tags; TFIND, TCLR, TEAMID, SQST and BWAIT read and write at the splitter. -/
def Obligations.CopyWaitsAndSplitterReads : Prop :=
  Sys2Proof.Claim.CopyWaitsEndWithTheirTags ∧ Sys2Proof.Claim.ReadsAtTheSplitter

namespace Sys2Proof.Claim

/-! ### The copy engine -/

/-- The step ends in a next state of which `P` holds. -/
def Becomes (i : Instr) (s : State) (P : State → Prop) : Prop := ∃ t, exec i s = .next t ∧ P t

/-- `n` bytes of a core's scratchpad, within one bank that the task holds there; the first of them is byte `key` of memory. -/
def SpadRange (s : State) (c task : Nat) (a : Word) (n key : Nat) : Prop :=
  c < 1536 ∧ homeOf a = 15 ∧ 0 < n ∧ n ≤ 512 ∧ offOf a < 2 ^ 19 ∧ a.toNat % 65536 + n ≤ 65536 ∧ s.bankOk c (offOf a / 65536) task = true ∧ key = spadKey c (offOf a)

/-- Core `c` runs task `n`, which is not being saved or restored. -/
def Runs (s : State) (c n : Nat) : Prop := (s.core c).task = some n ∧ (s.task n).stage = 0

/-- The quadrants of a core are as they were. -/
def QuadsSame (c : Nat) (s t : State) : Prop := ∀ u, u < 4 → t.quadOf c u = s.quadOf c u

/-- A field of a number. -/
def field (v lo n : Nat) : Nat := v / 2 ^ lo % 2 ^ n

/-- The number that bytes make, lowest first. -/
def ofBytes (b : List (BitVec 8)) : Nat := (b.zipIdx.map (fun x => x.1.toNat * 2 ^ (8 * x.2))).sum

end Sys2Proof.Claim
open Sys2Proof Sys2Proof.Machine Sys2Proof.Claim

/-- R231, R232, R234, R240: the copy at the head of its channel enters, with the engine's next issue number; one of at most 512 bytes of scratchpad that has entered, and is alone in the engine, moves its
bytes in one burst: the destination holds what the source held, even where they overlap, and no other byte changes. -/
def Sys2Proof.Claim.CopyBurstMovesItsBytes : Prop :=
  ∀ (s : State) (c ch task n skey dkey : Nat) (d x w : Word) (mode quad pattern token e slack num own at_ : Nat),
    let j : Job := { kind := .copy, task := task, d := d, s := x, n := n, mode := mode, quad := quad, wordAt := w, pattern := pattern, token := token, slack := slack }
    let alone (k : Job) : Prop := (s.core c).chans.get {} ch = ({ q := [k] } : Chan) ∧ ∀ i, i < 8 → i ≠ ch → ((s.core c).chans.get {} i).q = []
    let entered : Job := { j with entered := some e, enteredAt := at_, num := num, own := own };
    Runs s c task → ch < 8 →
    (alone j → Becomes (.copyBurst c) s (fun t => QuadsSame c s t ∧ (∀ k, k ≠ c → t.core k = s.core k) ∧ (∀ k, t.byteAt k = s.byteAt k) ∧ (t.core c).issue = (s.core c).issue + 1 ∧
      (t.task task).jobs = (s.task task).jobs + 1 ∧ ∃ sl, (t.core c).chans.get {} ch = ({ q := [{ j with entered := some (s.core c).issue, enteredAt := s.cycle, num := (s.task task).jobs, own := slack, slack := sl }] } : Chan) ∧
        ((∀ y ∈ (s.task task).slacks, y.1 ≠ (s.task task).jobs) → sl = slack))) ∧
    (alone entered → (∀ i, i < 8 → ((s.core c).stb.get {} i).armed = false) → SpadRange s c task x n skey → SpadRange s c task d n dkey →
      Becomes (.copyBurst c) s (fun t => QuadsSame c s t ∧ (∀ k, k ≠ c → t.core k = s.core k) ∧
        (∀ k, t.byteAt k = if dkey ≤ k ∧ k < dkey + n then s.byteAt (skey + (k - dkey)) else s.byteAt k) ∧
        ∃ j', ((t.core c).chans.get {} ch).q = [j'] ∧ j'.done = n ∧ j'.entered = some e ∧ j'.d = d ∧ j'.s = x ∧ j'.n = n ∧ j'.token = token))

/-- R235, R236, R253, R261, R269: a finished job leaves its channel; the tag that it names is set when no other job that names it is outstanding; PQRY and SEND write their register. A job that a trap has stopped completes after the return only. -/
def Sys2Proof.Claim.FinishedCopyJobsComplete : Prop :=
  ∀ (s : State) (c ch : Nat) (j : Job) (rest : List Job), let x := (s.core c).chans.get {} ch
    Runs s c j.task → x.q = j :: rest → x.records = [] → (∀ y ∈ rest, y.token ≠ j.token ∧ y.entered = none) → j.kind ≠ .chain → j.fin = true → j.record = none →
    (∀ n, x.halted = some n → n ≤ j.entered.getD 0 → Becomes (.copyJobCompletion c ch) s (fun t => t = s)) ∧
    ((∀ n, x.halted = some n → j.entered.getD 0 < n) → ∃ t, exec (.copyJobCompletion c ch) s = .next t ∧ ({ t with cores := s.cores, tasks := s.tasks } : State) = s ∧ (∀ k, k ≠ c → t.core k = s.core k) ∧
      let k := s.core c
      let w := t.core c
      (∀ i, w.chans.get {} i = if i = ch then { x with q := rest } else k.chans.get {} i) ∧
      (j.tag = none → w.tagmap = k.tagmap ∧ w.tagcnt = k.tagcnt) ∧
      (∀ g, j.tag = some g → (∀ i, w.tagcnt.get 0 i = if i = g then k.tagcnt.get 0 g - 1 else k.tagcnt.get 0 i) ∧
        w.tagmap = if k.tagcnt.get 0 g ≤ 1 then k.tagmap ||| BitVec.ofNat 64 (2 ^ g) else k.tagmap) ∧
      (j.kind ≠ .send ∧ j.kind ≠ .pqry → QuadsSame c s t) ∧
      (j.kind = .send ∨ j.kind = .pqry →
        let q := s.quadOf c j.quad
        let v := t.quadOf c j.quad
        v = { q with g := v.g, owed := q.owed.filter (fun o => decide (o.token ≠ j.token)) } ∧
        ∀ i, v.gr i = if i = j.reg ∧ i ≠ 0 then BitVec.ofNat 64 j.status else q.gr i))

/-- R245, R246: the engine reads the record that a running chain names. One that it does not own ends the chain there, with its address in CHPARK; one that it owns enters
as a job with the record's fields, and the chain goes on at NEXT, or ends at 0. A page that has held the chain holds it no longer (R255). -/
def Sys2Proof.Claim.ChainsReadTheirRecords : Prop :=
  ∀ (s : State) (c ch key : Nat) (h : Job) (rest : List Job) (a : Word), let x := (s.core c).chans.get {} ch
    Runs s c h.task → x.q = h :: rest → (∀ y ∈ rest ++ x.records, y.token ≠ h.token) → h.kind = .chain → h.entered ≠ none → x.next = some a → x.halted = none → a.toNat % 64 = 0 → SpadRange s c h.task a 64 key →
    let v := ofBytes (memBytes s key 64)
    let q' := { h with held := .none, since := none } :: rest
    ∃ t, exec (.chainRecordFetch c ch) s = .next t ∧ QuadsSame c s t ∧ (∀ k, k ≠ c → t.core k = s.core k) ∧ (∀ k, t.byteAt k = s.byteAt k) ∧
      let y := (t.core c).chans.get {} ch
      (field v 255 1 = 0 → y.next = none ∧ y.park = a ∧ y.records = x.records ∧ y.q = if x.records = [] then rest else q') ∧
      (field v 255 1 = 1 → field v 482 30 = 0 → field v 0 6 = 0 → field v 226 2 ≠ 3 → field v 228 14 = 0 → field v 242 6 = 0 → ∃ j, y.q = q' ∧ y.records = x.records ++ [j] ∧
        y.next = (if field v 0 64 = 0 then none else some (BitVec.ofNat 64 (field v 0 64))) ∧
        j.kind = (if field v 224 1 = 1 then .nest else .copy) ∧ j.s = BitVec.ofNat 64 (field v 64 64) ∧ j.d = BitVec.ofNat 64 (field v 128 64) ∧
        j.n = field v 192 32 ∧ j.qe = field v 226 2 ∧ j.side = decide (field v 225 1 = 1) ∧ j.fpx = decide (field v 252 1 = 1) ∧ j.fpb = decide (field v 253 1 = 1) ∧
        j.cv = false ∧ j.tag = none ∧ j.record = some a ∧ j.task = h.task ∧ j.entered = some (s.core c).issue)

/-- R216, R226, R394, R199: where a command that the quadrant pushed has faulted, TRET clears HALT unless another quadrant's command has faulted too, and the command stands in its queue to go on from PROG1.ROW,
or, under XSKIP, leaves it with its signal given; a later MPROG then finds it done. PROG1 becomes that of the next command that has faulted. -/
def Sys2Proof.Claim.TretReplaysTheMatrixImage : Prop :=
  ∀ (s : State) (f : MatrixForm) (first : List MCmd) (m : MCmd) (rest : List MCmd), Free s {} → s.me.inh = true → s.me.chImg = Tab.empty → s.myCore.halt = true →
    s.myCore.mq = first ++ m :: rest → m.fault = true → m.quad = s.cur.quad → (∀ x ∈ first, x.fault = true → x.quad ≠ s.cur.quad) → matrixForm m.word = some f →
    let q := s.me.begin {}
    let k := s.myCore
    let earlier : Prop := ∃ x ∈ first, x.fault = true
    let row := if earlier then m.row else k.prog1
    ∃ t, exec .tret s = .next t ∧ OnlyMyCore s t ∧ t.me = Left q ∧
      let w := t.myCore
      (w.halt = true ↔ ∃ x ∈ first ++ rest, x.fault = true) ∧
      w.prog1 = (if earlier then k.prog1 else match rest.find? MCmd.fault with | some x => x.row | none => 0) ∧
      (q.xskip = true → w.mq = first ++ rest ∧ Signalled k w q.cyc f.signals.toNat ∧ w.mlast = (if ∀ x ∈ first, x.reload = true then m.token else k.mlast) ∧
        ({ w with mq := k.mq, halt := k.halt, prog1 := k.prog1, sm := k.sm, smAt := k.smAt, smNew := k.smNew, smTook := k.smTook, mlast := k.mlast } : Core).setQuad s.cur.quad s.me = k) ∧
      (q.xskip = false → w.mq = first ++ { m with fault := false, row := row, out := if m.row = row then m.out else [] } :: rest ∧
        ({ w with mq := k.mq, halt := k.halt, prog1 := k.prog1 } : Core).setQuad s.cur.quad s.me = k)

namespace Sys2Proof.Claim

/-- One job of a channel in place of the job with its token. -/
def replaced (x : Chan) (j : Job) : Chan :=
  { x with q := x.q.map (fun y => if y.token = j.token then j else y), records := x.records.map (fun y => if y.token = j.token then j else y) }

/-- The job of a channel that a trap has stopped, its number `n`: the head, or of a running chain a record. -/
def StoppedJob (x : Chan) (n : Nat) (j : Job) : Prop :=
  ∃ h rest, x.q = h :: rest ∧ j.entered = some n ∧
    ((h.kind ≠ .chain ∧ j = h) ∨ (h.kind = .chain ∧ ∃ before after, x.records = before ++ j :: after ∧ ∀ y ∈ before, y.entered ≠ some n))

/-- Channel `x`, whose image quadrant `q` holds, as TRET leaves it (R252, R253): it runs again. A record that could not be read is read once more, or, under CSKIP, ends the chain, its address in CHPARK. A job
that has stopped goes on where it stood, or, under CSKIP, is complete with an error, or goes on from another count of bytes that the handler has put into PROG3. -/
def Replayed (q : Quad) (ch : Nat) (x y : Chan) : Prop :=
  let on : Chan := { x with halted := none, badRecord := false }
  let d := q.prog3.toNat % 2 ^ 48
  let named : Prop := q.prog3.toNat / 2 ^ 56 % 8 = ch
  (x.halted = none → y = x) ∧
  ∀ n, x.halted = some n →
    (x.badRecord = true → q.cskip = false → y = on) ∧
    (∀ h rest, x.badRecord = true → q.cskip = true → x.q = h :: rest → h.kind = .chain → h.entered ≠ none →
      y = { on with next := none, park := x.next.getD 0, q := if x.records = [] then rest else x.q }) ∧
    (∀ j, x.badRecord = false → StoppedJob x n j →
      (q.cskip = true → y = replaced on { j with fin := true, err := true, status := 9, redo := [], bad := none }) ∧
      (q.cskip = false → ¬ named ∨ d = j.shown → y = on) ∧
      (q.cskip = false → named → d ≠ j.shown → y = replaced on { j with
        done := min d (if j.kind = .nest then nestRows j.dims * j.n else j.n), buf := [], redo := [], bad := none, port := {}, phase := 0, carry := 0, carryN := 0 }))

end Sys2Proof.Claim
open Sys2Proof Sys2Proof.Machine Sys2Proof.Claim

/-- R252, R253, R394: TRET lets every copy channel go on whose image the handler's quadrant holds, and no other; nothing else of the core changes but the quadrant. -/
def Sys2Proof.Claim.TretReplaysCopyChannels : Prop :=
  ∀ (s : State), Free s {} → s.me.inh = true → holdsImage s.myCore s.cur.quad = false → s.me.chImg.keys.Nodup →
    let q := s.me.begin {}
    ∃ t, exec .tret s = .next t ∧ OnlyMyCore s t ∧ t.me = Left q ∧ ({ t.myCore with chans := s.myCore.chans } : Core).setQuad s.cur.quad s.me = s.myCore ∧
      ∀ ch, (ch ∉ s.me.chImg.keys → t.myCore.chans.get {} ch = s.myCore.chans.get {} ch) ∧
        (ch ∈ s.me.chImg.keys → Replayed q ch (s.myCore.chans.get {} ch) (t.myCore.chans.get {} ch))

/-- TRET leaves the handler and replays the images of the engines. Model choices: log entries 42, 46, 59, 104, 125, 131. -/
def Obligations.TretLeavesTheHandler : Prop :=
  Sys2Proof.Claim.TretRestoresItsQuadrant ∧ Sys2Proof.Claim.TretReplaysTheMatrixImage ∧ Sys2Proof.Claim.TretReplaysCopyChannels

/-- A copy burst moves its bytes, a finished job leaves and sets its tag, a chain reads its records. Model choices: log entries 50, 57. -/
def Obligations.CopyEngineRunsItsJobs : Prop :=
  Sys2Proof.Claim.CopyBurstMovesItsBytes ∧ Sys2Proof.Claim.FinishedCopyJobsComplete ∧ Sys2Proof.Claim.ChainsReadTheirRecords

namespace Sys2Proof.Claim

/-! ### Rings -/

/-- The fields of a ring control block (R273). -/
def rBase (v : Nat) : Nat := field v 0 64
def rS (v : Nat) : Nat := field v 64 5
def rZ (v : Nat) : Nat := field v 69 5
def rPidx (v : Nat) : Nat := field v 160 32
def rAidx (v : Nat) : Nat := field v 192 32
def rCidx (v : Nat) : Nat := field v 224 32

/-- The distance of two indexes, modulo 2^32. -/
def ahead (a b : Nat) : Nat := (a + 2 ^ 32 - b) % 2 ^ 32

/-- Slot j and its expected phase (R275). -/
def slotAddr (v j : Nat) : Word := BitVec.ofNat 64 (rBase v + j % 2 ^ rS v * 2 ^ rZ v)
def slotPhase (v j : Nat) : Nat := j / 2 ^ rS v % 2

/-- A legal control block without spill (R273, R282): the ranges of S and Z, BASE a multiple of the slot size, reserved bits zero, the indexes in order and no more slots in use than
there are. -/
def LegalRing (v : Nat) : Prop :=
  1 ≤ rS v ∧ rS v ≤ 20 ∧ 4 ≤ rZ v ∧ rZ v ≤ 16 ∧ rBase v % 2 ^ rZ v = 0 ∧ field v 256 64 % 2 ^ rZ v = 0 ∧ field v 416 96 = 0 ∧ field v 104 56 = 0 ∧ field v 79 1 = 0 ∧ field v 81 7 = 0 ∧
    ahead (rPidx v) (rCidx v) ≤ 2 ^ rS v ∧ ahead (rAidx v) (rCidx v) ≤ ahead (rPidx v) (rCidx v)

/-- Handle `h` of the quadrant is bound to the ring whose block, `v`, lies at `blk` in the core's scratchpad, at `key` of memory. -/
def BoundTo (s : State) (h : Nat) (blk : Word) (key v : Nat) : Prop :=
  (s.me.handles.get {} h).block = some blk ∧ SpadRange s s.cur.core (myTask s) blk 64 key ∧ v = ofBytes (memBytes s key 64) ∧ LegalRing v

/-- The phase word of slot j, at `key` of memory. -/
def PhaseWord (s : State) (v j key w : Nat) : Prop :=
  SpadRange s s.cur.core (myTask s) (slotAddr v j) 4 key ∧ w = ofBytes (memBytes s key 4)

/-- A word of a ring has no effect but on the quadrant, memory and who watches it. -/
def RingFrame (s t : State) : Prop := BesidesHomes s t ∧ t.myCore.setQuad s.cur.quad s.me = s.myCore

/-- The ring's index at byte `lo` of the block goes one on, and no other byte of memory changes but those at `key'`, which become `b`. -/
def IndexMoves (s t : State) (key lo x key' : Nat) (b : List (BitVec 8)) : Prop :=
  ∀ k, t.byteAt k = if key + lo ≤ k ∧ k < key + lo + 4 then BitVec.ofNat 8 ((x + 1) % 2 ^ 32 / 2 ^ (8 * (k - (key + lo))))
    else if key' ≤ k ∧ k < key' + b.length then b.getD (k - key') 0 else s.byteAt k

/-- What HAND may read and write: its register (R294). -/
def handUse (a : BitVec 6) : Use := { reads := if a = 0 then [] else [.g a.toNat], writes := if a = 0 then [] else [.g a.toNat] }

/-- Everything of a quadrant but its g registers, its handles and what is in flight. -/
def RestOfHandles (q w : Quad) : Prop := ({ w with g := q.g, pend := q.pend, handles := q.handles } : Quad) = q

/-- Handle `h` alone becomes `x`. -/
def HandleSet (q w : Quad) (h : Nat) (x : Handle) : Prop := ∀ k, w.handles.get {} k = if k = h then x else q.handles.get {} k

/-- Commit of the entry at `a` (R276, R284): slot j is reserved, and its phase word takes the expected phase. The word takes an atomic's latency. -/
def Commits (i : Instr) (s : State) (q : Quad) (v : Nat) (a : Word) : Prop :=
  ∀ j key w, a = slotAddr v j → ahead j (rCidx v) < ahead (rPidx v) (rCidx v) → j < 2 ^ 32 → PhaseWord s v j key w → w % 2 ≠ slotPhase v j →
    ∃ t, exec i s = .next t ∧ RingFrame s t ∧ t.me = q.retire 5 ∧ MemoryWrites s t key (lowBytes (slotPhase v j) 4)

/-- Acquire (R276, R283): the next reserved slot, once committed; its address goes to `d` and LAST, and AIDX goes on. -/
def Acquires (i : Instr) (s : State) (q : Quad) (h key v : Nat) (d : BitVec 6) : Prop :=
  ∀ k w, rAidx v ≠ rPidx v → PhaseWord s v (rAidx v) k w → w % 2 = slotPhase v (rAidx v) →
    ∃ t x, exec i s = .next t ∧ RingFrame s t ∧ t.me = x.retire 5 ∧ IndexMoves s t key 24 (rAidx v) 0 [] ∧ WritesG q x d.toNat (slotAddr v (rAidx v)) ∧
      RestOfHandles q x ∧ HandleSet q x h { q.handles.get {} h with last := some (slotAddr v (rAidx v)) }

end Sys2Proof.Claim
open Sys2Proof Sys2Proof.Machine Sys2Proof.Claim

/-- R273, R279, R282: QBIND of a legal block, at the register's address or at the label, binds the handle to it, with LAST empty and ERR clear, and writes no memory. -/
def Sys2Proof.Claim.QbindBindsItsHandle : Prop :=
  ∀ (s : State) (h : BitVec 4) (blk : Word) (i : Instr) (u : Use) (key : Nat),
    ((∃ a, i = .qbindReg h a ∧ u = useOf [a] 0 4 ∧ (s.me.begin u 7).src a = blk) ∨
      (∃ o, i = .qbindLabel h o ∧ u = {} ∧ blk = BitVec.ofInt 64 (((s.me.begin u 7).pc.toNat / 64 * 64 : Nat) + o.toInt * 64))) →
    Free s u 7 → blk.toNat % 64 = 0 → SpadRange s s.cur.core (myTask s) blk 64 key →
    let v := ofBytes (memBytes s key 64)
    LegalRing v → rBase v / 2 ^ 54 % 16 = 15 → (rBase v + 2 ^ (rS v + rZ v) - 1) / 2 ^ 54 % 16 = 15 →
    let q := s.me.begin u 7
    CompletesMe i s 0 (fun w => RestOfHandles q w ∧ w.g = q.g ∧ w.pend = q.pend ∧
      HandleSet q w h.toNat { block := some blk, gang := decide (field v 80 1 = 1), hp := field v 88 8, hc := field v 96 8 })

/-- R276, R283, R284, R288, R294: QRES reserves the next slot of a ring that is not full and waits on a full one; QACQ acquires; QCMT commits, or sets ERR for an address that is no reserved slot;
HAND commits in a role of HPMASK (with g0 it reserves as well), acquires in one of HCMASK, and does nothing in another. -/
def Sys2Proof.Claim.RingWordsReserveCommitAcquire : Prop :=
  ∀ (s : State) (h : BitVec 4) (blk : Word) (key v : Nat) (d a : BitVec 6) (l : BitVec 12), BoundTo s h.toNat blk key v →
    Settled s → s.me.ask = none →
    (Free s (useOf [] d 4) 7 → let q := s.me.begin (useOf [] d 4) 7
      (ahead (rPidx v) (rCidx v) < 2 ^ rS v → ∃ t x, exec (.qres d h l) s = .next t ∧ RingFrame s t ∧ t.me = x.retire 5 ∧ IndexMoves s t key 20 (rPidx v) 0 [] ∧
        WritesG q x d.toNat (slotAddr v (rPidx v)) ∧ ({ x with g := q.g, pend := q.pend } : Quad) = q) ∧
      (ahead (rPidx v) (rCidx v) = 2 ^ rS v → q.wait = none → ∃ t w, exec (.qres d h l) s = .next t ∧ OnlyMe s t ∧ t.me = { q with wait := some w, cyc := q.cyc + 1 } ∧
        w.since = q.cyc ∧ w.limit = 64 * l.toNat ∧ w.e0 = blk ∧ w.e1 = BitVec.ofNat 64 (rPidx v) ∧ w.e2 = BitVec.ofNat 64 (rCidx v)) ∧
      Acquires (.qacq d h l) s q h.toNat key v d) ∧
    (Free s (useOf [a] 0 4) 7 → let q := s.me.begin (useOf [a] 0 4) 7
      Commits (.qcmt a h) s q v (q.src a) ∧
      (field v 320 32 = field v 384 32 → (∀ j, j < 2 ^ 32 → ahead j (rCidx v) < ahead (rPidx v) (rCidx v) → q.src a ≠ slotAddr v j) →
        ∃ t x, exec (.qcmt a h) s = .next t ∧ RingFrame s t ∧ MemorySame s t ∧ t.me = x.retire 5 ∧ RestOfHandles q x ∧ x.g = q.g ∧ x.pend = q.pend ∧
          HandleSet q x h.toNat { q.handles.get {} h.toNat with err := true })) ∧
    (let u := handUse a;
      Free s u 7 → a.toNat < 48 → let q := s.me.begin u 7
      let x := q.handles.get {} h.toNat
      (x.hp &&& x.hc ≠ 0 → CompletesMe (.hand a h l) s 0 (fun w => RestOfHandles q w ∧ w.g = q.g ∧ w.pend = q.pend ∧ HandleSet q w h.toNat { x with err := true })) ∧
      (x.hp &&& x.hc = 0 →
      (field x.hp q.member.role 1 = 1 → a = 0 → ahead (rPidx v) (rCidx v) < 2 ^ rS v → ∀ k w, PhaseWord s v (rPidx v) k w → w % 2 ≠ slotPhase v (rPidx v) →
        (k + 4 ≤ key ∨ key + 64 ≤ k) → ∃ t, exec (.hand a h l) s = .next t ∧ RingFrame s t ∧ t.me = q.retire 5 ∧
          IndexMoves s t key 20 (rPidx v) k (lowBytes (slotPhase v (rPidx v)) 4)) ∧
      (field x.hp q.member.role 1 = 1 → a ≠ 0 → Commits (.hand a h l) s q v (q.gr a.toNat)) ∧
      (field x.hp q.member.role 1 = 0 → field x.hc q.member.role 1 = 1 → Acquires (.hand a h l) s q h.toNat key v a) ∧
      (field x.hp q.member.role 1 = 0 → field x.hc q.member.role 1 = 0 → CompletesMe (.hand a h l) s 0 (fun w => w = q))))

/-- R276, R285, R286, R287: QREL marks an acquired slot released; where it is the oldest held slot, its mark is cleared and CIDX passes it. QSTAT reads the counts and clears ERR. A word through an unbound
handle raises PROT with reason 14. Model choices: log entry 64. -/
def Obligations.RingWordsReleaseAndReport : Prop :=
  ∀ (s : State) (h : BitVec 4) (blk : Word) (key v : Nat) (d a : BitVec 6), Settled s → s.me.ask = none →
    (BoundTo s h.toNat blk key v → Free s (useOf [a] 0 4) 7 → let q := s.me.begin (useOf [a] 0 4) 7
      let x := q.handles.get {} h.toNat
      ∀ (addr : Word) (j k w : Nat), (if a = 0 then x.last = some addr else addr = q.src a) → addr = slotAddr v j → j < 2 ^ 32 → ahead j (rCidx v) < ahead (rAidx v) (rCidx v) →
        PhaseWord s v j k w → field w 1 1 = 0 → w % 2 = slotPhase v j → (k + 4 ≤ key ∨ key + 64 ≤ k) →
        (j = rCidx v ∧ ahead (rAidx v) (rCidx v) = 1 ∨ j ≠ rCidx v ∧ ∃ k' w', PhaseWord s v (rCidx v) k' w' ∧ field w' 1 1 = 0) →
        ∃ t y, exec (.qrel a h) s = .next t ∧ RingFrame s t ∧ t.me = y.retire 5 ∧ RestOfHandles q y ∧ y.g = q.g ∧ y.pend = q.pend ∧
          HandleSet q y h.toNat { x with last := if a = 0 ∨ x.last = some addr then none else x.last } ∧
          (j ≠ rCidx v → MemoryWrites s t k (lowBytes (2 + slotPhase v j) 4)) ∧
          (j = rCidx v → IndexMoves s t key 28 (rCidx v) k (lowBytes (slotPhase v j) 4))) ∧
    (BoundTo s h.toNat blk key v → Free s (useOf [] d 4) 7 → let q := s.me.begin (useOf [] d 4) 7
      let x := q.handles.get {} h.toNat
      CompletesMe (.qstat d h) s 5 (fun w => RestOfHandles q w ∧ HandleSet q w h.toNat { x with err := false } ∧
        WritesG q w d.toNat (BitVec.ofNat 64 ((if x.err then 2 ^ 63 else 0) + (if field v 320 32 = field v 352 32 then 0 else 2 ^ 62) +
          ahead (rAidx v) (rCidx v) % 2 ^ 21 * 2 ^ 41 + ahead (rPidx v) (rAidx v) % 2 ^ 21 * 2 ^ 20 + ahead (field v 320 32) (field v 384 32) % 2 ^ 20)))) ∧
    (∀ (i : Instr) (u : Use) (l : BitVec 12), (s.me.handles.get {} h.toNat).block = none →
      (i = .qstat d h ∧ u = useOf [] d 4) ∨ (i = .qres d h l ∧ u = useOf [] d 4) ∨ (i = .qacq d h l ∧ u = useOf [] d 4) ∨ (i = .qcmt a h ∧ u = useOf [a] 0 4) ∨
        (i = .qrel a h ∧ u = useOf [a] 0 4) ∨ (i = .hand a h l ∧ a.toNat < 48 ∧ u = handUse a) →
      Free s u 7 → CanTrap s →
      Traps i s u 0x13 (fun q => q.pc) (fun _ => BitVec.ofNat 64 h.toNat) (fun _ => 14) (fun _ => BitVec.ofNat 64 (myAsid s + 13 * 2 ^ 16)) (fun q => q.pc) 7)

/-- R276, R282 to R284, R294: on a legal ring whose block lies in the core's scratchpad every word of a ring completes: QBIND binds the handle, at a register's address and at a label; QRES
answers a slot where one is free; QACQ answers a slot that has been committed; QCMT, through g registers and latches alike, commits a reserved one; HAND does what its role asks: a permit through
g0, a commit, an acquire, or nothing. Model choices: log entry 64. -/
def Obligations.RingWordsCompleteOnALegalRing : Prop :=
  ∀ (s : State) (h : BitVec 4) (blk : Word) (key v : Nat), Settled s → s.me.ask = none → SpadRange s s.cur.core (myTask s) blk 64 key →
    v = ofBytes (memBytes s key 64) → LegalRing v →
    let free := ahead (rPidx v) (rCidx v) < 2 ^ rS v
    let open_ (j : Nat) : Prop := ∃ k w, PhaseWord s v j k w ∧ w % 2 ≠ slotPhase v j ∧ (k + 4 ≤ key ∨ key + 64 ≤ k)
    let ready : Prop := rAidx v ≠ rPidx v ∧ ∃ k w, PhaseWord s v (rAidx v) k w ∧ w % 2 = slotPhase v (rAidx v)
    let reserved (a : Word) : Prop := ∃ j, j < 2 ^ 32 ∧ a = slotAddr v j ∧ ahead j (rCidx v) < ahead (rPidx v) (rCidx v) ∧ open_ j
    let bound (x : Quad) : Prop := (x.handles.get {} h.toNat).block = some blk ∧ (x.handles.get {} h.toNat).err = false ∧ (x.handles.get {} h.toNat).last = none
    let takes (x : Quad) (d : BitVec 6) (j : Nat) : Prop := d ≠ 0 → x.gr d.toNat = slotAddr v j
    (blk.toNat % 64 = 0 → rBase v / 2 ^ 54 % 16 = 15 → (rBase v + 2 ^ (rS v + rZ v) - 1) / 2 ^ 54 % 16 = 15 →
      (∀ a, Free s (useOf [a] 0 4) 7 → (s.me.begin (useOf [a] 0 4) 7).src a = blk → ∃ t x, exec (.qbindReg h a) s = .next t ∧ t.me = x.retire 0 ∧ bound x) ∧
      (∀ o, Free s {} 7 → blk = BitVec.ofInt 64 (((s.me.begin {} 7).pc.toNat / 64 * 64 : Nat) + o.toInt * 64) →
        ∃ t x, exec (.qbindLabel h o) s = .next t ∧ t.me = x.retire 0 ∧ bound x)) ∧
    ((s.me.handles.get {} h.toNat).block = some blk → let handle := s.me.handles.get {} h.toNat
      (∀ d l, Free s (useOf [] d 4) 7 → free → ∃ t x, exec (.qres d h l) s = .next t ∧ t.me = x.retire 5 ∧ takes x d (rPidx v)) ∧
      (∀ d l, Free s (useOf [] d 4) 7 → ready → ∃ t x, exec (.qacq d h l) s = .next t ∧ t.me = x.retire 5 ∧ takes x d (rAidx v) ∧
        (x.handles.get {} h.toNat).last = some (slotAddr v (rAidx v))) ∧
      (∀ a, Free s (useOf [a] 0 4) 7 → reserved ((s.me.begin (useOf [a] 0 4) 7).src a) →
        ∃ t, exec (.qcmt a h) s = .next t ∧ t.me = (s.me.begin (useOf [a] 0 4) 7).retire 5) ∧
      (∀ (a : BitVec 6) (l : BitVec 12), let u := handUse a
        a.toNat < 48 → Free s u 7 → handle.hp &&& handle.hc = 0 → let q := s.me.begin u 7
        let makes : Prop := field handle.hp q.member.role 1 = 1
        let uses : Prop := field handle.hc q.member.role 1 = 1
        (makes → (a = 0 ∧ free ∧ open_ (rPidx v)) ∨ (a ≠ 0 ∧ reserved (q.gr a.toNat)) → ∃ t, exec (.hand a h l) s = .next t ∧ t.me = q.retire 5) ∧
        (¬ makes → uses → ready → ∃ t x, exec (.hand a h l) s = .next t ∧ t.me = x.retire 5 ∧ takes x a (rAidx v)) ∧
        (¬ makes → ¬ uses → ∃ t, exec (.hand a h l) s = .next t ∧ t.me = q.retire 0)))

/-- QBIND binds a handle; QRES, QCMT, QACQ and HAND move slots through the ring. Model choices: log entry 64. -/
def Obligations.RingWordsBindReserveAndCommit : Prop :=
  Sys2Proof.Claim.QbindBindsItsHandle ∧ Sys2Proof.Claim.RingWordsReserveCommitAcquire

namespace Sys2Proof.Claim

/-! ### Members of a task -/

/-- Quadrant `u` of core `c`, or walk engine `c`, is a member of task `n` that is not idle (R290). -/
def IsMember (s : State) (n c u : Nat) : Prop :=
  ((c ∈ (s.task n).cores ∧ u < 4) ∨ (c ∈ (s.task n).walks ∧ u = 0)) ∧ (s.quadOf c u).idle = false

/-- The barriers that a member has passed: of the team, or of its core (R298). -/
def passed (core : Bool) (q : Quad) : Nat := if core then q.cbarrier else q.barrier

/-- A member has come to the barrier of `q`, `lag` cycles before `q`'s cycle: it stands there, has passed it, or has ended. -/
def HasCome (core : Bool) (q x : Quad) (lag : Nat) : Prop :=
  passed core q < passed core x ∨ (x.ended = true ∧ x.doneAt + lag ≤ q.cyc) ∨
    (x.ended = false ∧ ∃ t, x.arrived = some (core, t) ∧ passed core x = passed core q ∧ t + lag ≤ q.cyc)

/-- A member has come, or will not: it stands at the barrier of `q`, has passed it, or has ended. -/
def HasArrived (core : Bool) (q x : Quad) : Prop :=
  passed core q < passed core x ∨ x.ended = true ∨ ∃ t, x.arrived = some (core, t) ∧ passed core x = passed core q

/-! ### Signals -/

/-- The conditions of SIGW (R300). -/
def signal (c : Nat) (x b : Word) : Prop :=
  match c with
  | 0 => x = b
  | 1 => x ≠ b
  | 2 => b.toNat ≤ x.toNat
  | _ => x.toNat < b.toNat

/-- A wait on a signal at `a` (R300): where its condition holds at arrival it goes on; otherwise it stands and its home watches the location for it. -/
def SignalWaits (i : Instr) (s : State) (q : Quad) (a b : Word) (c limit : Nat) : Prop :=
  ∀ key, a.toNat % 8 = 0 → Granted s .load a 8 key → q.wait = none →
    let x : Word := BitVec.ofNat 64 (ofBytes (memBytes s key 8))
    ∃ t, exec i s = .next t ∧ RingFrame s t ∧ MemorySame s t ∧
      (signal c x b → t.me = q.retire 0) ∧
      (¬ signal c x b → ∃ w y, t.me = { q with wait := some w, cyc := q.cyc + 1 } ∧ w.since = q.cyc ∧ w.limit = 64 * limit ∧ w.e0 = a ∧ w.e1 = x ∧ w.e2 = b ∧
        y ∈ t.watches ∧ y.who = s.watcher ∧ y.key = key ∧ y.cond = c ∧ y.b = b ∧ y.met = false)

/-- A quadrant of a plain task stands at its switch point, with what it waits for (R316); a cycle of a wait for copies is counted (R428). -/
def Stands (i : Instr) (s : State) (q : Quad) (c : Cond) (counted : Nat) : Prop :=
  ∃ t, exec i s = .next t ∧ OnlyMe s t ∧ t.me = { q with cond := some c, waited := q.waited + counted, cyc := q.cyc + 1 }

end Sys2Proof.Claim
open Sys2Proof Sys2Proof.Machine Sys2Proof.Claim

/-- R292, R293, R298, R415: ROLE enters its block for a role of its mask and else passes the words of its span, in no slot; a member arrives at TBAR or CBAR once its accesses are done, the facet of the last of a
team of several facets is noted with the context, and a member passes when every member has come. Model choices: log entries 88, 127. -/
def Obligations.RolesAndBarriers : Prop :=
  ∀ (s : State) (m : BitVec 8) (y : BitVec 12) (core : Bool) (i : Instr), i = (if core then .cbar else .tbar) →
    (let q := s.me
      let n := if m.getLsbD q.member.role then 0 else y.toNat
      let target := q.pc + BitVec.ofNat 64 (4 + 4 * n)
      (∀ l ∈ q.loops.head?, ¬ (q.pc.toNat ≤ l.last.toNat ∧ l.last.toNat < target.toNat)) →
      ∃ t, exec (.role m y) s = .next t ∧ OnlyMe s t ∧ t.me = { q with pc := target, words := q.words + 1 + n, inject := none, doneAt := q.cyc }) ∧
    (Free s {} 7 → let q := s.me.begin {} 7
      (q.arrived = none → Settled s →
        let ofBarrier (c u : Nat) : Prop := IsMember s (myTask s) c u ∧ (core = true → c = s.cur.core)
        let notes : Prop := (∃ c u c' u', ofBarrier c u ∧ ofBarrier c' u' ∧ facetOf c ≠ facetOf c') ∧
          ∀ c u, ofBarrier c u → (c ≠ s.cur.core ∨ u ≠ s.cur.quad) → HasArrived core q (s.quadOf c u)
        let w (u : State) : Prop := ∃ t, exec i s = .next t ∧ OnlyMe u t ∧ t.me = { q with arrived := some (core, q.cyc), cyc := q.cyc + 1 }
        (¬ notes → w s) ∧
        (notes → w (s.updCtx (s.task (myTask s)).ctx (fun x => { x with arrivals := (facetOf s.cur.core :: x.arrivals).take 16 })))) ∧
      (∀ t0, q.arrived = some (core, t0) → t0 + 100 ≤ q.cyc →
        (∀ c u, IsMember s (myTask s) c u → (core = true → c = s.cur.core) → (c ≠ s.cur.core ∨ u ≠ s.cur.quad) → HasCome core q (s.quadOf c u) 100) →
        ∃ t, exec i s = .next t ∧ OnlyMe s t ∧ t.me = { q.retire 0 with
          arrived := none, barrier := if core then (q.retire 0).barrier else (q.retire 0).barrier + 1
          cbarrier := if core then (q.retire 0).cbarrier + 1 else (q.retire 0).cbarrier }))

/-- R199, R288, R299: SMSIG adds one to its semaphore once the quadrant's accesses are done and stands until then, SMWAIT takes one where one stands from an earlier cycle and waits where none does. R303, R305: STGE arms its stage barrier with a
range of granted banks, and raises STAGE on one that is short; STWT goes on where the barrier is idle or complete, and stands where it is short. Model choices: log entry 50. -/
def Obligations.SemaphoresAndStageBarriers : Prop :=
  ∀ (s : State) (k : BitVec 4) (l : BitVec 12) (b : BitVec 3) (x y : BitVec 6), k ≠ 0 →
    (Free s {} 7 → let q := s.me.begin {} 7
      let core (becomes : Core → Core → Nat → Nat → Prop) (order : List Nat) (i : Instr) : Prop := ∃ t, exec i s = .next t ∧ OnlyMyCore s t ∧ t.me = q.retire 0 ∧
        becomes s.myCore t.myCore q.cyc k.toNat ∧ t.myCore.order = order ∧
        ({ t.myCore with sm := s.myCore.sm, smAt := s.myCore.smAt, smNew := s.myCore.smNew, smTook := s.myCore.smTook, order := s.myCore.order } : Core).setQuad s.cur.quad s.me = s.myCore
      let stands (limit : BitVec 12) (e0 e1 e2 : Word) (i : Instr) : Prop := q.wait = none → ∃ t w, exec i s = .next t ∧ OnlyMe s t ∧
        t.me = { q with wait := some w, cyc := q.cyc + 1 } ∧ w.since = q.cyc ∧ w.limit = 64 * limit.toNat ∧ w.e0 = e0 ∧ w.e1 = e1 ∧ w.e2 = e2
      let count := s.myCore.sm.get 0 k.toNat
      let fresh := freshIn s.myCore q.cyc k.toNat
      let st := s.myCore.stb.get {} b.toNat
      (Settled s → core Signalled s.myCore.order (.smsig k)) ∧
      (s.me.memQ ≠ [] → exec (.smsig k) s = .next (s.updMe (fun _ => { q with cyc := q.cyc + 1 }))) ∧
      (fresh < count → core Took (s.myCore.order.filter (fun x => decide (x ≠ s.cur.quad)) ++ [s.cur.quad]) (.smwait k l)) ∧
      (count ≤ fresh → stands l (BitVec.ofNat 64 k.toNat) (BitVec.ofNat 64 count) 0 (.smwait k l)) ∧
      (st.armed = false ∨ st.credited = st.announced → CompletesMe (.stwt b l) s 0 (fun w => w = q)) ∧
      (st.armed = true → st.credited ≠ st.announced → stands l (BitVec.ofNat 64 b.toNat) (BitVec.ofNat 64 st.announced) (BitVec.ofNat 64 st.credited) (.stwt b l))) ∧
    (Free s (useOf [x, y] 0 4) 7 → let q := s.me.begin (useOf [x, y] 0 4) 7
      let st := s.myCore.stb.get {} b.toNat
      let lo := (q.src x).toNat % 2 ^ 19
      let n := (q.src y).toNat % 2 ^ 32
      homeOf (q.src x) = 15 → (n = 0 ∨ lo + n ≤ 2 ^ 19 ∧ ∀ i, i < n → s.bankOk s.cur.core ((lo + i) / 65536) (myTask s) = true) →
      (st.armed = false ∨ st.credited = st.announced → ∃ t, exec (.stge b x y) s = .next t ∧ OnlyMyCore s t ∧ t.me = q.retire 0 ∧
        (∀ i, t.myCore.stb.get {} i = if i = b.toNat then { armed := true, base := lo, len := n, announced := n, credited := 0, quad := s.cur.quad } else s.myCore.stb.get {} i) ∧
        ({ t.myCore with stb := s.myCore.stb } : Core).setQuad s.cur.quad s.me = s.myCore) ∧
      (st.armed = true → st.credited ≠ st.announced → CanTrap s → Traps (.stge b x y) s (useOf [x, y] 0 4) 0x15 (fun q => q.pc) (fun _ => BitVec.ofNat 64 (b.toNat + 8))
        (fun _ => BitVec.ofNat 64 st.announced) (fun _ => BitVec.ofNat 64 st.credited) (fun q => q.pc) 7))

/-- R300, R301: SIGW goes on where its condition holds of the signal and else stands, watched; SIGADD, once its release is done, adds to the signal, no other byte changing. -/
def Obligations.SignalsWaitAndAdd : Prop :=
  ∀ (s : State) (a b : BitVec 6) (l : BitVec 12) (c : BitVec 2), Free s (useOf [a, b] 0 4) 7 →
    let q := s.me.begin (useOf [a, b] 0 4) 7
    SignalWaits (.sigw a b l) s q (q.src a) (q.src b) 0 l.toNat ∧
    SignalWaits (.sigwCond a b l c) s q (q.src a) (q.src b) c.toNat l.toNat ∧
    (∀ key, Settled s → (q.src a).toNat % 8 = 0 → Granted s .atomic (q.src a) 8 key →
      ∃ t, exec (.sigadd a b c) s = .next t ∧ RingFrame s t ∧ t.me = q.retire 0 ∧ MemoryWrites s t key (lowBytes (ofBytes (memBytes s key 8) + (q.src b).toNat) 8))

/-- R312, R316, R318: AWAIT and YIELD stand at their switch point in a plain task, once every result has landed; in a team AWAIT waits in its place and YIELD does nothing. TEND, once its release is done and its matrix commands and
vector words are, ends the member; with the last member the task is ending. Model choices: log entry 87. -/
def Obligations.AwaitYieldAndEnd : Prop :=
  ∀ (s : State) (a b : BitVec 6),
    (Free s (useOf [a, b] 0 4) 7 → let q := s.me.begin (useOf [a, b] 0 4) 7
      (q.src a).toNat % 8 = 0 →
      ((s.task (myTask s)).team = false → q.pend = [] → q.snapBack = false → (∃ key, Granted s .load (q.src a) 8 key) →
        ∀ i c, (i = .awaitEq a b ∧ c = .eq (q.src a) (q.src b)) ∨ (i = .awaitGen a b ∧ c = .ge (q.src a) (q.src b)) →
          ∃ t, exec i s = .next t ∧ RingFrame s t ∧ MemorySame s t ∧ t.me = { q with cond := some c, cyc := q.cyc + 1 }) ∧
      ((s.task (myTask s)).team = true → SignalWaits (.awaitEq a b) s q (q.src a) (q.src b) 0 0 ∧ SignalWaits (.awaitGen a b) s q (q.src a) (q.src b) 2 0)) ∧
    (Free s (useOf [b] 0 4) 7 → let q := s.me.begin (useOf [b] 0 4) 7
      ((s.task (myTask s)).team = false → q.pend = [] → q.snapBack = false → Stands (.awaitTags b) s q (.tags (q.src b)) 1) ∧
      ((s.task (myTask s)).team = true → q.wait = none → s.myCore.tagmap &&& q.src b = q.src b → CompletesMe (.awaitTags b) s 0 (fun w => w = q)) ∧
      ((s.task (myTask s)).team = true → q.wait = none → s.myCore.tagmap &&& q.src b ≠ q.src b → ∃ t w, exec (.awaitTags b) s = .next t ∧ OnlyMe s t ∧
        t.me = { q with waited := q.waited + 1, wait := some w, cyc := q.cyc + 1 } ∧ w.since = q.cyc ∧ w.limit = 0 ∧ w.e0 = q.src b ∧ w.e1 = s.myCore.tagmap)) ∧
    (Free s {} 7 → let q := s.me.begin {} 7
      ((s.task (myTask s)).team = false → q.pend = [] → q.snapBack = false → Stands .yield s q .free 0) ∧
      ((s.task (myTask s)).team = true → CompletesMe .yield s 0 (fun w => w = q)) ∧
      (s.cur.core < 1536 → Settled s → q.vecQ = [] → q.pend = [] → q.snapBack = false → (∀ m ∈ s.myCore.mq, m.quad ≠ s.cur.quad) → (∀ r ∈ s.myCore.mrun, r.cmd.quad ≠ s.cur.quad) →
        ∃ t, exec .tend s = .next t ∧ ({ t with cores := s.cores, tasks := s.tasks } : State) = s ∧ (∀ c, c ≠ s.cur.core → t.core c = s.core c) ∧
          t.myCore.setQuad s.cur.quad s.me = s.myCore ∧ t.me = { q with ended := true, doneAt := q.cyc, wait := none, words := q.words + q.wlen / 4 } ∧ (∀ n, n ≠ myTask s → t.task n = s.task n) ∧
          ((∀ c u, IsMember s (myTask s) c u → (c ≠ s.cur.core ∨ u ≠ s.cur.quad) → (s.quadOf c u).ended = true) → t.task (myTask s) = { s.task (myTask s) with st := .ending }) ∧
          ((∃ c u, IsMember s (myTask s) c u ∧ (c ≠ s.cur.core ∨ u ≠ s.cur.quad) ∧ (s.quadOf c u).ended = false) → t.task (myTask s) = s.task (myTask s))))

namespace Sys2Proof.Claim

/-- One facet, context slot, submission queue or the hub alone differs, and it has become what `u` makes of it. -/
def FacetBecomes (s t : State) (f : Nat) (u : Facet → Facet) : Prop :=
  ({ t with facets := s.facets } : State) = s ∧ (∀ g, g ≠ f → t.facet g = s.facet g) ∧ t.facet f = u (s.facet f)
def CtxBecomes (s t : State) (c : Nat) (u : Ctx → Ctx) : Prop :=
  ({ t with ctxs := s.ctxs } : State) = s ∧ (∀ g, g ≠ c → t.ctx g = s.ctx g) ∧ t.ctx c = u (s.ctx c)
def QueueBecomes (s t : State) (q : Nat) (u : SubQ → SubQ) : Prop :=
  ({ t with queues := s.queues } : State) = s ∧ (∀ g, g ≠ q → t.subq g = s.subq g) ∧ t.subq q = u (s.subq q)
def HubBecomes (s t : State) (u : Hub → Hub) : Prop := t = { s with hub := u s.hub }
def CoreBecomes (s t : State) (c : Nat) (u : Core → Core) : Prop := OnlyCore c s t ∧ t.core c = u (s.core c)

end Sys2Proof.Claim
open Sys2Proof Sys2Proof.Machine Sys2Proof.Claim

/-- R4, R5: a register written by the supervisor takes the bits of its fields, and no other bit; a write-one-to-clear field loses the bits that are written as one; nothing else changes. A
write-only register reads as zero. -/
def Sys2Proof.Claim.RegistersTakeTheirFields : Prop :=
  ∀ (s : State) (v : Word) (f k : Nat),
    let n (m : Word) : Nat := (v &&& m).toNat
    let facet (r : SupReg) (u : Facet → Facet) : Prop := Becomes (.registerWrite r v) s (fun t => FacetBecomes s t f u)
    let ctx (r : SupReg) (u : Ctx → Ctx) : Prop := Becomes (.registerWrite r v) s (fun t => CtxBecomes s t f u)
    let queue (r : SupReg) (u : SubQ → SubQ) : Prop := Becomes (.registerWrite r v) s (fun t => QueueBecomes s t f u)
    let hub (r : SupReg) (u : Hub → Hub) : Prop := Becomes (.registerWrite r v) s (fun t => HubBecomes s t u)
    facet (.migthr f) (fun x => { x with migthr := v &&& 0xFF }) ∧
    facet (.nqstat f) (fun x => { x with nqstat := (x.nqstat &&& ~~~v &&& 0x100000000) ||| (v &&& 0xFFFFFFFF) }) ∧
    facet (.sntCtl f k) (fun x => { x with sentinels := x.sentinels.set {} k { x.sentinels.get {} k with ctl := v &&& 0x3FFFF } }) ∧
    facet (.sntRec f k) (fun x => { x with sentinels := x.sentinels.set {} k { x.sentinels.get {} k with hits := (x.sentinels.get {} k).hits &&& ~~~((v &&& 0xC000000000000000).setWidth 128) } }) ∧
    facet (.nbwin f 0) (fun x => { x with nbwin0 := v &&& 0x00FFFFFFFFFFF001 }) ∧
    facet (.pwinA f k) (fun x => { x with pwinA := x.pwinA.set 0 k (v &&& 0x003FFFFFFFE00001) }) ∧
    facet (.deccnt f) (fun x => { x with deccnt := n 0xFFFFFFFF }) ∧
    ctx (.ptroot f k) (fun x => { x with ptroot := x.ptroot.set 0 k (v &&& 0x000FFFFFFFFC0001) }) ∧
    ctx (.stopst f) (fun x => { x with stoplost := x.stoplost && !v.getLsbD 0 }) ∧
    ctx (.wdoglim f) (fun x => { x with wdoglim := n 0xFFFF }) ∧
    ctx (.locbase f) (fun x => { x with locbase := v &&& 0xFFFFFFFFFFFF0FFF }) ∧
    queue (.sqtick f) (fun x => { x with skip := n 0xFFFFFFFF }) ∧
    hub .fabimg (fun x => { x with fabimg := v }) ∧
    hub .secmap (fun x => { x with secmap := v &&& 0x7FFF }) ∧
    hub (.secrgnA k) (fun x => { x with secrgnA := x.secrgnA.set 0 k (v &&& 0x000FFFFFFFFF0001) }) ∧
    hub .dbgtgt (fun x => { x with dbgtgt := v &&& 0x7FFFF }) ∧
    ∀ r, r = .migclr f ∨ r = .tlbinv f ∨ r = .locinv f ∨ r = .locinva f ∨ r = .sup (.dbgsig k) → s.readReg r = (s, 0)

/-- R327, R332, R338, R366, R374, R407, R414: the registers whose write does more than to take its fields: SQCTL, SQERR, COREOFF, FABACT, RQUOTA, CIQCTL and FEATACC. A write with a value outside its range changes
nothing, and FEATACC is written once. -/
def Sys2Proof.Claim.ConfigurationWritesAreChecked : Prop :=
  ∀ (s : State) (v : Word) (k j : Nat),
    Becomes (.sqctlWrite k v) s (fun t =>
      let log2n := (v >>> 12).toNat % 32
      if log2n < 4 ∨ 16 < log2n then t = s
      else QueueBecomes s t k (fun x => { x with
        log2n := log2n, en := if v.getLsbD 22 = true ∧ s.hub.featDone = false then x.en else v.getLsbD 22, ns := v.getLsbD 23, asid := (v >>> 24).toNat % 2 ^ 16
        tryAt := s.cycle + 1, ticks := if v.getLsbD 22 then x.ticks
          else (x.ticks.map (fun y => if y.left = none then { y with left := some 0 } else y)).filter (fun y => decide (y.running ≠ none ∨ y.left ≠ some 0)) })) ∧
    Becomes (.sqerrClear k) s (fun t => QueueBecomes s t k (fun x => { x with errCode := 0, tryAt := s.cycle + 1 })) ∧
    Becomes (.ciqctlWrite k v) s (fun t =>
      let log2n := (v >>> 59).toNat % 32
      if log2n < 4 ∨ 16 < log2n then t = s else CtxBecomes s t k (fun x => { x with ciqLog := log2n, ciqLost := x.ciqLost && !v.getLsbD 58 })) ∧
    Becomes (.feataccWrite v) s (fun t => if s.hub.featDone then t = s else HubBecomes s t (fun x => { x with featacc := v.setWidth 8, featDone := true })) ∧
    Becomes (.fabactLoad v) s (fun t => HubBecomes s t (fun x => { x with fabact := v, fabAt := some (s.cycle + 1060) })) ∧
    Becomes (.rquotaWrite k v) s (fun t =>
      let n := v.toNat % 2 ^ 13
      let others := (((List.range 64).filter (fun i => i != k)).map (fun i => s.hub.rquota.get 1024 i)).sum
      if n < 64 ∨ 4096 < n ∨ 65536 < others + n then t = s else HubBecomes s t (fun x => { x with rquota := x.rquota.set 1024 k n })) ∧
    (k < 8 → j < 3 → (∀ i, i < 64 → v.getLsbD i = true → (s.core (192 * k + 64 * j + i)).preload = none ∧ ∀ b, ((s.core (192 * k + 64 * j + i)).banks.get {} b).st ≠ .parked) →
      Becomes (.coreoffWrite k j v) s (fun t => FacetBecomes s t k (fun x => { x with coreoff := x.coreoff.set 0 j v })))

/-- R403, R404, R409: while the core is frozen, the window reads a register of it into DBGDATA and writes DBGDATA there; a core that is not frozen, an index out of range, or a secure-world context while DBGAUTH is locked
sets ERR and changes nothing else. -/
def Sys2Proof.Claim.DebugWindowReachesFrozenCores : Prop :=
  ∀ (s : State), s.hub.dbgSpace = 0 →
    let c := s.hub.dbgtgt.toNat % 2 ^ 11
    let r := s.hub.dbgidx.toNat % 2 ^ 8
    let u := s.hub.dbgidx.toNat / 2 ^ 8 % 4
    let open_ : Prop := s.hub.authLock = false ∨ (∃ t, (s.core c).task = some t ∧ (s.ctx (s.task t).ctx).ns = true) ∨ ((s.core c).task = none ∧ (s.core c).preload = none)
    let inside : Prop := (c < 1536 ∧ r < 52) ∨ (1536 ≤ c ∧ c < 1680 ∧ r < 16 ∧ u = 0)
    let failed (i : Instr) : Prop := Becomes i s (fun t => HubBecomes s t (fun h => { h with dbgErr := true }))
    (inside → (s.core c).frozen = true → open_ →
      Becomes .dbgRead s (fun t => HubBecomes s t (fun h => { h with dbgdata0 := if r < 48 then ((s.core c).quad u).gr r else ((s.core c).quad u).br (r - 48), dbgdata1 := 0 })) ∧
      Becomes .dbgWrite s (fun t => CoreBecomes s t c (fun k => k.setQuad u (if r < 48 then (k.quad u).setG r s.hub.dbgdata0 else (k.quad u).setB (r - 48) s.hub.dbgdata0)))) ∧
    ((¬ inside ∨ (s.core c).frozen = false ∨ (s.hub.authLock = true ∧ ∃ t, (s.core c).task = some t ∧ (s.ctx (s.task t).ctx).ns = false)) → failed .dbgRead ∧ failed .dbgWrite)

/-- R404, R405: a freeze stops a core in the cycle it begins, a thaw or the end of a correctable error's 24 cycles moves every cycle count of its quadrants on by the cycles that it stood, and a core under both freezes goes on when
both have ended. A correction of DRAM is counted and stops nothing. An error that cannot be corrected in state that no context owns is an event alone. Model choices: log entry 80. -/
def Sys2Proof.Claim.FreezesKeepCycleRelations : Prop :=
  ∀ (s : State) (c : Nat),
    let k := s.core c
    let moved (t : State) (rest : Nat) : Prop := ∀ u, u < 4 → (k.quad u).idle = false →
      let d := s.cycle - k.stopAt
      ((t.core c).quad u).cyc = (k.quad u).cyc + d ∧ ((t.core c).quad u).pend = (k.quad u).pend.map (fun p => { p with land := p.land + d }) ∧ ((t.core c).quad u).g = (k.quad u).g ∧
        ((t.core c).quad u).doneAt = (k.quad u).doneAt + rest
    (c < 1680 → s.hub.dbgtgt.toNat % 2 ^ 11 = c →
      (k.frozen = false → Becomes .dbgFreeze s (fun t => CoreBecomes s t c (fun x => { x with stopAt := if x.eccFreeze = 0 then s.cycle else x.stopAt, frozen := true, dbgAt := s.cycle }))) ∧
      (k.frozen = true → k.eccFreeze ≠ 0 → Becomes .dbgThaw s (fun t => OnlyCore c s t ∧ (t.core c).frozen = false ∧ (t.core c).eccFreeze = k.eccFreeze ∧ ∀ u, u < 4 → ((t.core c).quad u).cyc = (k.quad u).cyc)) ∧
      (k.frozen = true → k.eccFreeze = 0 → Becomes .dbgThaw s (fun t => (t.core c).frozen = false ∧ (t.core c).stopAt = 0 ∧ moved t (s.cycle - k.dbgAt) ∧ ∀ x, x ≠ c → t.core x = s.core x))) ∧
    (c < 1680 → Becomes (.eccCorrected c) s (fun t => CoreBecomes s t c (fun x => { x with
      stopAt := if x.frozen = true ∨ x.eccFreeze ≠ 0 then x.stopAt else s.cycle, ecccnt := min 0xFFFFFFFF (x.ecccnt + 1)
      eccFreeze := (if x.eccFreeze = 0 then s.cycle else x.eccFreeze) + 24 }))) ∧
    (∀ f, f < 8 → Becomes (.eccCorrected (2048 + f)) s (fun t => FacetBecomes s t f (fun x => { x with deccnt := min 0xFFFFFFFF (x.deccnt + 1) }))) ∧
    (k.eccFreeze ≠ 0 → k.eccFreeze ≤ s.cycle →
      (k.frozen = true → Becomes (.freezeEnd c) s (fun t => CoreBecomes s t c (fun x => { x with eccFreeze := 0 }))) ∧
      (k.frozen = false → Becomes (.freezeEnd c) s (fun t => (t.core c).eccFreeze = 0 ∧ (t.core c).stopAt = 0 ∧ moved t 0 ∧ ∀ x, x ≠ c → t.core x = s.core x))) ∧
    (c < 1680 → k.task = none → k.preload = none → Becomes (.eccUncorrectable c true) s (fun t => t = { s with events := s.events ++ [.eccFree c] })) ∧
    (∀ b, c < 1536 → b < 8 → (k.banks.get {} b).st = .free → Becomes (.eccUncorrectable (16384 + 8 * c + b) true) s (fun t => t = { s with events := s.events ++ [.eccFree c] })) ∧
    (c < 1680 → Becomes (.eccUncorrectable c false) s (fun t => t = { s with events := s.events ++ [.eccFree c] }))

/-- R16, R411, R412, R415: power-off and a thermal shutdown lose all state; power-on starts a package at reset, whose supervisor cores run where the boot image is found, its signature, by a key that the ROM holds the
hash of, verifies over its hashes, and the PUF answers; GO asks for a verification, a signature in DBGSIG that verifies over the challenge unlocks the debug window once for it, and LOCK locks it; a clock step moves a facet
between 20 steps, one of them in 1 µs, and up only where no facet that takes headroom first is behind. What the boot finds, the keys and the check of a signature are free values. Model choices: log entries 6, 7, 9, 10, 24, 81, 127. -/
def Obligations.PowerAuthenticationAndClocks : Prop :=
  ∀ (s : State) (f : Nat),
    let dark (t : State) : Prop := t = { State.reset with powered := false, pkg := s.pkg, cycle := s.cycle, time := s.time, draws := s.draws, tokens := s.tokens }
    Becomes .powerOff s dark ∧ Becomes .thermalShutdown s dark ∧
    (s.powered = false ∨ s.hub.booted = false → Becomes .powerOn s (fun t =>
      let n := s.draws
      let hashes := sha3 (Config.firmware n) ++ sha3 (Config.configuration n)
      let signed : Prop := sha3 (Config.imageKey n) = Config.romKeyHash ∧ Config.signatureVerifies (Config.imageKey n) hashes (Config.imageSignature n) = true
      ({ t with hub := {}, draws := s.draws } : State) = { State.reset with pkg := s.pkg, cycle := s.cycle, time := s.time, draws := s.draws, tokens := s.tokens } ∧
      (t.hub.bootstat = 1 ↔ Config.imageFound n = false) ∧ (t.hub.bootstat = 2 ↔ Config.imageFound n = true ∧ ¬ signed) ∧
      (t.hub.bootstat = 3 ↔ Config.imageFound n = true ∧ signed ∧ Config.pufFails n = true) ∧ (t.hub.bootstat = 0 ↔ Config.imageFound n = true ∧ signed ∧ Config.pufFails n = false) ∧
      (t.hub.booted = true ↔ t.hub.bootstat = 0) ∧ (t.hub.booted = false → t.hub.featoff = 0 ∧ t.hub.config = []) ∧ (t.hub.booted = true → t.hub.config = Config.configuration n) ∧
      t.hub.authLock = true ∧ t.hub.authUsed = false ∧ (∀ k, k < 4 → t.hub.chal.get 0 k = Config.challenge (n + 1) k) ∧
      (t.hub.identity.isSome = true ↔ t.hub.bootstat = 0) ∧ t.hub.firmHash ++ t.hub.confHash = (if t.hub.bootstat = 1 then [] else hashes) ∧
      ({ t.hub with booted := false, bootstat := 0, featoff := 0, chal := Tab.empty, firmHash := [], confHash := [], config := [], identity := none } : Hub) = {})) ∧
    Becomes .dbgauthGo s (fun t => HubBecomes s t (fun h => { h with authRes := 3 })) ∧
    (let challenged (t : State) : Prop := t.draws = s.draws + 1 ∧ (∀ k, k < 4 → t.hub.chal.get 0 k = Config.challenge s.draws k) ∧ t.hub.authUsed = false ∧
        ({ t with hub := s.hub, draws := s.draws } : State) = s ∧
        ({ t.hub with authRes := s.hub.authRes, authLock := s.hub.authLock, authUsed := s.hub.authUsed, chal := s.hub.chal } : Hub) = s.hub
      let verifies : Prop := Config.signatureVerifies (Config.debugKey s.hub.config) ((List.range 4).flatMap (fun k => lowBytes (s.hub.chal.get 0 k).toNat 8))
        ((List.range 4627).map (fun k => s.hub.sig.get 0 k)) = true
      (s.hub.authRes = 3 → s.hub.authUsed = false → verifies →
        Becomes .dbgauthVerifyDone s (fun t => HubBecomes s t (fun h => { h with authLock := false, authRes := 1, authUsed := true }))) ∧
      (s.hub.authRes = 3 → s.hub.authUsed = true ∨ ¬ verifies →
        Becomes .dbgauthVerifyDone s (fun t => challenged t ∧ t.hub.authRes = 2 ∧ t.hub.authLock = s.hub.authLock)) ∧
      (s.hub.authRes ≠ 3 → Becomes .dbgauthVerifyDone s (fun t => t = s)) ∧
      Becomes .dbgauthLock s (fun t => challenged t ∧ t.hub.authLock = true ∧ t.hub.authRes = if s.hub.authRes = 3 then 0 else s.hub.authRes)) ∧
    (let ready := (s.facet f).clockAt ≤ s.time;
      (∀ g, (∃ c ∈ s.ctxs.cells, c.2.arrivals ≠ []) → (∀ c ∈ s.ctxs.cells, ∀ x ∈ c.2.arrivals, x = g) → f ≠ g → (s.facet g).clockDown ≠ 0 → (s.facet g).clockAt ≤ s.time →
        Becomes (.clockStep f true) s (fun t => t = s)) ∧
      (ready → (∀ c ∈ s.ctxs.cells, c.2.arrivals = []) → Becomes (.clockStep f true) s (fun t => FacetBecomes s t f (fun x => { x with clockDown := x.clockDown - 1, clockAt := s.time + 1000, skippedTo := max x.skippedTo (s.cycle + 1) }))) ∧
      (ready → Becomes (.clockStep f false) s (fun t => FacetBecomes s t f (fun x => { x with clockDown := min 20 (x.clockDown + 1), clockAt := s.time + 1000, skippedTo := max x.skippedTo (s.cycle + 1) }))) ∧
      (¬ ready → ∀ up, Becomes (.clockStep f up) s (fun t => t = s)))

/-- A register write leaves the field values its table allows; configuration writes are checked. Model choices: log entries 77, 78. -/
def Obligations.RegisterWritesAreCheckedAndKept : Prop :=
  Sys2Proof.Claim.RegistersTakeTheirFields ∧ Sys2Proof.Claim.ConfigurationWritesAreChecked

/-- The debug window reads and writes frozen cores; freezes and ECC stops keep cycle relations. Model choices: log entries 79, 80, 84. -/
def Obligations.DebugWindowAndFreezes : Prop :=
  Sys2Proof.Claim.DebugWindowReachesFrozenCores ∧ Sys2Proof.Claim.FreezesKeepCycleRelations

namespace Sys2Proof.Claim

/-- The requests that wait at a facet are tried at once, but for those that wait for a walk or a watched value. -/
def woken (now : Nat) (l : List Incoming) : List Incoming := l.map (fun e => if e.nextAt = never then e else { e with nextAt := min e.nextAt now })

/-- An access of `n` bytes from `off` at the home of facet `f` is granted within one 64 KiB span by a cached translation, and leads to the bytes from `key` on (R121, R122). -/
def GrantedAt (s : State) (f asid off n : Nat) (ns : Bool) (need : Need) (key : Nat) : Prop :=
  f < 8 ∧ 0 < n ∧ off < 2 ^ 54 ∧ off % 65536 + n ≤ 65536 ∧ key < 2 ^ 52 ∧ key % 2 ^ 48 < stackBytes ∧ key % 65536 = off % 65536 ∧
    (∀ e ∈ (s.facet f).tlb, 16 ≤ e.shift) ∧ ∃ e, s.tlbFind f asid off = some e ∧ s.checkLeaf f off e.entry e.shift ns need = .at key

/-- A request of another package stands alone and due at its home, in a flow of which the home has all earlier packets, performed; the home's answers find room in their send queue (R371). -/
structure AtHome (s : State) (f : Nat) (x : Incoming) (w : Window) : Prop where
  facet : f < 8 ∧ x.packet.home = f ∧ s.pkg < 64
  alone : (s.facet f).reqQ = [x]
  due : x.nextAt ≤ s.cycle
  window : s.windowOf (flowKey x.packet) = some w ∧ w.epoch = x.packet.epoch ∧ w.next = x.packet.fseq ∧ w.applied = [] ∧ w.failed = [] ∧ x.packet.fseq < 2 ^ 32 - 1
  room : (s.fabric.sendq.get [] x.packet.spkg).length + 3 ≤ 4096 ∧ s.fabric.backlog.get [] x.packet.spkg = []

/-- A packet is whole, and the one that the receiver of its circuit awaits (R375). -/
def NextOnItsCircuit (s : State) (p : Packet) : Prop := p.damaged = false ∧ p.lseq = s.fabric.expect.get 0 (p.spkg * 2 ^ 16 + p.via)

/-- The access of the request is granted, and no link, window or migration lies on it (R132, R260, R262). -/
def RequestGranted (s : State) (p : Packet) (n : Nat) (need : Need) (key : Nat) : Prop :=
  GrantedAt s p.home p.asid p.offset n p.ns need key ∧ s.isMoving p.home p.asid p.offset = false ∧ s.linkOver p.home p.asid p.offset n p.ns = none ∧ s.slotAt p.home p.asid p.offset p.ns = none

/-- The request has left its home: its flow is acknowledged up to it and its reservation unit goes back with the quota of its package (R373, R374, R376). -/
def Answered (s t : State) (f : Nat) (p : Packet) : Prop :=
  (t.facet f).reqQ = [] ∧
  (∃ w', t.windowOf (flowKey p) = some w' ∧ w'.next = p.fseq + 1 ∧ w'.applied = []) ∧
  (∃ a ∈ t.fabric.sendq.get [] p.spkg, a.ty = 14 ∧ a.fseq = p.fseq ∧ a.dpkg = p.spkg ∧ a.epoch = p.epoch) ∧
  (∃ r ∈ t.fabric.sendq.get [] p.spkg, r.ty = 13 ∧ r.dpkg = p.spkg ∧ r.payload = lowBytes 1 2 ++ lowBytes (s.hub.rquota.get 1024 p.spkg) 2)

end Sys2Proof.Claim
open Sys2Proof Sys2Proof.Machine Sys2Proof.Claim

/-- R121, R408: a walk that ends puts its leaf entry, valid and present, into a set of the slice of its facet's TLB that has a way free; TLBINV drops the entry that holds a page, those of an ASID, or all. Model choices: log entries 5, 52. -/
def Obligations.TranslationsAreCachedAndDropped : Prop :=
  ∀ (s : State) (f : Nat) (asid : BitVec 16) (vpn : BitVec 38),
    (∀ page w rest root e sh, (s.facet f).walks = w :: rest → w.asid = asid.toNat → w.page = page → w.doneAt ≤ s.cycle → s.tlbFind f asid.toNat (page * 65536) = none →
      s.rootOf f asid.toNat = some root → s.walk root (page * 65536) = some (e, sh) → e.getLsbD 7 = false →
      let slice := if f < 8 then (page * 65536 / 2 ^ 21 % 4) ^^^ (asid.toNat % 4) else 0
      let new : TlbEntry := { asid := asid.toNat, page := page * 65536 / 2 ^ sh, shift := sh, entry := e, slice := slice };
      ((s.facet f).tlb.filter new.sameSet).length < 8 →
      Becomes (.tlbWalk f) s (fun t => FacetBecomes s t f (fun x => { x with walks := rest.filter (fun y => decide (y ≠ w)), tlb := new :: x.tlb }))) ∧
    (let drops (i : Instr) (p : TlbEntry → Prop) : Prop := Becomes i s (fun t =>
        (∀ e, e ∈ (t.facet f).tlb ↔ e ∈ (s.facet f).tlb ∧ ¬ p e) ∧ FacetBecomes s t f (fun x => { x with tlb := (t.facet f).tlb }));
      drops (.tlbinvPage f asid vpn) (fun e => e.asid = asid.toNat ∧ vpn.toNat * 65536 / 2 ^ e.shift = e.page) ∧
      drops (.tlbinvAsid f asid) (fun e => e.asid = asid.toNat) ∧
      drops (.tlbinvAll f) (fun _ => True))

/-- R125, R131, R132: a page that is ready loses PL, is zero where PLS = 0, and the suspended tasks that wait for it are restorable; a migration copies the page's bytes to its new frame, and the page is then found there. MIGCLR
clears a region's flag and counters, and NQHEAD is not put beyond TAIL. Model choices: log entries 52, 90, 92. -/
def Obligations.PagesComeAndMove : Prop :=
  ∀ (s : State) (f : Nat) (asid : BitVec 16) (off : BitVec 54) (g : Nat) (frame : BitVec 48) (v : Word),
    (∀ root e sh, s.rootOf f asid.toNat = some root → s.walk root off.toNat = some (e, sh) →
      (e.getLsbD 7 = true → s.tasks.wf {} = true → Becomes (.pageReady f asid off) s (fun t =>
        let leaf := s.leafAt root off.toNat sh
        let frame := entryKey e
        let zero (k : Nat) : Prop := (e.toNat / 2 ^ 8 % 4 = 0) ∧ frame ≤ k ∧ k < frame + 2 ^ sh
        (∀ k, (leaf ≤ k ∧ k < leaf + 8 → t.byteAt k = BitVec.ofNat 8 ((e &&& ~~~(0x80 : Word)).toNat / 2 ^ (8 * (k - leaf)))) ∧
          (¬ (leaf ≤ k ∧ k < leaf + 8) → (zero k → t.byteAt k = 0) ∧ (¬ zero k → t.byteAt k = s.byteAt k))) ∧
        (t.facet f).reqQ = woken s.cycle (s.facet f).reqQ ∧
        (∀ n o, (s.task n).st = .suspended → (s.task n).waitFor = .page f asid.toNat o → o / 2 ^ sh = off.toNat / 2 ^ sh → (t.task n).st = .restorable) ∧
        (∀ n, (s.task n).st ≠ .suspended → (t.task n).st = (s.task n).st))) ∧
      ((s.facet f).moving = none → e.getLsbD 7 = false → g < 8 → frame.toNat % 2 ^ sh = 0 → Becomes (.migrate f asid off g frame) s (fun t => FacetBecomes s t f (fun x => { x with
        moving := some { asid := asid.toNat, page := off.toNat / 2 ^ sh, shift := sh, ffac := g, frame := frame.toNat, doneAt := s.cycle + 2 ^ sh / 128 } })))) ∧
    (∀ m e, (s.facet f).moving = some m → s.entryOf f m.asid (m.page * 2 ^ m.shift) = some e → Inv s → m.ffac < 8 → m.frame < 2 ^ 48 → Becomes (.migrationComplete f) s (fun t =>
      let src := entryKey e
      let dst := stackKey m.ffac m.frame
      (∀ k, t.byteAt k = if dst ≤ k ∧ k < dst + 2 ^ m.shift then s.byteAt (k - dst + src) else s.byteAt k) ∧
      (t.facet f).moving = none ∧ (t.facet f).reqQ = woken s.cycle (s.facet f).reqQ ∧
      ∃ y, t.tlbFind f m.asid (m.page * 2 ^ m.shift) = some y ∧ y.entry = (e &&& 0xFFF0000000000FFF) ||| BitVec.ofNat 64 (m.frame / 2 ^ 12 * 2 ^ 12 + m.ffac * 2 ^ 48) ∧ y.shift = m.shift)) ∧
    Becomes (.migclr f v) s (fun t =>
      let region := v.toNat / 2 ^ 21 % 2 ^ 27
      (region * 2 ^ 21 < stackBytes → ({ t with facets := s.facets } : State) = s ∧ (∀ h, h ≠ f → t.facet h = s.facet h) ∧
        ({ t.facet f with queued := (s.facet f).queued, counters := (s.facet f).counters } : Facet) = s.facet f ∧
        (∀ k, (t.facet f).queued.get false k = if k = region then false else (s.facet f).queued.get false k) ∧
        ∀ k, (t.facet f).counters.get 0 k = if k / 10 = region then 0 else (s.facet f).counters.get 0 k) ∧
      (stackBytes ≤ region * 2 ^ 21 → t = s)) ∧
    Becomes (.nqheadWrite f v) s (fun t =>
      let h := v.toNat % 2 ^ 32
      if ((s.facet f).nqtail + 2 ^ 32 - h) % 2 ^ 32 ≤ 1024 then FacetBecomes s t f (fun x => { x with nqhead := h }) else t = s)

/-- R121, R122, R264, R372, R373, R376, R382, R384, R405: a load or a fetch of another package is answered with the bytes of memory; a store of another package is written, and no other byte, and its batch tag counts its bytes; a store that a link has
stalled past its STALLMAX is discarded and reported in its batch, with error class 3, and one that meets an error of the memory which cannot be corrected with class 4. Each is acknowledged, and its unit goes back. Model choices: log entries 32, 54, 80, 89. -/
def Obligations.RequestsAreServedAtTheirHome : Prop :=
  ∀ (s : State) (f : Nat) (x : Incoming) (w : Window) (key : Nat), AtHome s f x w →
    let p := x.packet
    (p.ty = 4 → p.token ≠ 0 → p.aux < 256 → RequestGranted s p (p.aux + 1) (if p.btag = 1 then .fetch else .load) key → Becomes (.homeRequest f) s (fun t =>
      MemorySame s t ∧ Answered s t f p ∧ t.cores = s.cores ∧
      ∃ r ∈ t.fabric.sendq.get [] p.spkg, r.ty = 5 ∧ r.aux = 0 ∧ r.payload = memBytes s key (p.aux + 1) ∧ r.token = p.token ∧ r.fseq = p.fseq ∧ r.sunit = p.sunit ∧ r.dpkg = p.spkg)) ∧
    (p.ty = 1 → RequestGranted s p p.payload.length .store key → Becomes (.homeRequest f) s (fun t =>
      MemoryWrites s t key p.payload ∧ Answered s t f p ∧ t.cores = s.cores ∧
      ∀ w', t.windowOf (flowKey p) = some w' → w'.done.get 0 p.btag = w.done.get 0 p.btag + p.payload.length ∧ w'.err = w.err)) ∧
    (p.ty = 1 → p.stallmax ≠ 0 → (∃ t0, x.since = some t0 ∧ t0 + p.stallmax < s.cycle) → Becomes (.stallTimeout f) s (fun t =>
      MemorySame s t ∧ Answered s t f p ∧ t.cores = s.cores ∧
      ∀ w', t.windowOf (flowKey p) = some w' → w'.done = w.done ∧ w'.err.get 0 p.btag = (w.err.get 0 p.btag ||| 8))) ∧
    (p.ty = 1 → Becomes (.eccUncorrectable (2048 + f) true) s (fun t =>
      MemorySame s t ∧ Answered s t f p ∧ t.cores = s.cores ∧
      ∀ w', t.windowOf (flowKey p) = some w' → w'.done = w.done ∧ w'.err.get 0 p.btag = (w.err.get 0 p.btag ||| 16)))

/-- R262, R265, R266: a link whose lease has run out is not valid any more, a release frees it, and what they held at the home goes on; a facet renews the links of its LIVE slots; data of a pulled tile fill the slot and set the
tile's bit, the last one making the slot DONE, and a refusal severs the slot with its reason. Model choices: log entries 33, 69. -/
def Obligations.LinksLeasesAndPulls : Prop :=
  ∀ (s : State) (f l : Nat),
    ((((s.facet f).links.get {} l).v = true ∧ ((s.facet f).links.get {} l).renewed + 8000000 ≤ s.time) → Becomes (.linkExpiry f l) s (fun t => FacetBecomes s t f (fun x => { x with
      links := x.links.set {} l { x.links.get {} l with v := false }, reqQ := woken s.cycle x.reqQ }))) ∧
    ((((s.facet f).links.get {} l).v = false ∨ s.time < ((s.facet f).links.get {} l).renewed + 8000000) → Becomes (.linkExpiry f l) s (fun t => t = s)) ∧
    Becomes (.linkRelease f l) s (fun t => FacetBecomes s t f (fun x => { x with links := x.links.set {} l {}, reqQ := woken s.cycle x.reqQ })) ∧
    (let due (k : Nat) : Prop := (s.slot f k).st = .live ∧ (s.slot f k).renewAt ≤ s.time
      let link (u : State) (k : Nat) : Link := (u.facet (homeOf (s.slot f k).obase)).links.get {} (s.slot f k).link
      (s.facet f).slots.wf {} = true → (∀ k, due k → pkgOf (s.slot f k).obase = s.pkg ∧ (link s k).v = true ∧ (link s k).rslot = (s.slot f k).addr) →
      Becomes (.leaseRenewal f) s (fun t => ({ t with facets := s.facets } : State) = s ∧
        ∀ k, (due k → t.slot f k = { s.slot f k with renewAt := s.time + 1000000 } ∧ link t k = { link s k with renewed := s.time }) ∧ (¬ due k → t.slot f k = s.slot f k))) ∧
    (∀ p rest, s.fabric.arrivals = p :: rest → (∀ q ∈ rest, p.dueIn ≤ q.dueIn) → p.ty = 9 → NextOnItsCircuit s p → p.token % 8 = f →
      let tile := p.token / 8 % 2 ^ 14
      let k := p.token / 2 ^ 17
      let x := s.slot f k
      x.st = .live → pkgOf x.obase = p.spkg → x.asked / 2 ^ tile % 2 = 1 → x.bitmap / 2 ^ tile % 2 = 0 →
      (p.aux ≠ 0 → Becomes (.pullDataArrival f) s (fun t => t.slot f k = { x with st := .severed, reason := p.aux } ∧ t.fabric.arrivals = rest)) ∧
      (∀ at_ data key, p.aux = 0 → p.payload = lowBytes data.length 4 ++ lowBytes at_ 8 ++ data → 0 < data.length → at_ < 2 ^ 54 → (∀ y ∈ x.parts, y.1 ≠ tile) → pkgOf x.obase ≠ s.pkg →
        GrantedAt s f x.asid (offOf x.addr) (4096 + at_ + data.length) x.ns .store key → key % 2 ^ 48 + 4096 + at_ + data.length ≤ stackBytes →
        Becomes (.pullDataArrival f) s (fun t => t.fabric.arrivals = rest ∧
          (t.slot f k).bitmap = x.bitmap ||| 2 ^ tile ∧ (t.slot f k).pulled = x.pulled + 1 ∧ (t.slot f k).st = (if x.ntm1 + 1 ≤ x.pulled + 1 then .done else .live) ∧
          ∀ i, i < data.length → t.byteAt (key + 4096 + at_ + i) = data.getD i 0)))

namespace Sys2Proof.Claim

/-! ### Slot tables -/

/-- `n` bytes of an image from byte `i` on, as a number. -/
def imageAt (b : List (BitVec 8)) (i n : Nat) : Nat := ((List.range n).map (fun j => (b.getD (i + j) 0).toNat * 2 ^ (8 * j))).sum

def imageSlots (b : List (BitVec 8)) : Nat := imageAt b 0 4 % 128
def imageSlot (b : List (BitVec 8)) (k : Nat) : Nat := imageAt b (0x40 + 8 * k) 8
def imageFibre (b : List (BitVec 8)) (k f : Nat) : Nat := imageAt b (0x1000 + 16 * (128 * k + f)) 16

/-- The eight channel bytes of a direction: valid ones name distinct channels other than 0, the others are zero. -/
def ChannelsLegal (v : Nat) : Prop :=
  ∀ i, i < 8 → let x := v / 2 ^ (8 * i) % 256
    (x = 0 ∨ (128 < x ∧ x < 192)) ∧ ∀ j, j < i → x ≠ 0 → v / 2 ^ (8 * j) % 256 ≠ x

/-- Locally legal (R363). -/
def TableLegal (b : List (BitVec 8)) : Prop :=
  imageAt b 0 4 < 128 ∧ 1 ≤ imageSlots b ∧ imageSlots b ≤ 64 ∧
  (∀ k, k < imageSlots b → ∃ len guard, imageSlot b k = guard * 2 ^ 16 + len ∧ 1 ≤ len ∧ len ≤ 1000 ∧ 120 ≤ guard ∧ guard ≤ 1000) ∧
  (∀ k, imageSlots b ≤ k → k < 64 → imageSlot b k = 0 ∧ ∀ f, f < 128 → imageFibre b k f = 0) ∧
  (∀ k f, k < imageSlots b → f < 128 → ChannelsLegal (imageFibre b k f % 2 ^ 64) ∧ ChannelsLegal (imageFibre b k f / 2 ^ 64))

/-- The table of an image (R362). -/
def TableOf (t : SlotTab) (b : List (BitVec 8)) : Prop :=
  t.epoch = imageAt b 4 4 ∧ t.nslot = imageSlots b ∧
  (∀ k, k < 64 → (t.hdr.get {} k).len = imageSlot b k % 2 ^ 10 ∧ (t.hdr.get {} k).guard = imageSlot b k / 2 ^ 16 % 2 ^ 10) ∧
  ∀ k f, k < 64 → f < 128 → (t.fibres.get 0 (128 * k + f)).toNat = imageFibre b k f

/-- The first start of a rotation of the active table at or after TIME `at_`; with no active table `at_` itself; and not before now. -/
def ActivatesAt (s : State) (at_ n : Nat) : Prop :=
  match s.fabric.active with
  | none => n = max at_ s.time
  | some t => let r := ((List.range t.nslot).map (fun k => 1000 * (t.hdr.get {} k).len)).sum
    0 < r → t.start ≤ max at_ s.time → ∃ m, n = t.start + m * r ∧ max at_ s.time ≤ n ∧ n < max at_ s.time + r

/-- The load of an image `b` asked for TIME `at_`: a status, and the shadow table where it is accepted (R366). -/
def Loaded (s t : State) (b : List (BitVec 8)) (at_ st : Nat) : Prop :=
  (s.fabric.shadow.isSome = true → st = 2 ∧ t.fabric = s.fabric) ∧
  (s.fabric.shadow = none → TableLegal b → st = 0 ∧ ({ t.fabric with shadow := none } : Fabric) = s.fabric ∧ ∃ x n, t.fabric.shadow = some (x, n) ∧ TableOf x b ∧ ActivatesAt s at_ n) ∧
  (s.fabric.shadow = none → ¬ TableLegal b → st % 2 ^ 32 = 1 ∧ t.fabric = s.fabric)

/-! ### Circuits -/

/-- A packet that goes to the unit its header names, not to a home. -/
def GoesBack (p : Packet) : Prop := p.ty = 5 ∨ p.ty = 9 ∨ p.ty = 11 ∨ p.ty = 13 ∨ p.ty = 14

/-- The send queue of package `dst` has room for `n` packets, and none waits before it. -/
def RoomFor (s : State) (dst n : Nat) : Prop := (s.fabric.sendq.get [] dst).length + n ≤ 4096 ∧ s.fabric.backlog.get [] dst = []

/-- Nothing waits for the send queue of package `dst`, nor a home's request for any. -/
def NothingWaitsFor (s : State) (dst : Nat) : Prop := s.fabric.backlog.get [] dst = [] ∧ s.fabric.deferred = []

/-- Circuit `c` alone lists package `dst` in the slot of now, whose guard is over, with `left` ns of its data period to come (R360, R365). -/
structure Serving (s : State) (dst c left : Nat) (t : SlotTab) (k : Nat) : Prop where
  active : s.fabric.active = some t ∧ t.start ≤ s.time ∧ k < t.nslot ∧ t.nslot ≤ 64
  slot : ∃ m, s.time = t.start + m * t.rotation + t.begins k + ((t.hdr.get {} k).len * 1000 - left) ∧ (t.hdr.get {} k).guard + left ≤ (t.hdr.get {} k).len * 1000 ∧ 0 < left
  lens : ∀ j, j < t.nslot → 0 < (t.hdr.get {} j).len
  circuit : t.circuitsTo s.pkg dst k = [c]
  lit : (s.circuit c).dark = false

end Sys2Proof.Claim
open Sys2Proof Sys2Proof.Machine Sys2Proof.Claim

/-- R362, R363, R366: SLOTW, once no store, acquire, MARK or FENCE of the quadrant waits before it, and the load through FABIMG read an image of 135,168 bytes, check it, and answer with a status; a legal one becomes the shadow table, to be active at the first rotation boundary at or after its TIME. At that
TIME it starts slot 0, and FABSTAT shows its EPOCH. -/
def Sys2Proof.Claim.SlotTablesLoadAndActivate : Prop :=
  ∀ (s : State) (d x y : BitVec 6),
    (∀ u b, Free s (useOf [x, y] d 4) 7 → let q := s.me.begin (useOf [x, y] d 4) 7
      let s1 := s.updMe (fun q => q.begin (useOf [x, y] d 4) 7)
      s1.portRead { ask := q.ask, answer := q.answer, got := q.got } s1.agent 4 0 (q.src x) 135168 = (u, {}, .ok b) → b.length = 135168 → u.me = q → u.cur = s.cur →
      (∀ e ∈ s.me.memQ, inStores e.op = false ∧ e.firstOf = false) → (pkgOf (q.src x) = s.pkg ∨ NothingPosted s) →
      Becomes (.slotw d x y) s (fun t => ∃ st w, Loaded u t b (q.src y).toNat st ∧ st < 2 ^ 64 ∧ ({ t with fabric := u.fabric, cores := u.cores } : State) = u ∧ (∀ c, c ≠ s.cur.core → t.core c = u.core c) ∧
        t.me = w.retire 1059 ∧ WritesG { q with ask := none, answer := none, got := [] } w d.toNat (BitVec.ofNat 64 st) ∧ RestOfRegs { q with ask := none, answer := none, got := [] } w)) ∧
    (∀ n u b, s.hub.fabAt = some n → (∀ p, (9 * 2 ^ 64, p) ∉ s.hub.fePorts) → s.portRead {} (hubAgent s) 4 0 s.hub.fabimg 135168 = (u, {}, .ok b) → b.length = 135168 → u.hub = s.hub →
      Becomes .fabimgLoadDone s (fun t => ∃ st, Loaded u t b s.hub.fabact.toNat st ∧ ({ t with fabric := u.fabric, hub := u.hub } : State) = u ∧
        t.hub = { s.hub with fabAt := none, fabstat := BitVec.ofNat 64 st })) ∧
    (∀ tab at_, s.fabric.shadow = some (tab, at_) → at_ ≤ s.time → Becomes .tableActivate s (fun t =>
      t.fabric.active = some { tab with start := at_ } ∧ t.fabric.shadow = none ∧ t.fabric.slotAt = at_ ∧ ({ t.fabric with active := s.fabric.active, shadow := s.fabric.shadow, slotAt := s.fabric.slotAt, served := s.fabric.served } : Fabric) = s.fabric ∧
      ({ t with fabric := s.fabric, hub := s.hub } : State) = s ∧ t.hub = { s.hub with fabstat := BitVec.ofNat 64 (tab.epoch * 2 ^ 32) }))

/-- R360, R364, R365, R366, R367, R370, R371, R373, R374, R375: a slot begins when the slot before it ends, and a circuit without return light is a MISMATCH; of a package's send queue the first acknowledgement, reservation return or reply that is at the circuit's port (R458, R434), and with
none of them the first request once it is there, leaves on a free circuit of the slot's data period that has a buffer and time for it, takes the circuit's next LSEQ and is kept until it is acknowledged; a packet to be replayed goes first. Buffers, units and quotas come back as the far end says. -/
def Sys2Proof.Claim.CircuitsSendInTheirSlots : Prop :=
  ∀ (s : State) (dst c left k : Nat) (tab : SlotTab),
    (Serving s dst c left tab k → dst < 64 →
      let x := s.circuit c
      let ns (p : Packet) : Nat := (32 + p.payload.length + 7) / 8
      let first (p : Packet) : Prop := GoesBack p ∨ p.ty = 15
      let there (p : Packet) : Prop := p.at_ + p.legOut c ≤ s.cycle
      (∀ a p b, s.fabric.sendq.get [] dst = a ++ p :: b → NothingWaitsFor s dst → p.dpkg = dst → x.replay = [] → x.freeAt ≤ s.time → 0 < x.credits → x.kept.length < 64 → ns p ≤ left → p.ty ≠ 15 → there p →
        ((first p ∧ ∀ e ∈ a, ¬ (first e ∧ there e)) ∨ (¬ first p ∧ (∀ e ∈ a, first e) ∧ ∀ e ∈ a ++ b, ¬ (first e ∧ there e))) →
        Becomes (.packetSend dst) s (fun t => t.fabric.sendq.get [] dst = a ++ b ∧ (∀ e, e ≠ dst → t.fabric.sendq.get [] e = s.fabric.sendq.get [] e) ∧
          t.circuit c = { x with freeAt := s.time + ns p, lseq := (x.lseq + 1) % 256, kept := x.kept ++ [{ p with lseq := x.lseq, via := c }], credits := x.credits - 1 } ∧
          (∀ e, e ≠ c → t.circuit e = s.circuit e) ∧ ({ t with fabric := s.fabric } : State) = s ∧ t.fabric.units = s.fabric.units)) ∧
      (∀ p rest, x.replay = p :: rest → x.freeAt ≤ s.time → ns p ≤ left → Becomes (.packetSend dst) s (fun t =>
        t.circuit c = { x with replay := rest, freeAt := s.time + ns p } ∧ (∀ e, e ≠ c → t.circuit e = s.circuit e) ∧ ({ t with fabric := { t.fabric with circuits := s.fabric.circuits } } : State) = s)) ∧
      ((∀ p, (x.replay.head? = some p ∨ (x.replay = [] ∧ p ∈ s.fabric.sendq.get [] dst)) → left < ns p ∨ (x.replay = [] ∧ s.cycle < p.at_ + p.legOut c)) →
        Becomes (.packetSend dst) s (fun t => t = s))) ∧
    (s.fabric.active = some tab → s.fabric.slotAt ≤ s.time → let now := tab.slotNow s.fabric.slotAt
      Becomes .slotStart s (fun t => ({ t with fabric := { t.fabric with slotAt := s.fabric.slotAt }, events := s.events } : State) = s ∧
        t.fabric.slotAt = s.fabric.slotAt + 1000 * (tab.hdr.get {} now).len ∧ s.events <+: t.events ∧
        ∀ e, e ∈ t.events.drop s.events.length ↔ ∃ dst c, dst < 64 ∧ c ∈ tab.circuitsTo s.pkg dst now ∧ (s.circuit c).dark = true ∧ e = .mismatch dst)) ∧
    (∀ (fibre chan n : Nat) (l : BitVec 8), let x := s.circuit (64 * fibre + chan)
      let becomes (i : Instr) (y : Circuit) : Prop := Becomes i s (fun t => ({ t with fabric := { t.fabric with circuits := s.fabric.circuits } } : State) = s ∧
        t.circuit (64 * fibre + chan) = y ∧ ∀ e, e ≠ 64 * fibre + chan → t.circuit e = s.circuit e);
      becomes (.linkCreditReturn fibre chan n) { x with credits := min 64 (x.credits + n) } ∧
      (∀ a p b, x.kept = a ++ p :: b → p.lseq = l.toNat → (∀ e ∈ a, e.lseq ≠ l.toNat) → becomes (.linkReplayRequest fibre chan l) { x with replay := x.replay.filter (fun e => e ∉ p :: b) ++ p :: b })) ∧
    (∀ n quota, NothingWaitsFor s dst → Becomes (.reservationReturn dst n quota) s (fun t => ({ t with fabric := { t.fabric with units := s.fabric.units, quota := s.fabric.quota } } : State) = s ∧
      t.unitsUsed dst = s.unitsUsed dst - n ∧ (∀ e, e ≠ dst → t.unitsUsed e = s.unitsUsed e ∧ t.quotaAt e = s.quotaAt e) ∧
      t.quotaAt dst = if 64 ≤ quota ∧ quota ≤ 4096 then quota else s.quotaAt dst))

/-- Slot tables are checked, loaded and activated; packets leave on the circuits of their slot. Model choices: log entries 66, 67. -/
def Obligations.SlotTablesAndCircuits : Prop :=
  Sys2Proof.Claim.SlotTablesLoadAndActivate ∧ Sys2Proof.Claim.CircuitsSendInTheirSlots

namespace Sys2Proof.Claim

/-- A packet is the first of those that have come in at its home or unit (R458). -/
def ComesFirst (s : State) (p : Packet) (rest : List Packet) : Prop := s.fabric.arrivals = p :: rest ∧ ∀ q ∈ rest, p.dueIn ≤ q.dueIn

/-- It is undamaged, and it is the packet that its circuit expects next; the acknowledgement that goes back for it has room (R375, R371). -/
def Arrived (s : State) (p : Packet) (rest : List Packet) : Prop := ComesFirst s p rest ∧ NextOnItsCircuit s p ∧ RoomFor s p.spkg 2

/-- The packets that a step adds to the send queue of package `dst`. -/
def Sends (s t : State) (dst : Nat) (l : List Packet) : Prop :=
  t.fabric.sendq.get [] dst = s.fabric.sendq.get [] dst ++ l ∧ ∀ e, e ≠ dst → t.fabric.sendq.get [] e = s.fabric.sendq.get [] e

/-- Link control about LSEQ `n` of the circuit of packet `p` goes back, with the buffers that come back: 0 an acknowledgement, 1 a replay request (log entry 33). -/
def LinkAbout (p a : Packet) (aux n credits : Nat) : Prop := a.ty = 15 ∧ a.aux = aux ∧ a.dpkg = p.spkg ∧ a.payload = lowBytes p.via 2 ++ lowBytes n 1 ++ lowBytes credits 1
/-- Packet `p` itself is acknowledged on its circuit, and its buffer comes back. -/
def IsLink (p a : Packet) : Prop := LinkAbout p a 0 p.lseq 1

/-- The LSEQ that the circuit of a packet expects next moves on. -/
def MovesOn (s t : State) (p : Packet) : Prop :=
  ∀ k, t.fabric.expect.get 0 k = if k = p.spkg * 2 ^ 16 + p.via then (p.lseq + 1) % 256 else s.fabric.expect.get 0 k

/-- Only the fabric block and the named facet's request queue differ. -/
def BesidesFabric (s t : State) : Prop := ({ t with fabric := s.fabric } : State) = s

/-- A sequence number at or before another, modulo 2^32. -/
def upTo (x y : Nat) : Prop := (y + 2 ^ 32 - x) % 2 ^ 32 < 2 ^ 31

end Sys2Proof.Claim
open Sys2Proof Sys2Proof.Machine Sys2Proof.Claim

/-- R372, R374, R375, R377, R378: the next packet of a flow goes to its home and its window moves on; a packet that the window has seen is not performed again but acknowledged; a damaged packet asks its circuit for a replay from it on, and until that comes what
follows it is not taken; a packet that its circuit has taken already is only acknowledged again; a packet of a TYPE that is not defined is dropped and counted in FABDROP. -/
def Sys2Proof.Claim.PacketsAreReceivedOnce : Prop :=
  ∀ (s : State) (p : Packet) (rest : List Packet),
    (∀ w h, Arrived s p rest → p.ty = 1 ∨ p.ty = 2 ∨ p.ty = 3 ∨ p.ty = 4 ∨ p.ty = 6 ∨ p.ty = 7 ∨ p.ty = 8 ∨ p.ty = 12 → p.spkg < 64 → s.windowOf (flowKey p) = some w → w.epoch = p.epoch → w.high = some h →
      (p.fseq = h + 1 → p.fseq < 2 ^ 32 → upTo p.oldest w.next → upTo w.next p.fseq → Becomes .packetReceive s (fun t =>
        (∃ a, Sends s t p.spkg [a] ∧ IsLink p a) ∧ t.fabric.arrivals = rest ∧ MovesOn s t p ∧
        t.facet (min p.home 8) = { s.facet (min p.home 8) with reqQ := (s.facet (min p.home 8)).reqQ ++ [{ packet := p, nextAt := s.cycle }] } ∧ (∀ g, g ≠ min p.home 8 → t.facet g = s.facet g) ∧
        ({ t with fabric := s.fabric, facets := s.facets } : State) = s ∧
        ∃ w', t.windowOf (flowKey p) = some w' ∧ w'.high = some p.fseq ∧ p.fseq ∈ w'.seen ∧ (∀ q ∈ w'.seen, q = p.fseq ∨ q ∈ w.seen ∧ (p.fseq + 2 ^ 32 - q) % 2 ^ 32 ≤ 1023) ∧
          w'.next = w.next ∧ w'.applied = w.applied ∧ w'.done = w.done ∧ w'.err = w.err)) ∧
      (p.fseq ∈ w.seen → (h + 2 ^ 32 - p.fseq) % 2 ^ 32 ≤ 1023 → upTo p.oldest w.next → 0 < w.next → w.next < 2 ^ 32 → (p.sunit < 4 ∨ 12 < p.sunit ∨ w.failed = []) → Becomes .packetReceive s (fun t =>
        (∃ a e, Sends s t p.spkg [a, e] ∧ IsLink p a ∧ MovesOn s t p ∧ e.ty = 14 ∧ e.fseq = w.next - 1 ∧ e.dpkg = p.spkg) ∧ t.fabric.arrivals = rest ∧ BesidesFabric s t ∧ t.windowOf (flowKey p) = some w))) ∧
    (∀ want, ComesFirst s p rest → RoomFor s p.spkg 1 → p.ty ≠ 15 → want = s.fabric.expect.get 0 (p.spkg * 2 ^ 16 + p.via) → want < 256 → p.lseq < 256 →
      let lost (l : State → Prop) : Prop := Becomes .packetReceive s (fun t => l t ∧ t.fabric.arrivals = rest ∧ BesidesFabric s t ∧ t.fabric.windows = s.fabric.windows ∧ t.fabric.expect = s.fabric.expect);
      (p.damaged = true → p.lseq = want → lost (fun t => ∃ a, Sends s t p.spkg [a] ∧ LinkAbout p a 1 want 0)) ∧
      (p.damaged = false → (want + 256 - p.lseq) % 256 > 64 → lost (fun t => ∃ a, Sends s t p.spkg [a] ∧ LinkAbout p a 1 want 0)) ∧
      (p.damaged = false → p.lseq ≠ want → (want + 256 - p.lseq) % 256 ≤ 64 → lost (fun t => ∃ a, Sends s t p.spkg [a] ∧ LinkAbout p a 0 ((want + 255) % 256) 0))) ∧
    (Arrived s p rest → p.ty = 0 ∨ 16 ≤ p.ty → Becomes .packetReceive s (fun t =>
      (∃ a, Sends s t p.spkg [a] ∧ IsLink p a) ∧ MovesOn s t p ∧ t.fabric.arrivals = rest ∧ t.fabric.windows = s.fabric.windows ∧
      ({ t with fabric := s.fabric, hub := s.hub } : State) = s ∧ t.hub = { s.hub with fabdrop := min 0xFFFFFFFF (s.hub.fabdrop + 1) }))

/-- No unit waits for its flow to be acknowledged before its EPOCH advances (R378). -/
def Sys2Proof.Claim.NoEpochDue (s : State) : Prop := ∀ x ∈ s.cores.cells, x.2.epochDue = []

/-- R376, R379: an acknowledgement ends the wait for every packet of its flow and epoch up to its FSEQ; a packet whose timer runs out is sent again, and at its eighth expiry its package is unreachable for the flow: its packets are
discarded, those that answer another package apart, and a posted store is reported in its batch, with error class 5. -/
def Sys2Proof.Claim.UnacknowledgedPacketsAreSentAgain : Prop :=
  ∀ (s : State) (p : Packet) (rest : List Packet) (f : Flow) (key dst : Nat),
    (Arrived s p rest → p.ty = 14 → p.token = 0 → key = flowKey { p with spkg := s.pkg, dpkg := p.spkg } → s.flow key = f → (∀ u ∈ f.unacked, u.p.token = 0 ∧ u.p.fseq < 2 ^ 32) → p.fseq < 2 ^ 32 → NothingWaitsFor s p.spkg → NoEpochDue s →
      Becomes .e2eAcknowledgement s (fun t => (∃ a, Sends s t p.spkg [a] ∧ IsLink p a) ∧ MovesOn s t p ∧ t.fabric.arrivals = rest ∧ BesidesFabric s t ∧ (t.flow key).seq = f.seq ∧
        (∀ u, u ∈ (t.flow key).unacked ↔ u ∈ f.unacked ∧ ¬ (u.p.epoch = p.epoch ∧ upTo u.p.fseq p.fseq)) ∧ ∀ k, k ≠ key → t.flow k = s.flow k)) ∧
    (∀ u t0, s.fabric.flows = [(key, f)] → f.unacked = [u] → key % 64 = dst → flowKey u.p = key → u.p.dpkg = dst → u.sentAt = some t0 → t0 + 20000 ≤ s.servedNs dst → RoomFor s dst 1 → NothingWaitsFor s dst →
      (u.tries + 1 < 8 → Becomes (.e2eTimeout dst) s (fun t => Sends s t dst [{ u.p with at_ := s.cycle }] ∧ BesidesFabric s t ∧ t.flow key = { f with unacked := [{ u with tries := u.tries + 1, sentAt := none }] } ∧
        t.fabric.circuits = s.fabric.circuits ∧ t.fabric.units = s.fabric.units)) ∧
      (8 ≤ u.tries + 1 → u.p.ty = 1 → u.p.token = 0 → u.p.sfac < 8 → u.p.score < 192 → u.p.sunit < 4 → (s.core (192 * u.p.sfac + u.p.score)).epoch.get 0 u.p.sunit = u.p.epoch → NoEpochDue s →
        Becomes (.e2eTimeout dst) s (fun t =>
          let c := 192 * u.p.sfac + u.p.score
          let b := (s.quadOf c u.p.sunit).batches.get {} u.p.btag
          let stays (x : Packet) : Prop := GoesBack x ∨ flowKey x ≠ key
          t.flow key = { f with unacked := [] } ∧ (∀ x, x ∈ t.fabric.sendq.get [] dst ↔ x ∈ s.fabric.sendq.get [] dst ∧ stays x) ∧
          (∀ x, ∀ y, (y ∈ (t.circuit x).kept ↔ y ∈ (s.circuit x).kept ∧ stays y) ∧ (y ∈ (t.circuit x).replay ↔ y ∈ (s.circuit x).replay ∧ stays y)) ∧ t.unitsUsed dst = s.unitsUsed dst - 1 ∧
          ({ t with fabric := s.fabric, cores := s.cores } : State) = s ∧ (∀ x, x ≠ c → t.core x = s.core x) ∧
          t.core c = (s.core c).setQuad u.p.sunit { s.quadOf c u.p.sunit with batches := (s.quadOf c u.p.sunit).batches.set {} u.p.btag { b with err := b.err ||| 32, badPeers := b.badPeers ||| 2 ^ dst } })))

/-- R384: a peer that is asked for a batch's summary answers with its error map and the bytes applied, and clears them, once every store of the batch before the request has been applied; the source takes the answer into the batch,
which is CLOSED with the last of them. -/
def Sys2Proof.Claim.BatchSummaries : Prop :=
  ∀ (s : State) (p : Packet) (w : Window),
    (s.fabric.questions = [p] → RoomFor s p.spkg 1 → p.spkg < 64 → s.windowOf (flowKey p) = some w → w.epoch = p.epoch → w.next = p.fseq → w.applied = [] → p.fseq < 2 ^ 32 - 1 → (∀ f, f < 9 → (s.facet f).reqQ = []) →
      Becomes .summaryRequest s (fun t => BesidesFabric s t ∧ t.fabric.questions = [] ∧
        (∃ a ∈ t.fabric.sendq.get [] p.spkg, a.ty = 11 ∧ a.dpkg = p.spkg ∧ a.sunit = p.sunit ∧ a.btag = p.btag ∧ a.payload = lowBytes (w.err.get 0 p.btag) 2 ++ lowBytes (w.done.get 0 p.btag) 8) ∧
        ∃ w', t.windowOf (flowKey p) = some w' ∧ w'.next = p.fseq + 1 ∧ (∀ k, w'.err.get 0 k = if k = p.btag then 0 else w.err.get 0 k) ∧ (∀ k, w'.done.get 0 k = if k = p.btag then 0 else w.done.get 0 k))) ∧
    (∀ rest err n, Arrived s p rest → p.ty = 11 → p.payload = lowBytes err 2 ++ lowBytes n 8 → err < 2 ^ 16 → n < 2 ^ 20 → p.sfac < 8 → p.score < 192 → p.sunit < 4 →
      let c := 192 * p.sfac + p.score
      let b := (s.quadOf c p.sunit).batches.get {} p.btag
      (s.core c).epoch.get 0 p.sunit = p.epoch → b.st = .closing → p.spkg ∈ b.waiting → b.done + n ≤ 0xFFFFF → Becomes .summaryReply s (fun t =>
        let left := b.waiting.filter (fun k => k ≠ p.spkg)
        (∃ a, Sends s t p.spkg [a] ∧ IsLink p a) ∧ MovesOn s t p ∧ ({ t with fabric := s.fabric, cores := s.cores } : State) = s ∧ (∀ x, x ≠ c → t.core x = s.core x) ∧
        t.core c = (s.core c).setQuad p.sunit { s.quadOf c p.sunit with batches := (s.quadOf c p.sunit).batches.set {} p.btag { b with
          st := if left = [] then .closed else .closing, waiting := left, err := b.err ||| err, badPeers := if err = 0 then b.badPeers else b.badPeers ||| 2 ^ p.spkg, done := b.done + n } }))

/-- A packet takes effect once at its target and is acknowledged; one not acknowledged is sent again, up to its limit. Model choices: log entries 33, 35, 67, 68. -/
def Obligations.PacketsAreReceivedOnceOrSentAgain : Prop :=
  Sys2Proof.Claim.PacketsAreReceivedOnce ∧ Sys2Proof.Claim.UnacknowledgedPacketsAreSentAgain

/-- BOPEN, BSEL and BCLOSE move batches; summaries are asked for and answered. Model choices: log entries 33, 68. -/
def Obligations.BatchesOpenCloseAndReport : Prop :=
  Sys2Proof.Claim.BatchWordsOpenAndClose ∧ Sys2Proof.Claim.BatchSummaries

namespace Sys2Proof.Claim

/-- The units of a running task. -/
def unitsOf (x : Task) : List Nat := x.cores ++ x.walks

/-- Task `n` runs, is not being saved, and no matrix command of it is under way. -/
def TaskRuns (s : State) (n : Nat) : Prop := (s.task n).st = .running ∧ (s.task n).stage = 0 ∧ ∀ c ∈ unitsOf (s.task n), (s.core c).mrun = []

/-- The units of task `n` have stopped for a cause of R353; the save is yet to come (R354). A load whose value has not returned is back in its queue, and a gather goes on at the first of its lanes that
has not returned, except at a voluntary switch (R456). -/
def Stops (s t : State) (n cause : Nat) : Prop :=
  t.task n = { s.task n with stage := 1, cause := cause, saveAt := s.cycle } ∧ (∀ m, m ≠ n → t.task m = s.task m) ∧
  (∀ c, c ∉ unitsOf (s.task n) → t.core c = s.core c) ∧
  (∀ c ∈ unitsOf (s.task n), ∀ u, u < (if c < 1536 then 4 else 1) → let q := (s.core c).quad u; let w := (t.core c).quad u
    w.pc = q.pc ∧ w.vecQ = q.vecQ ∧ w.loops = q.loops ∧ (cause = 0 ∨ (∀ x ∈ q.flying, x.2 ≤ s.cycle) → w.memQ = q.memQ) ∧
    (cause ≠ 0 → q.idle = false → q.ended = false → ∀ x ∈ q.flying, s.cycle < x.2 → x.1 ∈ w.memQ) ∧
    (cause ≠ 0 → q.idle = false → q.ended = false → q.flying = [] → ∀ e, q.memQ = [e] → ∀ d x z g, e.op = .vgath d x z g → ∀ p ∈ q.pend, p.eng = 1 → p.dst = .v d → s.cycle < p.land →
      ∀ l, l < 32 → p.mask = (2 ^ 32 - 1) * 2 ^ (32 * l) → w.prog2 ≤ l ∧ p ∉ w.pend) ∧
    (cause ≠ 0 → q.idle = false → q.ended = false → w.cond = none ∧ w.arrived = none)) ∧
  ({ t with cores := s.cores, tasks := s.tasks, watches := s.watches } : State) = s ∧ (∀ y ∈ t.watches, y ∈ s.watches) ∧ ∀ y ∈ s.watches, y.who.1 ≠ n → y ∈ t.watches

/-- Quadrant `u` of core `c` can take a trap in the plain way. -/
def CanTrapAt (s : State) (c u : Nat) : Prop :=
  let q := s.quadOf c u
  c < 1536 ∧ u < 4 ∧ q.inh = false ∧ q.trapvec ≠ 0 ∧ q.vecQ = [] ∧ q.snapBack = false ∧ ∀ p ∈ q.pend, q.cyc < p.land

/-- A plain task alone on core `c`. -/
def PlainOn (s : State) (n c : Nat) : Prop := c < 1536 ∧ n ≠ 0 ∧ (s.core c).task = some n ∧ (s.task n).cores = [c] ∧ (s.task n).walks = [] ∧ (s.task n).team = false

/-- The queues of a quadrant are empty and no trap waits for it. -/
def QueuesEmpty (q : Quad) : Prop := q.memQ = [] ∧ q.vecQ = [] ∧ q.trapReqs = [] ∧ q.trapWait = none

/-- `n` bytes from `a` on are mapped at a home of this package for an ASID and world, loads and stores allowed, by cached translations, to the memory from `key` on; no link, window or migration is at the home. -/
def Mapped (s : State) (asid : Nat) (ns : Bool) (a : Word) (n key : Nat) : Prop :=
  homeOf a < 8 ∧ pkgOf a = s.pkg ∧ offOf a + n ≤ 2 ^ 54 ∧ key + n ≤ 2 ^ 52 ∧ key % 2 ^ 48 + n ≤ stackBytes ∧
  (s.facet (homeOf a)).moving = none ∧ (s.facet (homeOf a)).links = Tab.empty ∧ (s.facet (homeOf a)).pwinA = Tab.empty ∧
  ∀ i, i < n → ∃ e, s.tlbFind (homeOf a) asid (offOf a + i) = some e ∧
    s.checkLeaf (homeOf a) (offOf a + i) e.entry e.shift ns .load = .at (key + i) ∧ s.checkLeaf (homeOf a) (offOf a + i) e.entry e.shift ns .store = .at (key + i)

/-- The frame of plain task `n` on core `c` lies from `key` on (R352, R353). -/
def FrameAt (s : State) (n c key : Nat) : Prop :=
  let x := s.task n
  let y := s.ctx x.ctx
  ∃ i, PlainOn s n c ∧ x.frames = [i] ∧ 0x29000 ≤ y.fpsz ∧
    ∃ a : Word, a = y.fpbase + BitVec.ofNat 64 (y.fpsz * i) ∧ Mapped s y.asid (y.ns || s.hub.secmap.getLsbD (homeOf a)) a y.fpsz key

/-- The first 64 bytes of a frame, for the banks of core `c`; `saved` is the core that the task was saved from (R353). -/
def frameHeader (s t : State) (n c saved : Nat) (bpark bsaved : Nat) (inprog valid : Bool) : List (BitVec 8) :=
  let x := s.task n
  lowBytes (x.tdesc.toNat * 2 ^ 448 + x.inst * 2 ^ 416 + x.node * 2 ^ 400 + (t.launch x.launch).num * 2 ^ 368 + bsaved * 2 ^ 360 + bpark * 2 ^ 352 + x.banks.get 0 c * 2 ^ 344
    + x.cause * 2 ^ 336 + saved % 2048 * 2 ^ 325 + 4 * one x.cerr + 2 * one inprog + one valid) 64

/-- The banks of a core that a task holds in a state, as a mask. -/
def bankMaskOf (k : Core) (n : Nat) (st : BankSt) : Nat := ((List.range 8).map (fun b => if (k.banks.get {} b).st = st ∧ (k.banks.get {} b).task = n then 2 ^ b else 0)).sum

/-- The launches of a context record no locus. -/
def NoRecording (s : State) (l : Nat) : Prop := ∀ a, (s.launch l).use ≠ .recording a

end Sys2Proof.Claim
open Sys2Proof Sys2Proof.Machine Sys2Proof.Claim

/-- R226, R253, R288, R306, R395: a trap that an engine has raised for a quadrant is taken at its word boundary, with its own EPC or that of the next word; a wait past its limit raises WAITX with what its word reports; and a
quadrant that has steered no word for the watchdog's limit is a context-fatal WDOG. Model choices: log entry 63. -/
def Obligations.EngineTrapsAndLimitsEnterTheHandler : Prop :=
  ∀ (s : State) (c u : Nat), let q := s.quadOf c u
    (∀ r rest, CanTrapAt s c u → q.trapReqs = r :: rest → r.cause ≠ 0x30 →
      Becomes (.engineTrapTaken c u) s (fun t => ∃ w, CoreBecomes s t c (fun k => k.setQuad u w) ∧ Enters { q with trapReqs := rest } w r.cause (r.epc.getD q.pc) r.e0 r.e1 r.e2 r.e3)) ∧
    (∀ x, CanTrapAt s c u → q.wait = some x → x.limit ≠ 0 → x.since + x.limit ≤ q.cyc →
      Becomes (.waitLimitExpiry c u) s (fun t => ∃ w, ({ t with cores := s.cores, watches := s.watches } : State) = s ∧ (∀ k, k ≠ c → t.core k = s.core k) ∧
        t.core c = (s.core c).setQuad u w ∧ Enters q w 0x14 q.pc x.e0 x.e1 x.e2 x.e3 ∧
        ∀ y, y ∈ t.watches ↔ y ∈ s.watches ∧ y.who ≠ ((s.core c).task.getD 0, s.seat ((s.core c).task.getD 0) c u))) ∧
    (∀ n, (s.core c).task = some n → (s.task n).st = .running → (s.task n).stage = 0 → q.idle = false → q.ended = false →
      let lim := (s.ctx (s.task n).ctx).wdoglim
      lim ≠ 0 → q.doneAt + 940 * lim ≤ s.cycle → Becomes (.watchdogExpiry c u) s (fun t => t.events.getLast? = some (.contextFatal (s.task n).ctx 0x34)))

/-- R265, R289, R316, R340, R350, R351: a running task stops, to be saved: for a page, a tile, a spill page or a fault of an output for its cause; past its budget while a preload waits; and, where every quadrant stands at a switch
point or has waited its threshold, of itself. Model choices: log entries 61, 62. -/
def Obligations.RunningTasksStop : Prop :=
  ∀ (s : State) (n c u : Nat), (s.core c).task = some n → TaskRuns s n →
    Becomes (.taskSuspend c .page) s (fun t => Stops s t n 1) ∧ Becomes (.taskSuspend c .pull) s (fun t => Stops s t n 2) ∧
    Becomes (.taskSuspend c .spill) s (fun t => Stops s t n 3) ∧ Becomes (.taskSuspend c .ropf) s (fun t => Stops s t n 4) ∧
    ((s.quadOf c u).memStall ≠ none → Becomes (.pullWaitTimeout c u) s (fun t => Stops s t n 2)) ∧
    ((s.core c).preload ≠ none → (s.task n).budget ≠ 0 → (s.core c).since + 1024 * (s.task n).budget < s.cycle → NoRecording s (s.task n).launch →
      Becomes (.budgetOverrun c) s (fun t => Stops s t n 0xFE)) ∧
    (PlainOn s n c → (∀ k, k < 4 → QueuesEmpty ((s.core c).quad k)) →
      ((∃ k, k < 4 ∧ ((s.core c).quad k).idle = false ∧ ((s.core c).quad k).cond ≠ none) →
        (∀ k, k < 4 → ((s.core c).quad k).idle = false → (((s.core c).quad k).ended = true ∧ ((s.core c).quad k).cond = none) ∨ ((s.core c).quad k).cond = some .free ∨ ∃ m, ((s.core c).quad k).cond = some (.tags m)) →
        Becomes (.switchAway c) s (fun t => Stops s t n 0)) ∧
      ((s.task n).ythr ≠ 0 → (∃ k, k < 4 ∧ ((s.core c).quad k).idle = false ∧ ((s.core c).quad k).mayYield = true) →
        (∀ k, k < 4 → ((s.core c).quad k).cond = none ∧ (((s.core c).quad k).idle = false → ((s.core c).quad k).ended = true ∨
          (((s.core c).quad k).mayYield = true ∧ ∃ w, ((s.core c).quad k).wait = some w ∧ w.since + 64 * (s.task n).ythr ≤ max ((s.core c).quad k).cyc s.cycle))) →
        Becomes (.waitYield c) s (fun t => Stops s t n 0)))

/-- R313, R343, R358: PREEMPT stops every running task of its context with cause 0xFF, and is done where none runs; its end lets the context's tasks be placed again; a killed task holds no core, bank or frame any more, its frame is marked
invalid, and it is never counted as complete. Model choices: log entry 77. -/
def Obligations.ContextsArePreemptedAndTasksKilled : Prop :=
  ∀ (s : State) (x n : Nat), s.tasks.wf {} = true → s.launches.wf {} = true →
    ((∀ k, (s.core k).preload = none) → (∀ l, (s.launch l).ctx = x → NoRecording s l) → (∀ m, (s.task m).ctx = x → (s.task m).st = .running → TaskRuns s m) →
      Becomes (.preempt x) s (fun t =>
        (∀ m, (s.task m).ctx = x → (s.task m).st = .running → t.task m = { s.task m with stage := 1, cause := 0xFF, saveAt := s.cycle }) ∧
        (∀ m, (s.task m).ctx ≠ x ∨ (s.task m).st ≠ .running → t.task m = s.task m) ∧
        let busy : Prop := ∃ m, (s.task m).ctx = x ∧ (s.task m).st = .running
        (busy → t.events = s.events ∧ t.ctx x = { s.ctx x with preReq := true, preDone := false }) ∧
        (¬ busy → t.events = s.events ++ [.preempted x] ∧ t.ctx x = { s.ctx x with preReq := true, preDone := true }))) ∧
    Becomes (.resumeContext x) s (fun t => CtxBecomes s t x (fun y => { y with preReq := false, preDone := false })) ∧
    (n ≠ 0 → (s.task n).st ≠ .done → (s.task n).st ≠ .killed → NoRecording s (s.task n).launch → (∀ c ∈ (s.task n).cores, (s.core c).preload = none) → (s.ctx (s.task n).ctx).preReq = false →
      Becomes (.taskKill n) s (fun t => (t.task n).st = .killed ∧ (t.task n).valid = false ∧ (∀ m, m ≠ n → t.task m = s.task m) ∧
        (∀ k, (t.core k).task ≠ some n ∧ (t.core k).preload ≠ some n ∧ (∀ b, b < 8 → ((t.core k).banks.get {} b).task ≠ n)) ∧
        (∀ k, (s.core k).task ≠ some n → ∀ u, (t.core k).quad u = (s.core k).quad u) ∧ (∀ f ∈ (s.task n).frames, f ∉ (t.ctx (s.task n).ctx).frames) ∧ (∀ y, y ≠ (s.task n).ctx → t.ctx y = s.ctx y) ∧
        ((s.task n).frames = [] → MemorySame s t) ∧
        ({ t with cores := s.cores, tasks := s.tasks, ctxs := s.ctxs, watches := s.watches, facets := s.facets, events := s.events, mem := s.mem, draws := s.draws, hwFault := s.hwFault } : State) = s) ∧
      ∀ c key, FrameAt s n c key → Becomes (.taskKill n) s (fun t => MemoryWrites s t key (frameHeader s t n c ((s.task n).savedFrom.getD 0 c) (bankMaskOf (s.core c) n .parked) ((s.task n).tails.get 0 c) false false)))

namespace Sys2Proof.Claim

/-- A quadrant that a save finds at rest: nothing of it is in flight or asked for elsewhere. -/
def AtRest (q : Quad) : Prop :=
  q.vecQ = [] ∧ q.pend = [] ∧ q.ask = none ∧ q.memTok = none ∧ q.implicit = [] ∧ q.kept = none ∧ ∀ k, k < 4 → (q.batches.get {} k).st ≠ .closing ∧ ((q.batches.get {} k).st = .open → (q.batches.get {} k).peers = [])

/-- Nothing on core `c` holds the save of its task up: no matrix command runs, no copy is under way, every quadrant is at rest, and no packet to another package waits for its acknowledgement. -/
def CanSave (s : State) (c : Nat) : Prop :=
  (s.core c).mrun = [] ∧ (s.core c).chans = Tab.empty ∧ s.fabric.flows = [] ∧ ∀ u, u < 4 → AtRest ((s.core c).quad u)

/-- The program state of a quadrant that a save keeps (R353). -/
def SameProgram (q w : Quad) : Prop :=
  w.pc = q.pc ∧ (∀ k, w.gr k = q.gr k) ∧ (∀ k, w.br k = q.br k) ∧ w.p = q.p ∧ w.v = q.v ∧ w.m = q.m ∧ w.n = q.n ∧ w.loops = q.loops ∧ w.inh = q.inh ∧ w.epc = q.epc ∧ w.cause = q.cause ∧ w.trapvec = q.trapvec ∧
    w.handles = q.handles ∧ w.ended = q.ended

end Sys2Proof.Claim
open Sys2Proof Sys2Proof.Machine Sys2Proof.Claim

/-- R353, R354, R355: once the units of a task have come to rest, its frame says that a save is under way, for 1,312 cycles; then the frame is valid and holds the accumulators, the task's state is kept, its banks, which no placement
takes, are parked, and the core is free. -/
def Sys2Proof.Claim.TasksAreSaved : Prop :=
  ∀ (s : State) (n c key : Nat), FrameAt s n c key → CanSave s c →
    let x := s.task n
    ((s.task n).stage = 1 → Becomes (.contextSave c) s (fun t =>
      t.task n = { x with stage := 2, saveAt := s.cycle + 1312, valid := false, savedFrom := x.cores } ∧ (∀ m, m ≠ n → t.task m = s.task m) ∧ (∀ k, t.core k = s.core k) ∧
      MemoryWrites s t key (frameHeader s t n c c (bankMaskOf (s.core c) n .parked) (x.tails.get 0 c) true false))) ∧
    ((s.task n).stage = 2 → s.tailNeeds n = [] → (∀ m ∈ (s.core c).mq, m.reload = false) → x.st = .running → (s.core c).preload = none → (s.ctx x.ctx).preReq = false → Becomes (.saveComplete c) s (fun t =>
      (t.task n).stage = 0 ∧ (t.task n).valid = true ∧ (x.cause = 0 → (t.task n).st = .away) ∧
      (x.cause ≠ 0 → (∀ f k, x.waitFor ≠ .tile f k) → (t.task n).st = if 0xFE ≤ x.cause ∨ x.waitFor = .none ∨ x.pageReady = true then .restorable else .suspended) ∧
      (t.core c).task = none ∧ bankMaskOf (t.core c) n .parked = bankMaskOf (s.core c) n .parked + bankMaskOf (s.core c) n .held ∧ bankMaskOf (t.core c) n .held = 0 ∧
      (x.cause ≠ 0 → ∀ u, u < 4 → ((s.core c).quad u).idle = false → SameProgram ((s.core c).quad u) (((t.task n).images.get {} c).quad u)) ∧
      (∀ k, key ≤ k → k < key + 64 → t.byteAt k = (frameHeader s t n c (x.savedFrom.getD 0 c) (bankMaskOf (t.core c) n .parked) (x.tails.get 0 c) false true).getD (k - key) 0) ∧
      (∀ r j, r < 256 → j < 256 → t.byteAt (key + 0x9000 + 256 * r + j) = BitVec.ofNat 8 (((s.core c).acc.get 0 r).toNat / 2 ^ (8 * j))) ∧
      (∀ m, m ≠ n → t.task m = s.task m) ∧ ∀ k, k ≠ c → t.core k = s.core k))

/-- R77, R228, R356: a restore brings back the weight buffers from the frame and every quadrant's state, puts the reload of the accumulators, a MACCLD of the frame's rows, ahead of the matrix
queue, and the quadrants go on from this cycle. -/
def Sys2Proof.Claim.TasksAreRestored : Prop :=
  ∀ (s : State) (n c key : Nat), FrameAt s n c key → (s.task n).stage = 3 → (s.task n).tails.get 0 c = 0 → (s.ctx (s.task n).ctx).preReq = false → ((s.task n).images.get {} c).dictFrom = 0 →
    (∀ ch, (((s.task n).images.get {} c).chans.get {} ch).q = [] ∨ ((s.core c).chans.get {} ch).q = []) →
    let img := (s.task n).images.get {} c
    Becomes (.restoreComplete c) s (fun t =>
      (t.task n).st = .running ∧ (t.task n).stage = 0 ∧ (t.task n).waitFor = .none ∧ (t.core c).task = some n ∧ (∀ m, m ≠ n → t.task m = s.task m) ∧ (∀ k, k ≠ c → t.core k = s.core k) ∧
      (∀ b, (t.core c).banks.get {} b = (s.core c).banks.get {} b) ∧
      (∀ u, u < 4 → (img.quad u).idle = false → SameProgram (img.quad u) ((t.core c).quad u) ∧ ((img.quad u).ended = false → ((t.core c).quad u).cyc = s.cycle)) ∧
      (∀ r j, r < 128 → j < 256 → ((t.core c).wb0.rows.get 0 r).toNat / 2 ^ (8 * j) % 256 = (s.byteAt (key + 0x19000 + 256 * r + j)).toNat ∧
        ((t.core c).wb1.rows.get 0 r).toNat / 2 ^ (8 * j) % 256 = (s.byteAt (key + 0x21000 + 256 * r + j)).toNat) ∧
      (∃ m, (t.core c).mq = m :: img.mq.filter (fun x => !x.reload) ∧ m.word = .maccld 0 0 0 0 255 ∧ m.ops = [s.frameAddr n 0 + 0x9000] ∧ m.reload = true) ∧
      (∀ k, key ≤ k → k < key + 64 → t.byteAt k = (frameHeader s t n c ((s.task n).savedFrom.getD 0 c) (bankMaskOf (s.core c) n .parked) 0 false (s.task n).valid).getD (k - key) 0) ∧
      ∀ k, (k < key ∨ key + 64 ≤ k) → t.byteAt k = s.byteAt k)

/-- R316, R318: each condition of a task that is away is noted when it holds; once every one has held, the task is RESTORABLE and the watches of its conditions end. -/
def Sys2Proof.Claim.AwaitedConditionsAreNoted : Prop :=
  ∀ (s : State) (n c : Nat), (s.task n).st = .away → (s.task n).cores = [c] → (s.task n).walks = [] → c < 1536 → (s.core c).task ≠ some n → c ∈ (s.task n).images.keys →
    let img := (s.task n).images.get {} c
    let holds (u : Nat) : Prop :=
      (img.quad u).ended = true ∨ (img.quad u).condMet = true ∨ (img.quad u).cond = some .free ∨ (∃ m, (img.quad u).cond = some (.tags m) ∧ img.tagmap &&& m = m) ∨
      (∃ a b, ((img.quad u).cond = some (.eq a b) ∨ (img.quad u).cond = some (.ge a b)) ∧ pkgOf a = s.pkg ∧ ∃ y ∈ s.watches, y.who = (n, 2 ^ 16 + u) ∧ y.met = true)
    ((∀ u, u < 4 → (img.quad u).idle = false → holds u ∧ ((img.quad u).ended = true → (img.quad u).cond = none)) → Becomes (.awaitConditionMet n) s (fun t => (t.task n).st = .restorable ∧ (∀ m, m ≠ n → t.task m = s.task m) ∧
      (∀ y, y ∈ t.watches ↔ y ∈ s.watches ∧ (y.who.1 ≠ n ∨ y.who.2 < 2 ^ 16)) ∧ ({ t with tasks := s.tasks, watches := s.watches } : State) = s)) ∧
    (∀ u m, u < 4 → (img.quad u).idle = false → (img.quad u).cond = some (.tags m) → (img.quad u).condMet = false → img.tagmap &&& m ≠ m → (∀ k, k < 4 → k ≠ u → (img.quad k).idle = true) →
      Becomes (.awaitConditionMet n) s (fun t => t.task n = { s.task n with saveAt := s.cycle + 1 }))

/-- A stopped task is saved to its frame and restored with the same program state. Model choices: log entries 1, 50, 61, 62. -/
def Obligations.TasksAreSavedAndRestored : Prop :=
  Sys2Proof.Claim.TasksAreSaved ∧ Sys2Proof.Claim.TasksAreRestored ∧ Sys2Proof.Claim.AwaitedConditionsAreNoted

namespace Sys2Proof.Claim

/-- A queue's write index may become `w` (R329). -/
def IndexOk (x : SubQ) (w : Nat) : Prop := (w + 2 ^ 32 - x.ridx) % 2 ^ 32 ≤ 2 ^ x.log2n ∧ (w + 2 ^ 32 - x.widx) % 2 ^ 32 ≤ 2 ^ x.log2n

/-- What the steps of the front end leave alone: everything but the homes' own registers, memory and watches, the hub's bookkeeping of its reads, and what the statement names. -/
def BesidesReads (s t : State) : Prop :=
  ({ t with facets := s.facets, events := s.events, watches := s.watches, mem := s.mem, hub := s.hub, queues := s.queues, launches := s.launches, nextLaunch := s.nextLaunch, ctxs := s.ctxs } : State) = s ∧
  ({ t.hub with feCache := s.hub.feCache, fePorts := s.hub.fePorts, lastQ := s.hub.lastQ } : Hub) = s.hub

/-- A state that a reading of memory has left: nothing that the front end keeps of queues, contexts, launches, tasks and cores has changed. -/
def ReadOnly (s u : State) : Prop :=
  u.queues = s.queues ∧ u.ctxs = s.ctxs ∧ u.launches = s.launches ∧ u.nextLaunch = s.nextLaunch ∧ u.cycle = s.cycle ∧ u.time = s.time ∧ u.tasks = s.tasks ∧ u.nextTask = s.nextTask ∧ u.cores = s.cores ∧ u.pkg = s.pkg ∧
    u.mem = s.mem ∧ u.hub.signals = s.hub.signals ∧ u.hub.tree = s.hub.tree ∧ u.hub.secmap = s.hub.secmap

/-- The next packet of an enabled queue, 64 bytes at SQBASE + 64 × (SQRIDX mod 2^LOG2N), is `v` (R327, R328). -/
def NextPacket (s : State) (k v : Nat) : Prop :=
  let x := s.subq k
  x.en = true ∧ x.errCode = 0 ∧ x.widx ≠ x.ridx ∧ s.hub.feCache = [] ∧ s.hub.fePorts = [] ∧
  ∃ (a : Word) (key : Nat), a = x.base + BitVec.ofNat 64 (64 * (x.ridx % 2 ^ x.log2n)) ∧ Mapped s x.asid (x.ns || s.hub.secmap.getLsbD 11) a 64 key ∧ v = ofBytes (memBytes s key 64)

/-- The instances of a node in a launch's slice on facet `f`, first and one beyond the last (R325). -/
def sliceOf (l : Launch) (n : NodeRec) (f : Nat) : Nat × Nat :=
  let total := n.dx * n.dy * n.dz
  let lo := if l.scnt = 0 then 0 else min l.sbase total
  let hi := if l.scnt = 0 then total else min (l.sbase + l.scnt) total
  (max (n.part.getD f 0) lo, min (n.part.getD (f + 1) 0) hi)

/-- The graph of a packet has been read and passes its checks (R323): one node, a root with instances on `fs`, whose facets have cores in the partition; it records and replays no locus. -/
def GraphRead (s : State) (k pkt v : Nat) (tick : Bool) (u : State) (l : Launch) : Prop :=
  s.hub.tree = [] ∧ ∃ cx, s.ctxOf (s.subq k).asid = some cx ∧ ReadOnly s u ∧
    s.fe (readGraph { f := 8, asid := (s.subq k).asid, ns := (s.subq k).ns, work := 4 * k + one tick } s (packetLaunch cx k pkt v tick) (BitVec.ofNat 64 (v / 2 ^ 128 % 2 ^ 64))) = (u, .ok (.good l none false)) ∧
    l.use = .dynamic ∧ l.active = true ∧ l.failed = false ∧ l.locus = [] ∧ l.gw = Tab.empty ∧ l.nn = 1 ∧ (l.nodes.get {} 0).pred = 0 ∧ l.ctx = cx ∧
    (∃ f, f < 8 ∧ (sliceOf l (l.nodes.get {} 0) f).1 < (sliceOf l (l.nodes.get {} 0) f).2) ∧
    ∀ f, f < 8 → (sliceOf l (l.nodes.get {} 0) f).1 < (sliceOf l (l.nodes.get {} 0) f).2 → ∃ c, 192 * f ≤ c ∧ c < 192 * f + 192 ∧ c ∉ (s.ctx cx).barred

/-- Launch `id` has begun (R331, R333): the context's next launch number, guard words zero, its root ready with a counter for each facet. -/
def Begun (s t : State) (id : Nat) (l : Launch) : Prop :=
  let n := (t.launch id).nodes.get {} 0
  let x := s.ctx l.ctx
  t.nextLaunch = id + 1 ∧ (t.launch id).active = true ∧ (t.launch id).num = (x.launches + 1) % 2 ^ 32 ∧ (t.launch id).gw = Tab.empty ∧ t.ctx l.ctx = { x with launches := (x.launches + 1) % 2 ^ 32 } ∧
  n.ready = some s.cycle ∧ (∀ f, f < 8 → let p := sliceOf l (l.nodes.get {} 0) f; n.facCnt.get 0 f = p.2 - p.1 ∧ n.next.get 0 f = p.1) ∧
  n.nodeCnt = ((List.range 8).filter (fun f => (sliceOf l (l.nodes.get {} 0) f).1 < (sliceOf l (l.nodes.get {} 0) f).2)).length ∧
  ∀ i, i ≠ id → t.launch i = s.launch i

end Sys2Proof.Claim
open Sys2Proof Sys2Proof.Machine Sys2Proof.Claim

/-- R319, R320, R329, R330: GUARD sets a guard word of its launch; SPAWN reports 2 without a spawn queue, 1 where it is full, and else writes its packet at the write index and moves it on; QSUBMIT and a doorbell move the write index
of a queue where the checks allow it, and QSUBMIT else takes the illegal-instruction exception. -/
def Sys2Proof.Claim.SubmissionsReachTheirQueue : Prop :=
  ∀ (s : State) (d a b : BitVec 6) (k : BitVec 4) (x y : BitVec 5) (n : Nat) (v : BitVec 32),
    (Free s (useOf [a] 0 4) 7 → let q := s.me.begin (useOf [a] 0 4) 7
      let l := (s.task (myTask s)).launch
      Becomes (.guard k a) s (fun t => ({ t with cores := s.cores, launches := s.launches } : State) = s ∧ (∀ c, c ≠ s.cur.core → t.core c = s.core c) ∧ t.myCore.setQuad s.cur.quad s.me = s.myCore ∧ t.me = q.retire 0 ∧
        (∀ i, i ≠ l → t.launch i = s.launch i) ∧ ({ t.launch l with gw := (s.launch l).gw } : Launch) = s.launch l ∧
        ∀ i, (t.launch l).gw.get 0 i = if i = k.toNat then q.src a else (s.launch l).gw.get 0 i)) ∧
    (Free s (useOf [a, b] d 4) 7 → let q := s.me.begin (useOf [a, b] d 4) 7
      let c := s.ctx (s.task (myTask s)).ctx
      let e := s.subq c.spawnQ
      let gives (t : State) (st : Word) : Prop := ∃ w, t.me = w.retire 0 ∧ WritesG { q with ask := none, answer := none } w d.toNat st ∧ RestOfRegs { q with ask := none, answer := none } w;
      s.me.ask = none → s.me.answer = none →
      (c.spawnEn = false → Becomes (.spawn d a b) s (fun t => OnlyMe s t ∧ gives t 2)) ∧
      (c.spawnEn = true → Settled s →
        (2 ^ e.log2n ≤ (e.widx + 2 ^ 32 - e.ridx) % 2 ^ 32 → Becomes (.spawn d a b) s (fun t => OnlyMe s t ∧ gives t 1)) ∧
        (∀ key, (e.widx + 2 ^ 32 - e.ridx) % 2 ^ 32 < 2 ^ e.log2n → Mapped s c.asid (c.ns || s.hub.secmap.getLsbD 11) (e.base + BitVec.ofNat 64 (64 * (e.widx % 2 ^ e.log2n))) 64 key →
          Becomes (.spawn d a b) s (fun t => gives t 0 ∧ MemoryWrites s t key (lowBytes ((q.src a).toNat * 2 ^ 128 + (q.src b).toNat * 2 ^ 64 + 1) 64) ∧
            t.subq c.spawnQ = { e with widx := (e.widx + 1) % 2 ^ 32, tryAt := s.cycle + 1 } ∧ (∀ i, i ≠ c.spawnQ → t.subq i = s.subq i))))) ∧
    (∀ i, i < 16 → s.harts.wf {} = true → (s.hart i).port ≠ none → (∀ j, j ≠ i → (s.hart j).port = none) →
      let h := s.hart i
      let reg (r : BitVec 5) : Word := if r = 0 then 0 else h.x.get 0 r.toNat
      let e := s.subq (reg x).toNat
      let w := (reg y).toNat % 2 ^ 32
      let ok : Prop := (reg x).toNat < 1024 ∧ e.en = true ∧ h.qsasid.getLsbD 16 = true ∧ h.qsasid.toNat % 2 ^ 16 = e.asid ∧ IndexOk e w
      (ok → Becomes (.qsubmit y x) s (fun t => t.hart i = { h with port := none, pc := h.pc + 4 } ∧ t.subq (reg x).toNat = { e with widx := w, tryAt := s.cycle + 1 } ∧
        (∀ j, j ≠ i → t.hart j = s.hart j) ∧ (∀ j, j ≠ (reg x).toNat → t.subq j = s.subq j) ∧ ({ t with harts := s.harts, queues := s.queues } : State) = s)) ∧
      (¬ ok → Becomes (.qsubmit y x) s (fun t => t.hart i = { h with port := none, illegal := true, stval := BitVec.ofNat 64 (y.toNat * 2 ^ 20 + x.toNat * 2 ^ 15 + 11) } ∧
        (∀ j, j ≠ i → t.hart j = s.hart j) ∧ ({ t with harts := s.harts } : State) = s))) ∧
    (IndexOk (s.subq n) v.toNat → Becomes (.sqDoorbell n v) s (fun t => QueueBecomes s t n (fun e => { e with widx := v.toNat, tryAt := s.cycle + 1 }))) ∧
    (¬ IndexOk (s.subq n) v.toNat → Becomes (.sqDoorbell n v) s (fun t => t = s))

/-- R327, R328, R331, R332, R349: a queue's next packet starts: a FENCE completes at once, a bad packet is BADPKT with its number and stops the queue, a packet with a period waits for its ticks, and a LAUNCH whose graph is good begins;
a packet with BAR waits for those before it. A tick begins a launch, or is skipped while the last one is incomplete. -/
def Sys2Proof.Claim.PacketsStartInOrder : Prop :=
  ∀ (s : State) (k v : Nat), let x := s.subq k
    (NextPacket s k v →
      let ty := v % 256
      let legal : Prop := (ty = 1 ∨ ty = 2) ∧ v / 2 ^ 10 % 2 ^ 54 = 0 ∧ v / 2 ^ 192 % 2 ^ 192 = 0
      let bar : Bool := v / 2 ^ 8 % 2 = 1
      let next (y : SubQ) (ids : List (Nat × Nat)) : SubQ := { y with ridx := (x.ridx + 1) % 2 ^ 32, running := x.running ++ ids };
      (bar = true → x.running ≠ [] ∨ x.ticks ≠ [] → Becomes (.packetStart k) s (fun t => BesidesReads s t ∧ MemorySame s t ∧ t.subq k = { x with tryAt := s.cycle + 1 })) ∧
      (bar = false ∨ (x.running = [] ∧ x.ticks = []) →
        (¬ legal → Becomes (.packetStart k) s (fun t => BesidesReads s t ∧ MemorySame s t ∧ t.events.getLast? = some (.launchError k) ∧
          t.subq k = { next x [(x.ridx, 0)] with errPkt := x.ridx, errNode := 0xFFFF, errCode := 1 })) ∧
        (legal → ty = 2 → Becomes (.packetStart k) s (fun t => BesidesReads s t ∧ MemorySame s t ∧ t.subq k = next x [])) ∧
        (legal → ty = 1 → v / 2 ^ 448 % 2 ^ 32 ≠ 0 → Becomes (.packetStart k) s (fun t => BesidesReads s t ∧ MemorySame s t ∧
          let p := v / 2 ^ 448 % 2 ^ 32
          t.subq k = { next x [] with ticks := x.ticks ++ [{ pkt := x.ridx, packet := v, period := p, left := if v / 2 ^ 480 % 2 ^ 32 = 0 then none else some (v / 2 ^ 480 % 2 ^ 32)
                                                             nextAt := (s.time / (1000 * p) + 1) * (1000 * p), running := none }] })) ∧
        (∀ r u l, legal → ty = 1 → v / 2 ^ 448 % 2 ^ 32 = 0 → ReadOnly s r →
          ({ s with hub := { s.hub with lastQ := k } } : State).fe (feBytes { f := 8, asid := x.asid, ns := x.ns, work := 4 * k } (x.base + BitVec.ofNat 64 (64 * (x.ridx % 2 ^ x.log2n))) 64) = (r, .ok (lowBytes v 64)) →
          GraphRead r k x.ridx v false u l →
          Becomes (.packetStart k) s (fun t => Begun s t s.nextLaunch l ∧ t.subq k = next x [(x.ridx, s.nextLaunch)])))) ∧
    (∀ y rest, x.ticks = y :: rest → y.nextAt ≤ s.time → y.left ≠ some 0 → (∀ z ∈ rest, z.pkt ≠ y.pkt ∧ (z.running ≠ none ∨ z.left ≠ some 0)) →
      (y.running ≠ none → Becomes (.tickLaunch k) s (fun t => QueueBecomes s t k (fun e => { e with ticks := { y with nextAt := y.nextAt + 1000 * y.period } :: rest, skip := (e.skip + 1) % 2 ^ 32 }))) ∧
      (∀ u l, y.running = none → s.nextLaunch ≠ 0 → GraphRead s k y.pkt y.packet true u l → Becomes (.tickLaunch k) s (fun t => Begun s t s.nextLaunch l ∧
        t.subq k = { x with ticks := { y with nextAt := y.nextAt + 1000 * y.period, left := y.left.map (fun n => n - 1), running := some s.nextLaunch } :: rest })))

/-- SPAWN, GUARD, QSUBMIT and doorbells write the queue; packets start in order. Model choices: log entries 70, 72. -/
def Obligations.SubmissionsStartLaunches : Prop :=
  Sys2Proof.Claim.SubmissionsReachTheirQueue ∧ Sys2Proof.Claim.PacketsStartInOrder

namespace Sys2Proof.Claim

/-- A facet's dispatcher has nothing to tidy up; `v` is the state with its next time and its forecast (R336, R415). -/
def Dispatching (s v : State) (f : Nat) : Prop :=
  s.untidy f = false ∧ v = (s.updFacet f (fun x => { x with dispatchAt := s.cycle + 8, forecast := Config.forecast s.draws % 193 })).drawn

/-- The lowest `n` free banks of a core. -/
def lowestFree (k : Core) (n : Nat) : List Nat := ((List.range 8).filter (fun b => (k.banks.get {} b).st = .free)).take n

/-- What has been read of a plain task's descriptor: its entries, arguments and fields; no bindings and no team (R308, R310). -/
def PlainPrep (p : Prep) : Prop := p.members = [] ∧ p.hbind = [] ∧ p.rings = [] ∧ ∃ q, q < 4 ∧ p.d / 2 ^ (64 * q) % 2 ^ 64 ≠ 0

/-- Quadrant `q` as a task starts it (R73, R310): the entry's address, the arguments in g1 to g7, the instance in g8. -/
def Started (p : Prep) (q : Nat) (inst cyc : Nat) (w : Quad) : Prop :=
  let e := p.d / 2 ^ (64 * q) % 2 ^ 64
  (e = 0 → w.idle = true) ∧
  (e ≠ 0 → w.idle = false ∧ w.ended = false ∧ w.pc.toNat = e ∧ w.cyc = cyc ∧ w.p = 1 ∧ w.instidx = BitVec.ofNat 64 inst ∧ w.inh = false ∧ w.loops = [] ∧
    (∀ k, w.gr k = if 1 ≤ k ∧ k ≤ 7 then p.args.getD (k - 1) 0 else if k = 8 then BitVec.ofNat 64 inst else 0) ∧ (∀ k, k < 4 → w.br k = 0) ∧ w.trapvec.toNat = p.d / 2 ^ 256 % 2 ^ 64 / 4 * 4)

/-- Instance `inst` of a node has become task `n` on core `c`, with the lowest free banks and frame (R337, R352). -/
def Placed (s t : State) (n c id node inst : Nat) (banks : List Nat) : Prop :=
  let x := s.ctx (s.launch id).ctx
  let r := (s.launch id).node node
  t.nextTask = n + 1 ∧ (t.task n).cores = [c] ∧ (t.task n).walks = [] ∧ (t.task n).launch = id ∧ (t.task n).node = node ∧ (t.task n).inst = inst ∧ (t.task n).kernel = r.kernel ∧ (t.task n).prio = r.prio ∧
  (∀ b, b < 8 → (t.core c).banks.get {} b = if b ∈ banks then { st := .held, task := n } else (s.core c).banks.get {} b) ∧
  (∀ fr, (List.range x.fpcnt).find? (fun i => decide (i ∉ x.frames ∧ i ∉ x.badFrames)) = some fr → (t.task n).frames = [fr] ∧ (t.ctx (s.launch id).ctx).frames = x.frames ++ [fr]) ∧
  (∀ m, m ≠ n → t.task m = s.task m) ∧ ∀ k, k ≠ c → t.core k = s.core k

end Sys2Proof.Claim
open Sys2Proof Sys2Proof.Machine Sys2Proof.Claim

/-- R310, R336, R337, R340, R356: the dispatcher puts the instance that comes first on its core, where it starts 400 cycles later, or in the core's preload slot; it brings a restorable task back,
with the banks that it holds. -/
def Sys2Proof.Claim.InstancesArePlaced : Prop :=
  ∀ (s v : State) (f c : Nat), Dispatching s v f → c < 1536 →
    (∀ (u : State) (id node inst : Nat) (p : Prep) (pre : Bool),
      let l := s.launch id
      let r := l.node node
      let x := s.ctx l.ctx
      let n := s.nextTask
      ReadOnly v u → PlainPrep p → r.teams = false → r.groups = 1 → r.units = [] → l.use = .dynamic → v.plan f = some (.fresh id node inst [c] [] pre) → r.banks ≤ (lowestFree (s.core c) 8).length →
      v.fe (prepare { f := f, asid := x.asid, ns := x.ns, work := 4096 * id + node } r.kernel (!l.checked.contains r.kernel) false (v.feat 7)) = (u, .ok p) →
      Becomes (.dispatchPlacement f) s (fun t => Placed s t n c id node inst (lowestFree (s.core c) r.banks) ∧
        ((t.launch id).node node = r.take f inst) ∧
        (pre = true → (t.core c).preload = some n ∧ (t.core c).task = (s.core c).task ∧ (t.task n).st = .preloaded ∧ ∀ q, q < 4 → (t.core c).quad q = (s.core c).quad q) ∧
        (pre = false → (t.core c).task = some n ∧ (t.task n).st = .running ∧ (t.task n).cycleBase = s.cycle + 400 ∧ ∀ q, q < 4 → Started p q inst (s.cycle + 400) ((t.core c).quad q)))) ∧
    (∀ m key, v.plan f = some (.restore m [c] [] false) → m ≠ 0 → (s.task m).cores = [c] → (s.task m).walks = [] → (s.task m).team = false → (s.core c).preload = none →
      (s.task m).banks.get 0 c = bankMaskOf (s.core c) m .parked → bankMaskOf (s.core c) m .held = 0 →
      (∃ i a, (s.task m).frames = [i] ∧ a = (s.ctx (s.task m).ctx).fpbase + BitVec.ofNat 64 ((s.ctx (s.task m).ctx).fpsz * i) ∧
        Mapped s (s.ctx (s.task m).ctx).asid ((s.ctx (s.task m).ctx).ns || s.hub.secmap.getLsbD (homeOf a)) a 0x29000 key) →
      Becomes (.dispatchPlacement f) s (fun t => (t.task m).st = .running ∧ (t.task m).stage = 3 ∧
        s.cycle + 1312 ≤ (t.task m).saveAt ∧ ((s.task m).tails.get 0 c = 0 → (t.task m).saveAt = s.cycle + 1312) ∧ (t.core c).task = some m ∧ bankMaskOf (t.core c) m .held = (s.task m).banks.get 0 c ∧
        (∀ k, k ≠ m → t.task k = s.task k) ∧ ∀ k, k ≠ c → t.core k = s.core k))

/-- R344, R345: an entry of a locus starts on its own core with the banks of its mask, where it starts 400 cycles later. -/
def Sys2Proof.Claim.LocusEntriesStartOnTheirCore : Prop :=
  ∀ (s u : State) (id c : Nat) (e : LocusEntry) (p : Prep), ReadOnly s u → c < 1536 → PlainPrep p → s.locusStep c = some id → s.entryReady id c = some e → s.healthy (s.launch id) = true →
    let l := s.launch id
    let r := l.node e.node
    let x := s.ctx l.ctx
    let n := s.nextTask
    let inst := (if l.scnt = 0 then 0 else min l.sbase (r.dx * r.dy * r.dz)) + e.first
    r.teams = false → r.units = [] → e.pre = false → e.bmask < 256 → l.entryCores e = [c] → (∀ y ∈ l.locus, y.kind ≠ 2) → (s.core c).task = none →
    (∀ b, b < 8 → e.bmask / 2 ^ b % 2 = 1 → ((s.core c).banks.get {} b).st = .free) →
    s.fe (prepare { f := facetOf c, asid := x.asid, ns := x.ns, work := 4096 * id + e.node } r.kernel (!l.checked.contains r.kernel) false (s.feat 7)) = (u, .ok p) →
    Becomes (.locusEntryStart c) s (fun t => Placed s t n c id e.node inst ((List.range 8).filter (fun b => e.bmask / 2 ^ b % 2 = 1)) ∧ (t.core c).task = some n ∧ (t.task n).st = .running ∧
      (t.task n).entry = [c] ∧ (t.launch id).replay.get [] c = (l.replay.get [] c).drop 1 ∧ ∀ q, q < 4 → Started p q inst (s.cycle + 400) ((t.core c).quad q))

/-- R312, R324, R333: a task whose copies and matrix commands are done gives its cores, banks and frame back and is counted; with the last instance of a facet and of a one-node graph the node's signal is added, then the launch
completes. -/
def Sys2Proof.Claim.FinishedTasksAreCounted : Prop :=
  ∀ (s : State) (n id c : Nat), s.tasks.wf {} = true →
    let x := s.task n
    let l := s.launch id
    let r := l.node x.node
    n ≠ 0 → x.st = .ending → x.cores = [c] → x.walks = [] → x.launch = id → c < 1536 → (s.core c).task = some n → (s.core c).preload = none → (s.core c).mq = [] → (s.core c).mrun = [] → (s.core c).chans = Tab.empty →
    l.use = .dynamic → l.failed = false → (s.ctx x.ctx).preReq = false → s.hub.signals = [] → s.hub.tree = [] →
    let gone (t : State) : Prop := (t.task n).st = .done ∧ (t.core c).task = none ∧ (t.core c).freeAt = s.cycle + 16 ∧ (∀ k b, b < 8 → ((t.core k).banks.get {} b).task ≠ n) ∧
      (∀ fr ∈ x.frames, fr ∉ (t.ctx x.ctx).frames) ∧ ∀ m, m ≠ n → t.task m = s.task m;
    (1 < r.facCnt.get 0 x.facet → Becomes (.taskDone n) s (fun t => gone t ∧ MemorySame s t ∧ (t.launch id).node x.node = { r with facCnt := r.facCnt.set 0 x.facet (r.facCnt.get 0 x.facet - 1) } ∧
      ∀ i, i ≠ id → t.launch i = s.launch i)) ∧
    (∀ key, r.facCnt.get 0 x.facet = 1 → r.nodeCnt = 1 → r.sigf = false → r.irqf = false → r.irqn = false → r.succ = [] → l.left = 1 → l.gsiga = 0 → l.irq = false → r.siga ≠ 0 → r.siga.toNat % 8 = 0 →
      Mapped s (s.ctx l.ctx).asid ((s.ctx l.ctx).ns || s.hub.secmap.getLsbD 11) r.siga 8 key →
      Becomes (.taskDone n) s (fun t => gone t ∧ MemoryWrites s t key (lowBytes (ofBytes (memBytes s key 8) + r.sigv.toNat) 8) ∧ (t.launch id).active = false ∧ ((t.launch id).node x.node).done = true ∧ (t.launch id).left = 0 ∧
        (∀ y, y ∈ (t.subq l.queue).running ↔ y ∈ (s.subq l.queue).running ∧ y.2 ≠ id)))

/-- R342, R347, R407, R429: LOCINV and LOCINVA free the loci of a context; a refinement whose trace is that of a replay, of the revision that stands, and that changes an entry, writes the next revision of the locus, its hash and its failures kept; without the trace of a
replay, it does nothing. -/
def Sys2Proof.Claim.LociAreFreedAndRefined : Prop :=
  ∀ (s : State) (c key : Nat) (hash : Word), let x := s.ctx c
    x.locbase.toNat % 2 ^ 12 = 0 → s.hub.signals = [] → (∀ i, (s.launch i).use = .dynamic) → Mapped s x.asid (x.ns || s.hub.secmap.getLsbD 11) (x.locbase &&& 0xFFFFFFFFFFFF0000) 65536 key →
    (x.lru = Tab.empty → s.hub.invals = [] → s.hub.feCache = [] → s.hub.fePorts = [] → s.launches.wf {} = true →
      let state := (s.byteAt (key + 51)).toNat / 64
      let theirs := ofBytes (memBytes s (key + 56) 8)
      let freed (i : Instr) : Prop := Becomes i s (fun t => MemoryWrites s t key (List.replicate 64 0))
      let kept (i : Instr) : Prop := Becomes i s (fun t => MemorySame s t);
      (state ≠ 0 → freed (.locinva c)) ∧ (state ≠ 0 → theirs = hash.toNat → freed (.locinv c hash)) ∧ (theirs ≠ hash.toNat → kept (.locinv c hash)) ∧ (state = 0 → kept (.locinva c))) ∧
    (let r : State := { s with hub := { s.hub with refines := s.hub.refines.filter (fun y => y.2 ≠ (c, hash.toNat)) } };
      (∀ y ∈ x.traces, y.hash = hash.toNat → y.replayed = false) → Becomes (.locusRefine c hash) s (fun t => t = r)) ∧
    (∀ u h b tr, let r : State := { s with hub := { s.hub with refines := s.hub.refines.filter (fun y => y.2 ≠ (c, hash.toNat)) } };
      ReadOnly s u → (u.facet (homeOf x.locbase)).tlb = (s.facet (homeOf x.locbase)).tlb → (u.facet (homeOf x.locbase)).moving = none → (u.facet (homeOf x.locbase)).links = Tab.empty →
      (u.facet (homeOf x.locbase)).pwinA = Tab.empty → u.hub = { r.hub with feCache := u.hub.feCache, fePorts := u.hub.fePorts } →
      x.traces.find? (fun y => y.hash == hash.toNat && y.replayed) = some tr → tr.rev = h.rev → tr.place = 0 → tr.gang = false ∨ s.pkg = 0 →
      r.fe (readRefinable { f := 8, asid := x.asid, ns := x.ns, work := 4 * c + 3 } x hash.toNat 0) = (u, .ok (some (h, b))) →
      let old := ((List.range 8).filter (fun f => h.fmask / 2 ^ f % 2 = 1)).flatMap (fun f => entriesOf b f 4096 (h.foff.getD f 0 + 32 * h.nn))
      refine tr.jobs old ≠ old → (revisedImage h b (refine tr.jobs old)).length ≤ 65536 → h.hash < 2 ^ 64 → h.rev + 1 < 2 ^ 16 → h.fails < 256 → h.nn < 2 ^ 16 →
      Becomes (.locusRefine c hash) s (fun t => (∀ k, (k < key ∨ key + 65536 ≤ k) → t.byteAt k = s.byteAt k) ∧
        memBytes t (key + 56) 8 = lowBytes h.hash 8 ∧ memBytes t (key + 54) 2 = lowBytes (h.rev + 1) 2 ∧ memBytes t (key + 52) 1 = lowBytes h.fails 1 ∧ (t.byteAt (key + 51)).toNat / 64 = 2))

/-- The dispatcher places an instance on a core that has room; a locus entry starts on its core. Model choices: log entries 50, 73, 74. -/
def Obligations.InstancesArePlacedAndStarted : Prop :=
  Sys2Proof.Claim.InstancesArePlaced ∧ Sys2Proof.Claim.LocusEntriesStartOnTheirCore

/-- A finished task is counted up to its launch; LOCINV frees loci and a refinement revises one. Model choices: log entries 71, 74, 75. -/
def Obligations.FinishedTasksAndFreedLoci : Prop :=
  Sys2Proof.Claim.FinishedTasksAreCounted ∧ Sys2Proof.Claim.LociAreFreedAndRefined

namespace Sys2Proof.Claim

/-! ### Fetch and step -/

/-- The g registers that a word of a tile-walk engine's subset names, and its fields that must be 0 (channel and guard); none outside the subset (R296). -/
def walkFields : Instr → Option (List Nat × List Nat)
  | .nop | .nsetImm .. | .loop .. | .qbindLabel .. | .role .. | .tbar | .stwt .. | .tend => some ([], [])
  | .addi d _ a _ => some ([d.toNat, a.toNat], [])
  | .li d _ | .lih d _ | .qres d _ _ | .qacq d _ _ | .teamid d => some ([d.toNat], [])
  | .nsetReg _ a b => some ([a.toNat, b.toNat], [])
  | .loopReg a _ | .twall a _ | .twany a _ | .tclr a | .qbindReg _ a | .qcmt a _ | .qrel a _ | .hand a _ _ => some ([a.toNat], [])
  | .loopn _ _ f c => some ((List.range c.toNat).map (fun j => f.toNat + j), [])
  | .br p n _ => some ([], [p.toNat, n.toNat])
  | .cpy c d a b | .cpyLong c d a b .. => some ([d.toNat, a.toNat, b.toNat], [c.toNat])
  | .cpyn c d a r _ => some ([d.toNat, a.toNat, r.toNat], [c.toNat])
  | .cpynLong c d a r _ _ m _ _ _ _ _ mc => some ([d.toNat, a.toNat, r.toNat] ++ (if mc = 1 then [m.toNat] else []), [c.toNat])
  | .chain c a => some ([a.toNat], [c.toNat])
  | .drain c l _ => some ([], [c.toNat, l.toNat])
  | .pull h a b n | .pullLong h a b n .. => some ([a.toNat, b.toNat, n.toNat], [h.toNat])
  | _ => none

/-- The feature that a word needs (R414). -/
def featureOf : Instr → Option Nat
  | .dictionaryWord .. | .dload _ => some 0
  | .mnb .. => some 2
  | .send .. | .drop .. | .pqry .. | .pull .. | .pullLong .. => some 3
  | _ => none

/-- Is the word not permitted to the unit whose turn it is: a feature that is not agreed (R414), SLOTW without the grant (R392), or a word, a register, a
guard or a channel outside a walk engine's subset (R296)? -/
def NotPermitted (s : State) (i : Instr) : Prop :=
  (∃ k, featureOf i = some k ∧ (s.hub.featoff &&& s.hub.featacc).getLsbD k = false)
    ∨ ((∃ d a b, i = .slotw d a b) ∧ (s.ctx (s.task (s.myCore.task.getD 0)).ctx).svg = false)
    ∨ (1536 ≤ s.cur.core ∧ ∀ rs zs, walkFields i = some (rs, zs) → (∃ r ∈ rs, 15 < r) ∨ (∃ z ∈ zs, z ≠ 0))

/-- A step ends as the meaning of `i` on `u` ends, unless it met a frame beyond the stacks (R13), in a package that has power and has booted (R412). -/
def EndsAs (s : State) (i : Instr) (u : State) : Prop :=
  s.powered = true → s.hub.booted = true → step s = match exec i u with
    | .next x => (match x.hwFault with
      | some f => .fault f
      | none => .next x)
    | .fault f => .fault f
    | .refused r => .refused r

/-- The time at which a step takes place: the cycle, and TIME in ns at 940 MHz (R2, R365). -/
def AtCycle (s : State) (t : Nat) : State :=
  { s with cycle := if s.cycle ≤ t then t else s.cycle, time := (if s.cycle ≤ t then t else s.cycle) * 50 / 47 }

/-- The splitter of quadrant `q` of unit `c` is the one that takes its turn, and fetches. -/
def Fetches (s : State) (t c q : Nat) (u : State) : Prop :=
  s.agenda = [] ∧ earliest s.allDue = some (t, .splitter c q) ∧ u = { AtCycle s t with cur := { core := c, quad := q } } ∧
    u.me.trapWait = none ∧ (u.me.trapReqs = [] ∨ u.me.ask.isSome) ∧ u.me.adv = [] ∧ u.drifts = false

end Sys2Proof.Claim
open Sys2Proof Sys2Proof.Machine Sys2Proof.Claim

/-- A fetched word is executed: the step is its meaning, or that of an illegal encoding under the lowest subcause of its fields or 0x0C; a step of the agenda
and an event that is due are executed likewise. A package that has no power, or has not booted, executes nothing: only time goes on (R412). Model choices: log entries 13, 41. -/
def Obligations.AStepRunsTheDecodedInstruction : Prop :=
  (∀ (s : State) (t c q : Nat) (u u' : State) (p len : Nat), Fetches s t c q u → u.patternAtPc = (u', some (p, len)) →
    let v := u'.updMe (fun x => { x with inst := p, wlen := len })
    (∀ i, decodePattern p = .instr i → (NotPermitted v i → EndsAs s (.illegalEncoding 0x0C) v) ∧ (¬ NotPermitted v i → EndsAs s i v)) ∧
    (∀ sub, decodePattern p = .illegal sub → EndsAs s (.illegalEncoding (BitVec.ofNat 8 sub)) v)) ∧
  (∀ (s : State) (i : Instr) (r : List Instr), s.agenda = i :: r → EndsAs s i { s with agenda := r }) ∧
  (∀ (s : State) (t : Nat) (i : Instr), s.agenda = [] → earliest s.allDue = some (t, .event i) → EndsAs s i (AtCycle s t)) ∧
  (∀ (s : State) (t h w : Nat) (i : Instr), s.agenda = [] → earliest s.allDue = some (t, .hart h) → (s.hart h).port = some w →
    decodeHart w = some i → EndsAs s i (AtCycle s t)) ∧
  (∀ s : State, s.powered = false ∨ s.hub.booted = false → s.hwFault = none → step s = .next (AtCycle s (s.cycle + 1)))

/-- The pattern at the program counter: the word that memory holds there, or the older one that the quadrant has cached (R37), and with a prefix the word
after it (R50); in a loop's body, the word as it was first fetched, which every active level whose body holds it keeps (R99). Model choices: log entry 2. -/
def Obligations.FetchReadsTheWordsAtThePc : Prop :=
  (∀ (s s' : State) (a : Word) (v : List (BitVec 8)) (key : Nat), (∀ l ∈ s.me.loops, l.start.toNat ≤ a.toNat → a.toNat ≤ l.last.toNat → l.buf.get 0 a.toNat = 0) → (s.isRemote a && s.feat 6) = false → s.accept s.agent a 4 .fetch = (⟨s', .ok v⟩, key) →
    let w := ((s.byteAt key).toNat + 2 ^ 8 * (s.byteAt (key + 1)).toNat + 2 ^ 16 * (s.byteAt (key + 2)).toNat + 2 ^ 24 * (s.byteAt (key + 3)).toNat)
    let c := s.me.icache.get 0 a.toNat
    (∀ l ∈ (s.wordAt a).1.me.loops, l.start.toNat ≤ a.toNat → a.toNat ≤ l.last.toNat → ∃ x, (s.wordAt a).2 = some x ∧ l.buf.get 0 a.toNat = x + 1) ∧
    (c = 0 → (s.wordAt a).2 = some w ∧ (s.wordAt a).1.me.icache.get 0 a.toNat = w + 1) ∧
    (c ≠ 0 → (s.wordAt a).2 = some (c - 1) ∨ (s.wordAt a).2 = some w)) ∧
  (∀ (s : State) (a : Word) (i r : List Loop) (l : Loop) (w : Nat), s.me.loops = i ++ l :: r → l.start.toNat ≤ a.toNat → a.toNat ≤ l.last.toNat → l.buf.get 0 a.toNat = w + 1 →
    (∀ y ∈ i, y.start.toNat ≤ a.toNat → a.toNat ≤ y.last.toNat → y.buf.get 0 a.toNat = 0) →
    (s.wordAt a).2 = some w ∧ (∀ y ∈ (s.wordAt a).1.me.loops, y.start.toNat ≤ a.toNat → a.toNat ≤ y.last.toNat → y.buf.get 0 a.toNat ≠ 0) ∧
    ∃ f : List Loop → List Loop, (s.wordAt a).1 = s.updMe (fun q => { q with loops := f q.loops })) ∧
  (∀ (s u : State) (w : Nat), s.me.inject = none → s.wordAt s.me.pc = (u, some w) →
    (w / 2 ^ 29 % 8 ≠ 6 → s.patternAtPc = (u, some (w, 4))) ∧
    (w / 2 ^ 29 % 8 = 6 → ∀ u' h, u.wordAt (u.me.pc + 4) = (u', some h) → s.patternAtPc = (u', some (w + 2 ^ 32 * h, 8))))

/-! ### Encodings -/

/-- Decoding the words of a well-formed instruction gives it back, with every operand, and takes exactly those words; likewise at a coprocessor port. -/
def Obligations.EncodedInstructionsDecodeBack : Prop :=
  (∀ i, isWord i = true → wf i = true → decode (encode i) = (.instr i, (encode i).length) ∧ ∀ w ∈ encode i, w < 2 ^ 32) ∧
  (∀ b a, ∀ w ∈ encode (.qsubmit b a), decodeHart w = some (.qsubmit b a))

/-- Words written out from the tables of R62 to R69 and R239 stand for the instructions that the tables name. -/
def Obligations.WrittenOutWordsDecode : Prop :=
  decodeWord 0b00000000100001100000100001010000 = .instr (.add 3 0 2 5) ∧
  decodeWord 0b00100110000101000111000000010000 = .instr (.ldD 5 7 16) ∧
  decodeWord 0b01000000000001000100001101100000 = .instr (.vadd 1 2 3 3 0) ∧
  decodeWord 0b01101010000100110000001000000001 = .instr (.mzero 1 3 2 1) ∧
  decodeWord 0b10000000001000010000011000100000 = .instr (.cpy 1 2 3 4) ∧
  decodeWord 0b10110000000000000000000000000000 = .instr .tend ∧
  decodePattern 0b1010110000001000001100000000010111010100000000000000000000000010 = .instr (.sigwCond 2 3 5 2)

/-! ### Hard-wired registers and reset -/

/-- g0 reads zero and discards writes, and p0 is always 1 (R45, R73): whatever is written, and in every state. -/
def Obligations.HardWiredRegistersKeepTheirValues : Prop :=
  ∀ q : Quad, q.gr 0 = 0 ∧ (∀ x, q.setG 0 x = q) ∧ (∀ d x, (q.setG d x).gr 0 = 0) ∧
    q.pr 0 = true ∧ (∀ x, q.setP 0 x = q) ∧ (∀ d x, (q.setP d x).pr 0 = true)

/-- Reset leaves the values of the register tables: FEATACC, SECMAP, SECRGN, DBGAUTH, RQUOTA, FABDROP, MIGTHR, NQSTAT, the sentinels, PWIN, CORE and queue
format registers, the weight buffers' reset fields, the queue and context registers. Model choices: log entry 20. -/
def Obligations.ResetLeavesTheTabledValues : Prop :=
  let s := State.reset
  (s.hub.featacc = 0 ∧ s.hub.featDone = false ∧ (∀ k, s.feat k = false) ∧ s.hub.secmap = 0 ∧ s.hub.authLock = true ∧ s.hub.authRes = 0 ∧
    s.hub.dbgErr = false ∧ s.hub.fabdrop = 0 ∧ ∀ k, s.hub.secrgnA.get 0 k = 0 ∧ s.hub.secrgnB.get 0 k = 0 ∧ s.hub.rquota.get 1024 k = 1024) ∧
  (∀ f k, (s.facet f).migthr = 0x40 ∧ (s.facet f).nqstat = 0 ∧ (s.facet f).nqhead = 0 ∧ (s.facet f).nqtail = 0 ∧
    (s.facet f).sentinels.get {} k = { base := 0, limit := 0, ctl := 0, hits := 0 } ∧ (s.facet f).nbwin0 = 0 ∧ (s.facet f).nbwin1 = 0 ∧ (s.facet f).pwinA.get 0 k = 0 ∧
    (s.facet f).coreoff.get 0 k = 0 ∧ (s.facet f).deccnt = 0) ∧
  (∀ c k, (s.core c).cqf 0 = 0x82 ∧ (s.core c).cqf 1 = 0x82 ∧ (s.core c).cqf 2 = 0x820 ∧ (s.core c).cqf 3 = 0x820 ∧
    (s.core c).wb0.k = 128 ∧ (s.core c).wb0.fmt = 8 ∧ (s.core c).wb1.k = 128 ∧ (s.core c).wb1.fmt = 8 ∧ (s.core c).abuf = false ∧
    (s.core c).halt = false ∧ (s.core c).mq = [] ∧ (s.core c).tagmap = 0 ∧ (s.core c).ecccnt = 0 ∧
    ((s.core c).quad k).rmode = 0 ∧ ((s.core c).quad k).inh = false ∧ ((s.core c).quad k).watch.get 0 k = 0) ∧
  (∀ n, (s.queues.get {} n).asid = 0 ∧ (s.queues.get {} n).ns = false ∧ (s.queues.get {} n).en = false ∧ (s.queues.get {} n).log2n = 4 ∧
    (s.queues.get {} n).ridx = 0 ∧ (s.queues.get {} n).errCode = 0 ∧ (s.queues.get {} n).skip = 0) ∧
  (∀ x, (s.ctx x).asid = 0 ∧ (s.ctx x).ns = false ∧ (s.ctx x).svg = false ∧ (s.ctx x).en = false ∧ (s.ctx x).preReq = false ∧ (s.ctx x).preDone = false ∧
    (s.ctx x).stopbase = 0 ∧ (s.ctx x).stoplost = false ∧ (s.ctx x).wdoglim = 0 ∧ (s.ctx x).spawnEn = false ∧ (s.ctx x).ciqbase = 0 ∧
    (s.ctx x).ciqLog = 4 ∧ (s.ctx x).ciqLost = false ∧ (s.ctx x).ciqHead = 0 ∧ (s.ctx x).ciqTail = 0 ∧ ∀ k, (s.ctx x).ptroot.get 0 k = 0)

/-! ### The invariant of memory -/

/-- Memory is in its canonical form: the addresses rise, and no byte is listed that an unlisted address reads as. Model choices: log entry 12. -/
def Obligations.ResetHoldsTheInvariant : Prop := Inv State.reset

/-- Every step keeps memory in its canonical form. Model choices: log entry 12. -/
def Obligations.StepsKeepTheInvariant : Prop := ∀ s t : State, Inv s → step s = .next t → Inv t
end

