-- ==== Sys2Proof/Laws/Tab.lean ====
section
/-! SUPPORT. The laws of finite tables: a read after a write, writes to other numbers, and the canonical form that every write keeps. -/

namespace Sys2Proof.Tab
variable {α : Type}

theorem lookup_drop_self (d : α) (l : List (Nat × α)) (k : Nat) : lookup d (drop l k) k = d := by
  induction l with
  | nil => rfl
  | cons c r ih => unfold drop; split <;> simp_all [lookup]

theorem lookup_drop_ne (d : α) (l : List (Nat × α)) {j k : Nat} (h : j ≠ k) : lookup d (drop l k) j = lookup d l j := by
  induction l with
  | nil => rfl
  | cons c r ih => unfold drop; split <;> simp_all [lookup]; intro e; exact absurd e.symm h

theorem lookup_place_self (d : α) (l : List (Nat × α)) (k : Nat) (v : α) (h : ∀ x, (k, x) ∉ l) : lookup d (place l k v) k = v := by
  induction l with
  | nil => simp [place, lookup]
  | cons c r ih =>
    obtain ⟨j, x⟩ := c
    have hj : j ≠ k := by rintro rfl; exact h x (by simp)
    unfold place
    split
    · simp [lookup]
    · simp only [lookup, hj, if_false]; exact ih (fun y hy => h y (by simp [hy]))

theorem lookup_place_ne (d : α) (l : List (Nat × α)) {j k : Nat} (v : α) (h : j ≠ k) : lookup d (place l k v) j = lookup d l j := by
  induction l with
  | nil => simp [place, lookup, Ne.symm h]
  | cons c r ih => unfold place; split <;> simp_all [lookup, Ne.symm h]

theorem not_mem_drop (l : List (Nat × α)) (k : Nat) (x : α) : (k, x) ∉ drop l k := by
  induction l with
  | nil => simp [drop]
  | cons c r ih => unfold drop; split <;> simp_all; rintro rfl; simp_all

theorem drop_of_not_mem (l : List (Nat × α)) (k : Nat) (h : ∀ x, (k, x) ∉ l) : drop l k = l := by
  induction l with
  | nil => rfl
  | cons c r ih =>
    obtain ⟨j, x⟩ := c
    have hj : j ≠ k := by rintro rfl; exact h x (by simp)
    simp only [drop, hj, if_false]; rw [ih (fun y hy => h y (by simp [hy]))]

theorem drop_drop (l : List (Nat × α)) (k : Nat) : drop (drop l k) k = drop l k := drop_of_not_mem _ _ (not_mem_drop l k)

theorem drop_place (l : List (Nat × α)) (k : Nat) (v : α) (h : ∀ x, (k, x) ∉ l) : drop (place l k v) k = l := by
  induction l with
  | nil => simp [place, drop]
  | cons c r ih =>
    obtain ⟨j, x⟩ := c
    have hj : j ≠ k := by rintro rfl; exact h x (by simp)
    have hr : ∀ y, (k, y) ∉ r := fun y hy => h y (by simp [hy])
    unfold place; split
    · simp [drop, hj, drop_of_not_mem r k hr]
    · simp [drop, hj, ih hr]

@[simp] theorem get_empty (d : α) (k : Nat) : get d (empty : Tab α) k = d := rfl

variable [DecidableEq α]

@[simp] theorem get_set_self (d : α) (t : Tab α) (k : Nat) (v : α) : get d (set d t k v) k = v := by
  unfold get set; split
  · simp_all [lookup_drop_self]
  · exact lookup_place_self d _ k v (not_mem_drop _ k)

theorem get_set_ne (d : α) (t : Tab α) {j k : Nat} (v : α) (h : j ≠ k) : get d (set d t k v) j = get d t j := by
  unfold get set; split
  · exact lookup_drop_ne d _ h
  · rw [lookup_place_ne d _ v h, lookup_drop_ne d _ h]

/-- A read after a write. -/
theorem get_set (d : α) (t : Tab α) (j k : Nat) (v : α) : get d (set d t k v) j = if j = k then v else get d t j := by
  split
  · simp_all
  · exact get_set_ne d t v (by assumption)

/-- Of two writes to one number the second stands. -/
@[simp] theorem set_set (d : α) (t : Tab α) (k : Nat) (v w : α) : set d (set d t k v) k w = set d t k w := by
  have h : drop (set d t k v).cells k = drop t.cells k := by
    unfold set; split
    · exact drop_drop _ _
    · exact drop_place _ _ _ (not_mem_drop _ _)
  have e : ∀ u : Tab α, set d u k w = if w = d then ⟨drop u.cells k⟩ else ⟨place (drop u.cells k) k w⟩ := fun _ => rfl
  rw [e, e, h]

/-! The canonical form -/

theorem wfFrom_mono (d : α) (l : List (Nat × α)) {lo lo' : Nat} (h : lo' ≤ lo) (w : wfFrom d l lo = true) : wfFrom d l lo' = true := by
  cases l with
  | nil => rfl
  | cons c r => simp only [wfFrom, Bool.and_eq_true, decide_eq_true_eq] at *; exact ⟨⟨by omega, w.1.2⟩, w.2⟩

theorem wfFrom_drop (d : α) (l : List (Nat × α)) (k lo : Nat) (w : wfFrom d l lo = true) : wfFrom d (drop l k) lo = true := by
  induction l generalizing lo with
  | nil => rfl
  | cons c r ih =>
    obtain ⟨j, x⟩ := c
    simp only [wfFrom, Bool.and_eq_true, decide_eq_true_eq] at w
    unfold drop; split
    · exact wfFrom_mono d _ (by omega) (ih _ w.2)
    · simp only [wfFrom, Bool.and_eq_true, decide_eq_true_eq]; exact ⟨w.1, ih _ w.2⟩

theorem wfFrom_place (d : α) (l : List (Nat × α)) (k lo : Nat) (v : α) (hv : v ≠ d) (hk : lo ≤ k) (hm : ∀ x, (k, x) ∉ l)
    (w : wfFrom d l lo = true) : wfFrom d (place l k v) lo = true := by
  induction l generalizing lo with
  | nil => simp [place, wfFrom, hv, hk]
  | cons c r ih =>
    obtain ⟨j, x⟩ := c
    have hj : j ≠ k := by rintro rfl; exact hm x (by simp)
    simp only [wfFrom, Bool.and_eq_true, decide_eq_true_eq] at w
    unfold place; split
    · simp only [wfFrom, Bool.and_eq_true, decide_eq_true_eq]; exact ⟨⟨hk, hv⟩, ⟨⟨by omega, w.1.2⟩, w.2⟩⟩
    · simp only [wfFrom, Bool.and_eq_true, decide_eq_true_eq]
      exact ⟨w.1, ih _ (by omega) (fun y hy => hm y (by simp [hy])) w.2⟩

theorem wf_empty (d : α) : wf d (empty : Tab α) = true := rfl

/-- Every write keeps the canonical form. -/
theorem wf_set (d : α) (t : Tab α) (k : Nat) (v : α) (w : wf d t = true) : wf d (set d t k v) = true := by
  unfold wf set at *; split
  · exact wfFrom_drop d _ _ _ w
  · exact wfFrom_place d _ _ _ _ (by assumption) (Nat.zero_le _) (not_mem_drop _ k) (wfFrom_drop d _ _ _ w)

theorem wfFrom_filter (d : α) (l : List (Nat × α)) (p : Nat × α → Bool) (lo : Nat) (w : wfFrom d l lo = true) :
    wfFrom d (l.filter p) lo = true := by
  induction l generalizing lo with
  | nil => rfl
  | cons c r ih =>
    obtain ⟨j, x⟩ := c
    simp only [wfFrom, Bool.and_eq_true, decide_eq_true_eq] at w
    by_cases h : p (j, x) = true
    · simp only [List.filter_cons, h, if_true, wfFrom, Bool.and_eq_true, decide_eq_true_eq]; exact ⟨w.1, ih _ w.2⟩
    · simp only [List.filter_cons, h]; exact wfFrom_mono d _ (by omega) (ih _ w.2)

/-- So does the removal of entries. -/
theorem wf_filter (d : α) (t : Tab α) (p : Nat × α → Bool) (w : wf d t = true) : wf d ⟨t.cells.filter p⟩ = true :=
  wfFrom_filter d _ p 0 w

theorem lookup_of_lt (d : α) (l : List (Nat × α)) (lo k : Nat) (w : wfFrom d l lo = true) (h : k < lo) : lookup d l k = d := by
  induction l generalizing lo with
  | nil => rfl
  | cons c r ih =>
    obtain ⟨j, x⟩ := c
    simp only [wfFrom, Bool.and_eq_true, decide_eq_true_eq] at w
    simp only [lookup, show j ≠ k by omega, if_false]
    exact ih (j + 1) w.2 (by omega)

theorem cells_ext (d : α) (l m : List (Nat × α)) (lo : Nat) (wl : wfFrom d l lo = true) (wm : wfFrom d m lo = true)
    (h : ∀ k, lookup d l k = lookup d m k) : l = m := by
  induction l generalizing m lo with
  | nil =>
    cases m with
    | nil => rfl
    | cons c r =>
      obtain ⟨j, x⟩ := c
      simp only [wfFrom, Bool.and_eq_true, decide_eq_true_eq] at wm
      have := h j; simp [lookup] at this; exact absurd this.symm wm.1.2
  | cons c r ih =>
    obtain ⟨j, x⟩ := c
    simp only [wfFrom, Bool.and_eq_true, decide_eq_true_eq] at wl
    cases m with
    | nil => have := h j; simp [lookup] at this; exact absurd this wl.1.2
    | cons c' r' =>
      obtain ⟨j', x'⟩ := c'
      simp only [wfFrom, Bool.and_eq_true, decide_eq_true_eq] at wm
      have hjj : j = j' := by
        rcases Nat.lt_trichotomy j j' with hlt | heq | hgt
        · have := h j; simp only [lookup, if_true, show j' ≠ j by omega, if_false] at this
          rw [lookup_of_lt d r' (j' + 1) j wm.2 (by omega)] at this; exact absurd this wl.1.2
        · exact heq
        · have := h j'; simp only [lookup, if_true, show j ≠ j' by omega, if_false] at this
          rw [lookup_of_lt d r (j + 1) j' wl.2 (by omega)] at this; exact absurd this.symm wm.1.2
      subst hjj
      have hx : x = x' := by have := h j; simpa [lookup] using this
      subst hx
      congr 1
      refine ih r' (j + 1) wl.2 wm.2 (fun k => ?_)
      by_cases hk : j = k
      · subst hk; rw [lookup_of_lt d r (j + 1) j wl.2 (by omega), lookup_of_lt d r' (j + 1) j wm.2 (by omega)]
      · have := h k; simpa [lookup, hk] using this

/-- Tables in canonical form that read alike are equal data. -/
theorem ext_of_wf (d : α) (t u : Tab α) (wt : wf d t = true) (wu : wf d u = true) (h : ∀ k, get d t k = get d u k) : t = u := by
  have := cells_ext d t.cells u.cells 0 wt wu h
  cases t; cases u; simp_all

end Sys2Proof.Tab
end

