-- ==== Sys2Proof/Laws/State.lean ====
section
/-! SUPPORT. What every update of the state leaves as it was, field by field, and what a read after an update of the same part gives. -/

namespace Sys2Proof.Machine

/-! `drawn` -/
@[simp] theorem State.drawn_pkg (s : State) : (s.drawn).pkg = s.pkg := rfl
@[simp] theorem State.drawn_powered (s : State) : (s.drawn).powered = s.powered := rfl
@[simp] theorem State.drawn_cycle (s : State) : (s.drawn).cycle = s.cycle := rfl
@[simp] theorem State.drawn_time (s : State) : (s.drawn).time = s.time := rfl
@[simp] theorem State.drawn_cur (s : State) : (s.drawn).cur = s.cur := rfl
@[simp] theorem State.drawn_cores (s : State) : (s.drawn).cores = s.cores := rfl
@[simp] theorem State.drawn_mem (s : State) : (s.drawn).mem = s.mem := rfl
@[simp] theorem State.drawn_facets (s : State) : (s.drawn).facets = s.facets := rfl
@[simp] theorem State.drawn_hub (s : State) : (s.drawn).hub = s.hub := rfl
@[simp] theorem State.drawn_fabric (s : State) : (s.drawn).fabric = s.fabric := rfl
@[simp] theorem State.drawn_ctxs (s : State) : (s.drawn).ctxs = s.ctxs := rfl
@[simp] theorem State.drawn_tasks (s : State) : (s.drawn).tasks = s.tasks := rfl
@[simp] theorem State.drawn_nextTask (s : State) : (s.drawn).nextTask = s.nextTask := rfl
@[simp] theorem State.drawn_launches (s : State) : (s.drawn).launches = s.launches := rfl
@[simp] theorem State.drawn_nextLaunch (s : State) : (s.drawn).nextLaunch = s.nextLaunch := rfl
@[simp] theorem State.drawn_queues (s : State) : (s.drawn).queues = s.queues := rfl
@[simp] theorem State.drawn_harts (s : State) : (s.drawn).harts = s.harts := rfl
@[simp] theorem State.drawn_agenda (s : State) : (s.drawn).agenda = s.agenda := rfl
@[simp] theorem State.drawn_watches (s : State) : (s.drawn).watches = s.watches := rfl
@[simp] theorem State.drawn_events (s : State) : (s.drawn).events = s.events := rfl
@[simp] theorem State.drawn_tokens (s : State) : (s.drawn).tokens = s.tokens := rfl
@[simp] theorem State.drawn_hwFault (s : State) : (s.drawn).hwFault = s.hwFault := rfl

/-! `newToken` -/
@[simp] theorem State.newToken_pkg (s : State) : (s.newToken).pkg = s.pkg := rfl
@[simp] theorem State.newToken_powered (s : State) : (s.newToken).powered = s.powered := rfl
@[simp] theorem State.newToken_cycle (s : State) : (s.newToken).cycle = s.cycle := rfl
@[simp] theorem State.newToken_time (s : State) : (s.newToken).time = s.time := rfl
@[simp] theorem State.newToken_cur (s : State) : (s.newToken).cur = s.cur := rfl
@[simp] theorem State.newToken_cores (s : State) : (s.newToken).cores = s.cores := rfl
@[simp] theorem State.newToken_mem (s : State) : (s.newToken).mem = s.mem := rfl
@[simp] theorem State.newToken_facets (s : State) : (s.newToken).facets = s.facets := rfl
@[simp] theorem State.newToken_hub (s : State) : (s.newToken).hub = s.hub := rfl
@[simp] theorem State.newToken_fabric (s : State) : (s.newToken).fabric = s.fabric := rfl
@[simp] theorem State.newToken_ctxs (s : State) : (s.newToken).ctxs = s.ctxs := rfl
@[simp] theorem State.newToken_tasks (s : State) : (s.newToken).tasks = s.tasks := rfl
@[simp] theorem State.newToken_nextTask (s : State) : (s.newToken).nextTask = s.nextTask := rfl
@[simp] theorem State.newToken_launches (s : State) : (s.newToken).launches = s.launches := rfl
@[simp] theorem State.newToken_nextLaunch (s : State) : (s.newToken).nextLaunch = s.nextLaunch := rfl
@[simp] theorem State.newToken_queues (s : State) : (s.newToken).queues = s.queues := rfl
@[simp] theorem State.newToken_harts (s : State) : (s.newToken).harts = s.harts := rfl
@[simp] theorem State.newToken_agenda (s : State) : (s.newToken).agenda = s.agenda := rfl
@[simp] theorem State.newToken_watches (s : State) : (s.newToken).watches = s.watches := rfl
@[simp] theorem State.newToken_events (s : State) : (s.newToken).events = s.events := rfl
@[simp] theorem State.newToken_draws (s : State) : (s.newToken).draws = s.draws := rfl
@[simp] theorem State.newToken_hwFault (s : State) : (s.newToken).hwFault = s.hwFault := rfl

/-! `event` -/
@[simp] theorem State.event_pkg (s : State) (e : SupEvent) : (s.event e).pkg = s.pkg := rfl
@[simp] theorem State.event_powered (s : State) (e : SupEvent) : (s.event e).powered = s.powered := rfl
@[simp] theorem State.event_cycle (s : State) (e : SupEvent) : (s.event e).cycle = s.cycle := rfl
@[simp] theorem State.event_time (s : State) (e : SupEvent) : (s.event e).time = s.time := rfl
@[simp] theorem State.event_cur (s : State) (e : SupEvent) : (s.event e).cur = s.cur := rfl
@[simp] theorem State.event_cores (s : State) (e : SupEvent) : (s.event e).cores = s.cores := rfl
@[simp] theorem State.event_mem (s : State) (e : SupEvent) : (s.event e).mem = s.mem := rfl
@[simp] theorem State.event_facets (s : State) (e : SupEvent) : (s.event e).facets = s.facets := rfl
@[simp] theorem State.event_hub (s : State) (e : SupEvent) : (s.event e).hub = s.hub := rfl
@[simp] theorem State.event_fabric (s : State) (e : SupEvent) : (s.event e).fabric = s.fabric := rfl
@[simp] theorem State.event_ctxs (s : State) (e : SupEvent) : (s.event e).ctxs = s.ctxs := rfl
@[simp] theorem State.event_tasks (s : State) (e : SupEvent) : (s.event e).tasks = s.tasks := rfl
@[simp] theorem State.event_nextTask (s : State) (e : SupEvent) : (s.event e).nextTask = s.nextTask := rfl
@[simp] theorem State.event_launches (s : State) (e : SupEvent) : (s.event e).launches = s.launches := rfl
@[simp] theorem State.event_nextLaunch (s : State) (e : SupEvent) : (s.event e).nextLaunch = s.nextLaunch := rfl
@[simp] theorem State.event_queues (s : State) (e : SupEvent) : (s.event e).queues = s.queues := rfl
@[simp] theorem State.event_harts (s : State) (e : SupEvent) : (s.event e).harts = s.harts := rfl
@[simp] theorem State.event_agenda (s : State) (e : SupEvent) : (s.event e).agenda = s.agenda := rfl
@[simp] theorem State.event_watches (s : State) (e : SupEvent) : (s.event e).watches = s.watches := rfl
@[simp] theorem State.event_draws (s : State) (e : SupEvent) : (s.event e).draws = s.draws := rfl
@[simp] theorem State.event_tokens (s : State) (e : SupEvent) : (s.event e).tokens = s.tokens := rfl
@[simp] theorem State.event_hwFault (s : State) (e : SupEvent) : (s.event e).hwFault = s.hwFault := rfl

/-! `setCore` -/
@[simp] theorem State.setCore_pkg (s : State) (c : Nat) (x : Core) : (s.setCore c x).pkg = s.pkg := rfl
@[simp] theorem State.setCore_powered (s : State) (c : Nat) (x : Core) : (s.setCore c x).powered = s.powered := rfl
@[simp] theorem State.setCore_cycle (s : State) (c : Nat) (x : Core) : (s.setCore c x).cycle = s.cycle := rfl
@[simp] theorem State.setCore_time (s : State) (c : Nat) (x : Core) : (s.setCore c x).time = s.time := rfl
@[simp] theorem State.setCore_cur (s : State) (c : Nat) (x : Core) : (s.setCore c x).cur = s.cur := rfl
@[simp] theorem State.setCore_mem (s : State) (c : Nat) (x : Core) : (s.setCore c x).mem = s.mem := rfl
@[simp] theorem State.setCore_facets (s : State) (c : Nat) (x : Core) : (s.setCore c x).facets = s.facets := rfl
@[simp] theorem State.setCore_hub (s : State) (c : Nat) (x : Core) : (s.setCore c x).hub = s.hub := rfl
@[simp] theorem State.setCore_fabric (s : State) (c : Nat) (x : Core) : (s.setCore c x).fabric = s.fabric := rfl
@[simp] theorem State.setCore_ctxs (s : State) (c : Nat) (x : Core) : (s.setCore c x).ctxs = s.ctxs := rfl
@[simp] theorem State.setCore_tasks (s : State) (c : Nat) (x : Core) : (s.setCore c x).tasks = s.tasks := rfl
@[simp] theorem State.setCore_nextTask (s : State) (c : Nat) (x : Core) : (s.setCore c x).nextTask = s.nextTask := rfl
@[simp] theorem State.setCore_launches (s : State) (c : Nat) (x : Core) : (s.setCore c x).launches = s.launches := rfl
@[simp] theorem State.setCore_nextLaunch (s : State) (c : Nat) (x : Core) : (s.setCore c x).nextLaunch = s.nextLaunch := rfl
@[simp] theorem State.setCore_queues (s : State) (c : Nat) (x : Core) : (s.setCore c x).queues = s.queues := rfl
@[simp] theorem State.setCore_harts (s : State) (c : Nat) (x : Core) : (s.setCore c x).harts = s.harts := rfl
@[simp] theorem State.setCore_agenda (s : State) (c : Nat) (x : Core) : (s.setCore c x).agenda = s.agenda := rfl
@[simp] theorem State.setCore_watches (s : State) (c : Nat) (x : Core) : (s.setCore c x).watches = s.watches := rfl
@[simp] theorem State.setCore_events (s : State) (c : Nat) (x : Core) : (s.setCore c x).events = s.events := rfl
@[simp] theorem State.setCore_draws (s : State) (c : Nat) (x : Core) : (s.setCore c x).draws = s.draws := rfl
@[simp] theorem State.setCore_tokens (s : State) (c : Nat) (x : Core) : (s.setCore c x).tokens = s.tokens := rfl
@[simp] theorem State.setCore_hwFault (s : State) (c : Nat) (x : Core) : (s.setCore c x).hwFault = s.hwFault := rfl

/-! `updCore` -/
@[simp] theorem State.updCore_pkg (s : State) (c : Nat) (f : Core → Core) : (s.updCore c f).pkg = s.pkg := rfl
@[simp] theorem State.updCore_powered (s : State) (c : Nat) (f : Core → Core) : (s.updCore c f).powered = s.powered := rfl
@[simp] theorem State.updCore_cycle (s : State) (c : Nat) (f : Core → Core) : (s.updCore c f).cycle = s.cycle := rfl
@[simp] theorem State.updCore_time (s : State) (c : Nat) (f : Core → Core) : (s.updCore c f).time = s.time := rfl
@[simp] theorem State.updCore_cur (s : State) (c : Nat) (f : Core → Core) : (s.updCore c f).cur = s.cur := rfl
@[simp] theorem State.updCore_mem (s : State) (c : Nat) (f : Core → Core) : (s.updCore c f).mem = s.mem := rfl
@[simp] theorem State.updCore_facets (s : State) (c : Nat) (f : Core → Core) : (s.updCore c f).facets = s.facets := rfl
@[simp] theorem State.updCore_hub (s : State) (c : Nat) (f : Core → Core) : (s.updCore c f).hub = s.hub := rfl
@[simp] theorem State.updCore_fabric (s : State) (c : Nat) (f : Core → Core) : (s.updCore c f).fabric = s.fabric := rfl
@[simp] theorem State.updCore_ctxs (s : State) (c : Nat) (f : Core → Core) : (s.updCore c f).ctxs = s.ctxs := rfl
@[simp] theorem State.updCore_tasks (s : State) (c : Nat) (f : Core → Core) : (s.updCore c f).tasks = s.tasks := rfl
@[simp] theorem State.updCore_nextTask (s : State) (c : Nat) (f : Core → Core) : (s.updCore c f).nextTask = s.nextTask := rfl
@[simp] theorem State.updCore_launches (s : State) (c : Nat) (f : Core → Core) : (s.updCore c f).launches = s.launches := rfl
@[simp] theorem State.updCore_nextLaunch (s : State) (c : Nat) (f : Core → Core) : (s.updCore c f).nextLaunch = s.nextLaunch := rfl
@[simp] theorem State.updCore_queues (s : State) (c : Nat) (f : Core → Core) : (s.updCore c f).queues = s.queues := rfl
@[simp] theorem State.updCore_harts (s : State) (c : Nat) (f : Core → Core) : (s.updCore c f).harts = s.harts := rfl
@[simp] theorem State.updCore_agenda (s : State) (c : Nat) (f : Core → Core) : (s.updCore c f).agenda = s.agenda := rfl
@[simp] theorem State.updCore_watches (s : State) (c : Nat) (f : Core → Core) : (s.updCore c f).watches = s.watches := rfl
@[simp] theorem State.updCore_events (s : State) (c : Nat) (f : Core → Core) : (s.updCore c f).events = s.events := rfl
@[simp] theorem State.updCore_draws (s : State) (c : Nat) (f : Core → Core) : (s.updCore c f).draws = s.draws := rfl
@[simp] theorem State.updCore_tokens (s : State) (c : Nat) (f : Core → Core) : (s.updCore c f).tokens = s.tokens := rfl
@[simp] theorem State.updCore_hwFault (s : State) (c : Nat) (f : Core → Core) : (s.updCore c f).hwFault = s.hwFault := rfl

/-! `updQuad` -/
@[simp] theorem State.updQuad_pkg (s : State) (c q : Nat) (f : Quad → Quad) : (s.updQuad c q f).pkg = s.pkg := rfl
@[simp] theorem State.updQuad_powered (s : State) (c q : Nat) (f : Quad → Quad) : (s.updQuad c q f).powered = s.powered := rfl
@[simp] theorem State.updQuad_cycle (s : State) (c q : Nat) (f : Quad → Quad) : (s.updQuad c q f).cycle = s.cycle := rfl
@[simp] theorem State.updQuad_time (s : State) (c q : Nat) (f : Quad → Quad) : (s.updQuad c q f).time = s.time := rfl
@[simp] theorem State.updQuad_cur (s : State) (c q : Nat) (f : Quad → Quad) : (s.updQuad c q f).cur = s.cur := rfl
@[simp] theorem State.updQuad_mem (s : State) (c q : Nat) (f : Quad → Quad) : (s.updQuad c q f).mem = s.mem := rfl
@[simp] theorem State.updQuad_facets (s : State) (c q : Nat) (f : Quad → Quad) : (s.updQuad c q f).facets = s.facets := rfl
@[simp] theorem State.updQuad_hub (s : State) (c q : Nat) (f : Quad → Quad) : (s.updQuad c q f).hub = s.hub := rfl
@[simp] theorem State.updQuad_fabric (s : State) (c q : Nat) (f : Quad → Quad) : (s.updQuad c q f).fabric = s.fabric := rfl
@[simp] theorem State.updQuad_ctxs (s : State) (c q : Nat) (f : Quad → Quad) : (s.updQuad c q f).ctxs = s.ctxs := rfl
@[simp] theorem State.updQuad_tasks (s : State) (c q : Nat) (f : Quad → Quad) : (s.updQuad c q f).tasks = s.tasks := rfl
@[simp] theorem State.updQuad_nextTask (s : State) (c q : Nat) (f : Quad → Quad) : (s.updQuad c q f).nextTask = s.nextTask := rfl
@[simp] theorem State.updQuad_launches (s : State) (c q : Nat) (f : Quad → Quad) : (s.updQuad c q f).launches = s.launches := rfl
@[simp] theorem State.updQuad_nextLaunch (s : State) (c q : Nat) (f : Quad → Quad) : (s.updQuad c q f).nextLaunch = s.nextLaunch := rfl
@[simp] theorem State.updQuad_queues (s : State) (c q : Nat) (f : Quad → Quad) : (s.updQuad c q f).queues = s.queues := rfl
@[simp] theorem State.updQuad_harts (s : State) (c q : Nat) (f : Quad → Quad) : (s.updQuad c q f).harts = s.harts := rfl
@[simp] theorem State.updQuad_agenda (s : State) (c q : Nat) (f : Quad → Quad) : (s.updQuad c q f).agenda = s.agenda := rfl
@[simp] theorem State.updQuad_watches (s : State) (c q : Nat) (f : Quad → Quad) : (s.updQuad c q f).watches = s.watches := rfl
@[simp] theorem State.updQuad_events (s : State) (c q : Nat) (f : Quad → Quad) : (s.updQuad c q f).events = s.events := rfl
@[simp] theorem State.updQuad_draws (s : State) (c q : Nat) (f : Quad → Quad) : (s.updQuad c q f).draws = s.draws := rfl
@[simp] theorem State.updQuad_tokens (s : State) (c q : Nat) (f : Quad → Quad) : (s.updQuad c q f).tokens = s.tokens := rfl
@[simp] theorem State.updQuad_hwFault (s : State) (c q : Nat) (f : Quad → Quad) : (s.updQuad c q f).hwFault = s.hwFault := rfl

/-! `updMe` -/
@[simp] theorem State.updMe_pkg (s : State) (f : Quad → Quad) : (s.updMe f).pkg = s.pkg := rfl
@[simp] theorem State.updMe_powered (s : State) (f : Quad → Quad) : (s.updMe f).powered = s.powered := rfl
@[simp] theorem State.updMe_cycle (s : State) (f : Quad → Quad) : (s.updMe f).cycle = s.cycle := rfl
@[simp] theorem State.updMe_time (s : State) (f : Quad → Quad) : (s.updMe f).time = s.time := rfl
@[simp] theorem State.updMe_cur (s : State) (f : Quad → Quad) : (s.updMe f).cur = s.cur := rfl
@[simp] theorem State.updMe_mem (s : State) (f : Quad → Quad) : (s.updMe f).mem = s.mem := rfl
@[simp] theorem State.updMe_facets (s : State) (f : Quad → Quad) : (s.updMe f).facets = s.facets := rfl
@[simp] theorem State.updMe_hub (s : State) (f : Quad → Quad) : (s.updMe f).hub = s.hub := rfl
@[simp] theorem State.updMe_fabric (s : State) (f : Quad → Quad) : (s.updMe f).fabric = s.fabric := rfl
@[simp] theorem State.updMe_ctxs (s : State) (f : Quad → Quad) : (s.updMe f).ctxs = s.ctxs := rfl
@[simp] theorem State.updMe_tasks (s : State) (f : Quad → Quad) : (s.updMe f).tasks = s.tasks := rfl
@[simp] theorem State.updMe_nextTask (s : State) (f : Quad → Quad) : (s.updMe f).nextTask = s.nextTask := rfl
@[simp] theorem State.updMe_launches (s : State) (f : Quad → Quad) : (s.updMe f).launches = s.launches := rfl
@[simp] theorem State.updMe_nextLaunch (s : State) (f : Quad → Quad) : (s.updMe f).nextLaunch = s.nextLaunch := rfl
@[simp] theorem State.updMe_queues (s : State) (f : Quad → Quad) : (s.updMe f).queues = s.queues := rfl
@[simp] theorem State.updMe_harts (s : State) (f : Quad → Quad) : (s.updMe f).harts = s.harts := rfl
@[simp] theorem State.updMe_agenda (s : State) (f : Quad → Quad) : (s.updMe f).agenda = s.agenda := rfl
@[simp] theorem State.updMe_watches (s : State) (f : Quad → Quad) : (s.updMe f).watches = s.watches := rfl
@[simp] theorem State.updMe_events (s : State) (f : Quad → Quad) : (s.updMe f).events = s.events := rfl
@[simp] theorem State.updMe_draws (s : State) (f : Quad → Quad) : (s.updMe f).draws = s.draws := rfl
@[simp] theorem State.updMe_tokens (s : State) (f : Quad → Quad) : (s.updMe f).tokens = s.tokens := rfl
@[simp] theorem State.updMe_hwFault (s : State) (f : Quad → Quad) : (s.updMe f).hwFault = s.hwFault := rfl

/-! `updMyCore` -/
@[simp] theorem State.updMyCore_pkg (s : State) (f : Core → Core) : (s.updMyCore f).pkg = s.pkg := rfl
@[simp] theorem State.updMyCore_powered (s : State) (f : Core → Core) : (s.updMyCore f).powered = s.powered := rfl
@[simp] theorem State.updMyCore_cycle (s : State) (f : Core → Core) : (s.updMyCore f).cycle = s.cycle := rfl
@[simp] theorem State.updMyCore_time (s : State) (f : Core → Core) : (s.updMyCore f).time = s.time := rfl
@[simp] theorem State.updMyCore_cur (s : State) (f : Core → Core) : (s.updMyCore f).cur = s.cur := rfl
@[simp] theorem State.updMyCore_mem (s : State) (f : Core → Core) : (s.updMyCore f).mem = s.mem := rfl
@[simp] theorem State.updMyCore_facets (s : State) (f : Core → Core) : (s.updMyCore f).facets = s.facets := rfl
@[simp] theorem State.updMyCore_hub (s : State) (f : Core → Core) : (s.updMyCore f).hub = s.hub := rfl
@[simp] theorem State.updMyCore_fabric (s : State) (f : Core → Core) : (s.updMyCore f).fabric = s.fabric := rfl
@[simp] theorem State.updMyCore_ctxs (s : State) (f : Core → Core) : (s.updMyCore f).ctxs = s.ctxs := rfl
@[simp] theorem State.updMyCore_tasks (s : State) (f : Core → Core) : (s.updMyCore f).tasks = s.tasks := rfl
@[simp] theorem State.updMyCore_nextTask (s : State) (f : Core → Core) : (s.updMyCore f).nextTask = s.nextTask := rfl
@[simp] theorem State.updMyCore_launches (s : State) (f : Core → Core) : (s.updMyCore f).launches = s.launches := rfl
@[simp] theorem State.updMyCore_nextLaunch (s : State) (f : Core → Core) : (s.updMyCore f).nextLaunch = s.nextLaunch := rfl
@[simp] theorem State.updMyCore_queues (s : State) (f : Core → Core) : (s.updMyCore f).queues = s.queues := rfl
@[simp] theorem State.updMyCore_harts (s : State) (f : Core → Core) : (s.updMyCore f).harts = s.harts := rfl
@[simp] theorem State.updMyCore_agenda (s : State) (f : Core → Core) : (s.updMyCore f).agenda = s.agenda := rfl
@[simp] theorem State.updMyCore_watches (s : State) (f : Core → Core) : (s.updMyCore f).watches = s.watches := rfl
@[simp] theorem State.updMyCore_events (s : State) (f : Core → Core) : (s.updMyCore f).events = s.events := rfl
@[simp] theorem State.updMyCore_draws (s : State) (f : Core → Core) : (s.updMyCore f).draws = s.draws := rfl
@[simp] theorem State.updMyCore_tokens (s : State) (f : Core → Core) : (s.updMyCore f).tokens = s.tokens := rfl
@[simp] theorem State.updMyCore_hwFault (s : State) (f : Core → Core) : (s.updMyCore f).hwFault = s.hwFault := rfl

/-! `updChan` -/
@[simp] theorem State.updChan_pkg (s : State) (c k : Nat) (f : Chan → Chan) : (s.updChan c k f).pkg = s.pkg := rfl
@[simp] theorem State.updChan_powered (s : State) (c k : Nat) (f : Chan → Chan) : (s.updChan c k f).powered = s.powered := rfl
@[simp] theorem State.updChan_cycle (s : State) (c k : Nat) (f : Chan → Chan) : (s.updChan c k f).cycle = s.cycle := rfl
@[simp] theorem State.updChan_time (s : State) (c k : Nat) (f : Chan → Chan) : (s.updChan c k f).time = s.time := rfl
@[simp] theorem State.updChan_cur (s : State) (c k : Nat) (f : Chan → Chan) : (s.updChan c k f).cur = s.cur := rfl
@[simp] theorem State.updChan_mem (s : State) (c k : Nat) (f : Chan → Chan) : (s.updChan c k f).mem = s.mem := rfl
@[simp] theorem State.updChan_facets (s : State) (c k : Nat) (f : Chan → Chan) : (s.updChan c k f).facets = s.facets := rfl
@[simp] theorem State.updChan_hub (s : State) (c k : Nat) (f : Chan → Chan) : (s.updChan c k f).hub = s.hub := rfl
@[simp] theorem State.updChan_fabric (s : State) (c k : Nat) (f : Chan → Chan) : (s.updChan c k f).fabric = s.fabric := rfl
@[simp] theorem State.updChan_ctxs (s : State) (c k : Nat) (f : Chan → Chan) : (s.updChan c k f).ctxs = s.ctxs := rfl
@[simp] theorem State.updChan_tasks (s : State) (c k : Nat) (f : Chan → Chan) : (s.updChan c k f).tasks = s.tasks := rfl
@[simp] theorem State.updChan_nextTask (s : State) (c k : Nat) (f : Chan → Chan) : (s.updChan c k f).nextTask = s.nextTask := rfl
@[simp] theorem State.updChan_launches (s : State) (c k : Nat) (f : Chan → Chan) : (s.updChan c k f).launches = s.launches := rfl
@[simp] theorem State.updChan_nextLaunch (s : State) (c k : Nat) (f : Chan → Chan) : (s.updChan c k f).nextLaunch = s.nextLaunch := rfl
@[simp] theorem State.updChan_queues (s : State) (c k : Nat) (f : Chan → Chan) : (s.updChan c k f).queues = s.queues := rfl
@[simp] theorem State.updChan_harts (s : State) (c k : Nat) (f : Chan → Chan) : (s.updChan c k f).harts = s.harts := rfl
@[simp] theorem State.updChan_agenda (s : State) (c k : Nat) (f : Chan → Chan) : (s.updChan c k f).agenda = s.agenda := rfl
@[simp] theorem State.updChan_watches (s : State) (c k : Nat) (f : Chan → Chan) : (s.updChan c k f).watches = s.watches := rfl
@[simp] theorem State.updChan_events (s : State) (c k : Nat) (f : Chan → Chan) : (s.updChan c k f).events = s.events := rfl
@[simp] theorem State.updChan_draws (s : State) (c k : Nat) (f : Chan → Chan) : (s.updChan c k f).draws = s.draws := rfl
@[simp] theorem State.updChan_tokens (s : State) (c k : Nat) (f : Chan → Chan) : (s.updChan c k f).tokens = s.tokens := rfl
@[simp] theorem State.updChan_hwFault (s : State) (c k : Nat) (f : Chan → Chan) : (s.updChan c k f).hwFault = s.hwFault := rfl

/-! `updFacet` -/
@[simp] theorem State.updFacet_pkg (s : State) (f : Nat) (u : Facet → Facet) : (s.updFacet f u).pkg = s.pkg := rfl
@[simp] theorem State.updFacet_powered (s : State) (f : Nat) (u : Facet → Facet) : (s.updFacet f u).powered = s.powered := rfl
@[simp] theorem State.updFacet_cycle (s : State) (f : Nat) (u : Facet → Facet) : (s.updFacet f u).cycle = s.cycle := rfl
@[simp] theorem State.updFacet_time (s : State) (f : Nat) (u : Facet → Facet) : (s.updFacet f u).time = s.time := rfl
@[simp] theorem State.updFacet_cur (s : State) (f : Nat) (u : Facet → Facet) : (s.updFacet f u).cur = s.cur := rfl
@[simp] theorem State.updFacet_cores (s : State) (f : Nat) (u : Facet → Facet) : (s.updFacet f u).cores = s.cores := rfl
@[simp] theorem State.updFacet_mem (s : State) (f : Nat) (u : Facet → Facet) : (s.updFacet f u).mem = s.mem := rfl
@[simp] theorem State.updFacet_hub (s : State) (f : Nat) (u : Facet → Facet) : (s.updFacet f u).hub = s.hub := rfl
@[simp] theorem State.updFacet_fabric (s : State) (f : Nat) (u : Facet → Facet) : (s.updFacet f u).fabric = s.fabric := rfl
@[simp] theorem State.updFacet_ctxs (s : State) (f : Nat) (u : Facet → Facet) : (s.updFacet f u).ctxs = s.ctxs := rfl
@[simp] theorem State.updFacet_tasks (s : State) (f : Nat) (u : Facet → Facet) : (s.updFacet f u).tasks = s.tasks := rfl
@[simp] theorem State.updFacet_nextTask (s : State) (f : Nat) (u : Facet → Facet) : (s.updFacet f u).nextTask = s.nextTask := rfl
@[simp] theorem State.updFacet_launches (s : State) (f : Nat) (u : Facet → Facet) : (s.updFacet f u).launches = s.launches := rfl
@[simp] theorem State.updFacet_nextLaunch (s : State) (f : Nat) (u : Facet → Facet) : (s.updFacet f u).nextLaunch = s.nextLaunch := rfl
@[simp] theorem State.updFacet_queues (s : State) (f : Nat) (u : Facet → Facet) : (s.updFacet f u).queues = s.queues := rfl
@[simp] theorem State.updFacet_harts (s : State) (f : Nat) (u : Facet → Facet) : (s.updFacet f u).harts = s.harts := rfl
@[simp] theorem State.updFacet_agenda (s : State) (f : Nat) (u : Facet → Facet) : (s.updFacet f u).agenda = s.agenda := rfl
@[simp] theorem State.updFacet_watches (s : State) (f : Nat) (u : Facet → Facet) : (s.updFacet f u).watches = s.watches := rfl
@[simp] theorem State.updFacet_events (s : State) (f : Nat) (u : Facet → Facet) : (s.updFacet f u).events = s.events := rfl
@[simp] theorem State.updFacet_draws (s : State) (f : Nat) (u : Facet → Facet) : (s.updFacet f u).draws = s.draws := rfl
@[simp] theorem State.updFacet_tokens (s : State) (f : Nat) (u : Facet → Facet) : (s.updFacet f u).tokens = s.tokens := rfl
@[simp] theorem State.updFacet_hwFault (s : State) (f : Nat) (u : Facet → Facet) : (s.updFacet f u).hwFault = s.hwFault := rfl

/-! `updCtx` -/
@[simp] theorem State.updCtx_pkg (s : State) (c : Nat) (u : Ctx → Ctx) : (s.updCtx c u).pkg = s.pkg := rfl
@[simp] theorem State.updCtx_powered (s : State) (c : Nat) (u : Ctx → Ctx) : (s.updCtx c u).powered = s.powered := rfl
@[simp] theorem State.updCtx_cycle (s : State) (c : Nat) (u : Ctx → Ctx) : (s.updCtx c u).cycle = s.cycle := rfl
@[simp] theorem State.updCtx_time (s : State) (c : Nat) (u : Ctx → Ctx) : (s.updCtx c u).time = s.time := rfl
@[simp] theorem State.updCtx_cur (s : State) (c : Nat) (u : Ctx → Ctx) : (s.updCtx c u).cur = s.cur := rfl
@[simp] theorem State.updCtx_cores (s : State) (c : Nat) (u : Ctx → Ctx) : (s.updCtx c u).cores = s.cores := rfl
@[simp] theorem State.updCtx_mem (s : State) (c : Nat) (u : Ctx → Ctx) : (s.updCtx c u).mem = s.mem := rfl
@[simp] theorem State.updCtx_facets (s : State) (c : Nat) (u : Ctx → Ctx) : (s.updCtx c u).facets = s.facets := rfl
@[simp] theorem State.updCtx_hub (s : State) (c : Nat) (u : Ctx → Ctx) : (s.updCtx c u).hub = s.hub := rfl
@[simp] theorem State.updCtx_fabric (s : State) (c : Nat) (u : Ctx → Ctx) : (s.updCtx c u).fabric = s.fabric := rfl
@[simp] theorem State.updCtx_tasks (s : State) (c : Nat) (u : Ctx → Ctx) : (s.updCtx c u).tasks = s.tasks := rfl
@[simp] theorem State.updCtx_nextTask (s : State) (c : Nat) (u : Ctx → Ctx) : (s.updCtx c u).nextTask = s.nextTask := rfl
@[simp] theorem State.updCtx_launches (s : State) (c : Nat) (u : Ctx → Ctx) : (s.updCtx c u).launches = s.launches := rfl
@[simp] theorem State.updCtx_nextLaunch (s : State) (c : Nat) (u : Ctx → Ctx) : (s.updCtx c u).nextLaunch = s.nextLaunch := rfl
@[simp] theorem State.updCtx_queues (s : State) (c : Nat) (u : Ctx → Ctx) : (s.updCtx c u).queues = s.queues := rfl
@[simp] theorem State.updCtx_harts (s : State) (c : Nat) (u : Ctx → Ctx) : (s.updCtx c u).harts = s.harts := rfl
@[simp] theorem State.updCtx_agenda (s : State) (c : Nat) (u : Ctx → Ctx) : (s.updCtx c u).agenda = s.agenda := rfl
@[simp] theorem State.updCtx_watches (s : State) (c : Nat) (u : Ctx → Ctx) : (s.updCtx c u).watches = s.watches := rfl
@[simp] theorem State.updCtx_events (s : State) (c : Nat) (u : Ctx → Ctx) : (s.updCtx c u).events = s.events := rfl
@[simp] theorem State.updCtx_draws (s : State) (c : Nat) (u : Ctx → Ctx) : (s.updCtx c u).draws = s.draws := rfl
@[simp] theorem State.updCtx_tokens (s : State) (c : Nat) (u : Ctx → Ctx) : (s.updCtx c u).tokens = s.tokens := rfl
@[simp] theorem State.updCtx_hwFault (s : State) (c : Nat) (u : Ctx → Ctx) : (s.updCtx c u).hwFault = s.hwFault := rfl

/-! `updTask` -/
@[simp] theorem State.updTask_pkg (s : State) (t : Nat) (u : Task → Task) : (s.updTask t u).pkg = s.pkg := rfl
@[simp] theorem State.updTask_powered (s : State) (t : Nat) (u : Task → Task) : (s.updTask t u).powered = s.powered := rfl
@[simp] theorem State.updTask_cycle (s : State) (t : Nat) (u : Task → Task) : (s.updTask t u).cycle = s.cycle := rfl
@[simp] theorem State.updTask_time (s : State) (t : Nat) (u : Task → Task) : (s.updTask t u).time = s.time := rfl
@[simp] theorem State.updTask_cur (s : State) (t : Nat) (u : Task → Task) : (s.updTask t u).cur = s.cur := rfl
@[simp] theorem State.updTask_cores (s : State) (t : Nat) (u : Task → Task) : (s.updTask t u).cores = s.cores := rfl
@[simp] theorem State.updTask_mem (s : State) (t : Nat) (u : Task → Task) : (s.updTask t u).mem = s.mem := rfl
@[simp] theorem State.updTask_facets (s : State) (t : Nat) (u : Task → Task) : (s.updTask t u).facets = s.facets := rfl
@[simp] theorem State.updTask_hub (s : State) (t : Nat) (u : Task → Task) : (s.updTask t u).hub = s.hub := rfl
@[simp] theorem State.updTask_fabric (s : State) (t : Nat) (u : Task → Task) : (s.updTask t u).fabric = s.fabric := rfl
@[simp] theorem State.updTask_ctxs (s : State) (t : Nat) (u : Task → Task) : (s.updTask t u).ctxs = s.ctxs := rfl
@[simp] theorem State.updTask_nextTask (s : State) (t : Nat) (u : Task → Task) : (s.updTask t u).nextTask = s.nextTask := rfl
@[simp] theorem State.updTask_launches (s : State) (t : Nat) (u : Task → Task) : (s.updTask t u).launches = s.launches := rfl
@[simp] theorem State.updTask_nextLaunch (s : State) (t : Nat) (u : Task → Task) : (s.updTask t u).nextLaunch = s.nextLaunch := rfl
@[simp] theorem State.updTask_queues (s : State) (t : Nat) (u : Task → Task) : (s.updTask t u).queues = s.queues := rfl
@[simp] theorem State.updTask_harts (s : State) (t : Nat) (u : Task → Task) : (s.updTask t u).harts = s.harts := rfl
@[simp] theorem State.updTask_agenda (s : State) (t : Nat) (u : Task → Task) : (s.updTask t u).agenda = s.agenda := rfl
@[simp] theorem State.updTask_watches (s : State) (t : Nat) (u : Task → Task) : (s.updTask t u).watches = s.watches := rfl
@[simp] theorem State.updTask_events (s : State) (t : Nat) (u : Task → Task) : (s.updTask t u).events = s.events := rfl
@[simp] theorem State.updTask_draws (s : State) (t : Nat) (u : Task → Task) : (s.updTask t u).draws = s.draws := rfl
@[simp] theorem State.updTask_tokens (s : State) (t : Nat) (u : Task → Task) : (s.updTask t u).tokens = s.tokens := rfl
@[simp] theorem State.updTask_hwFault (s : State) (t : Nat) (u : Task → Task) : (s.updTask t u).hwFault = s.hwFault := rfl

/-! `updLaunch` -/
@[simp] theorem State.updLaunch_pkg (s : State) (l : Nat) (u : Launch → Launch) : (s.updLaunch l u).pkg = s.pkg := rfl
@[simp] theorem State.updLaunch_powered (s : State) (l : Nat) (u : Launch → Launch) : (s.updLaunch l u).powered = s.powered := rfl
@[simp] theorem State.updLaunch_cycle (s : State) (l : Nat) (u : Launch → Launch) : (s.updLaunch l u).cycle = s.cycle := rfl
@[simp] theorem State.updLaunch_time (s : State) (l : Nat) (u : Launch → Launch) : (s.updLaunch l u).time = s.time := rfl
@[simp] theorem State.updLaunch_cur (s : State) (l : Nat) (u : Launch → Launch) : (s.updLaunch l u).cur = s.cur := rfl
@[simp] theorem State.updLaunch_cores (s : State) (l : Nat) (u : Launch → Launch) : (s.updLaunch l u).cores = s.cores := rfl
@[simp] theorem State.updLaunch_mem (s : State) (l : Nat) (u : Launch → Launch) : (s.updLaunch l u).mem = s.mem := rfl
@[simp] theorem State.updLaunch_facets (s : State) (l : Nat) (u : Launch → Launch) : (s.updLaunch l u).facets = s.facets := rfl
@[simp] theorem State.updLaunch_hub (s : State) (l : Nat) (u : Launch → Launch) : (s.updLaunch l u).hub = s.hub := rfl
@[simp] theorem State.updLaunch_fabric (s : State) (l : Nat) (u : Launch → Launch) : (s.updLaunch l u).fabric = s.fabric := rfl
@[simp] theorem State.updLaunch_ctxs (s : State) (l : Nat) (u : Launch → Launch) : (s.updLaunch l u).ctxs = s.ctxs := rfl
@[simp] theorem State.updLaunch_tasks (s : State) (l : Nat) (u : Launch → Launch) : (s.updLaunch l u).tasks = s.tasks := rfl
@[simp] theorem State.updLaunch_nextTask (s : State) (l : Nat) (u : Launch → Launch) : (s.updLaunch l u).nextTask = s.nextTask := rfl
@[simp] theorem State.updLaunch_nextLaunch (s : State) (l : Nat) (u : Launch → Launch) : (s.updLaunch l u).nextLaunch = s.nextLaunch := rfl
@[simp] theorem State.updLaunch_queues (s : State) (l : Nat) (u : Launch → Launch) : (s.updLaunch l u).queues = s.queues := rfl
@[simp] theorem State.updLaunch_harts (s : State) (l : Nat) (u : Launch → Launch) : (s.updLaunch l u).harts = s.harts := rfl
@[simp] theorem State.updLaunch_agenda (s : State) (l : Nat) (u : Launch → Launch) : (s.updLaunch l u).agenda = s.agenda := rfl
@[simp] theorem State.updLaunch_watches (s : State) (l : Nat) (u : Launch → Launch) : (s.updLaunch l u).watches = s.watches := rfl
@[simp] theorem State.updLaunch_events (s : State) (l : Nat) (u : Launch → Launch) : (s.updLaunch l u).events = s.events := rfl
@[simp] theorem State.updLaunch_draws (s : State) (l : Nat) (u : Launch → Launch) : (s.updLaunch l u).draws = s.draws := rfl
@[simp] theorem State.updLaunch_tokens (s : State) (l : Nat) (u : Launch → Launch) : (s.updLaunch l u).tokens = s.tokens := rfl
@[simp] theorem State.updLaunch_hwFault (s : State) (l : Nat) (u : Launch → Launch) : (s.updLaunch l u).hwFault = s.hwFault := rfl

/-! `updSubq` -/
@[simp] theorem State.updSubq_pkg (s : State) (q : Nat) (u : SubQ → SubQ) : (s.updSubq q u).pkg = s.pkg := rfl
@[simp] theorem State.updSubq_powered (s : State) (q : Nat) (u : SubQ → SubQ) : (s.updSubq q u).powered = s.powered := rfl
@[simp] theorem State.updSubq_cycle (s : State) (q : Nat) (u : SubQ → SubQ) : (s.updSubq q u).cycle = s.cycle := rfl
@[simp] theorem State.updSubq_time (s : State) (q : Nat) (u : SubQ → SubQ) : (s.updSubq q u).time = s.time := rfl
@[simp] theorem State.updSubq_cur (s : State) (q : Nat) (u : SubQ → SubQ) : (s.updSubq q u).cur = s.cur := rfl
@[simp] theorem State.updSubq_cores (s : State) (q : Nat) (u : SubQ → SubQ) : (s.updSubq q u).cores = s.cores := rfl
@[simp] theorem State.updSubq_mem (s : State) (q : Nat) (u : SubQ → SubQ) : (s.updSubq q u).mem = s.mem := rfl
@[simp] theorem State.updSubq_facets (s : State) (q : Nat) (u : SubQ → SubQ) : (s.updSubq q u).facets = s.facets := rfl
@[simp] theorem State.updSubq_hub (s : State) (q : Nat) (u : SubQ → SubQ) : (s.updSubq q u).hub = s.hub := rfl
@[simp] theorem State.updSubq_fabric (s : State) (q : Nat) (u : SubQ → SubQ) : (s.updSubq q u).fabric = s.fabric := rfl
@[simp] theorem State.updSubq_ctxs (s : State) (q : Nat) (u : SubQ → SubQ) : (s.updSubq q u).ctxs = s.ctxs := rfl
@[simp] theorem State.updSubq_tasks (s : State) (q : Nat) (u : SubQ → SubQ) : (s.updSubq q u).tasks = s.tasks := rfl
@[simp] theorem State.updSubq_nextTask (s : State) (q : Nat) (u : SubQ → SubQ) : (s.updSubq q u).nextTask = s.nextTask := rfl
@[simp] theorem State.updSubq_launches (s : State) (q : Nat) (u : SubQ → SubQ) : (s.updSubq q u).launches = s.launches := rfl
@[simp] theorem State.updSubq_nextLaunch (s : State) (q : Nat) (u : SubQ → SubQ) : (s.updSubq q u).nextLaunch = s.nextLaunch := rfl
@[simp] theorem State.updSubq_harts (s : State) (q : Nat) (u : SubQ → SubQ) : (s.updSubq q u).harts = s.harts := rfl
@[simp] theorem State.updSubq_agenda (s : State) (q : Nat) (u : SubQ → SubQ) : (s.updSubq q u).agenda = s.agenda := rfl
@[simp] theorem State.updSubq_watches (s : State) (q : Nat) (u : SubQ → SubQ) : (s.updSubq q u).watches = s.watches := rfl
@[simp] theorem State.updSubq_events (s : State) (q : Nat) (u : SubQ → SubQ) : (s.updSubq q u).events = s.events := rfl
@[simp] theorem State.updSubq_draws (s : State) (q : Nat) (u : SubQ → SubQ) : (s.updSubq q u).draws = s.draws := rfl
@[simp] theorem State.updSubq_tokens (s : State) (q : Nat) (u : SubQ → SubQ) : (s.updSubq q u).tokens = s.tokens := rfl
@[simp] theorem State.updSubq_hwFault (s : State) (q : Nat) (u : SubQ → SubQ) : (s.updSubq q u).hwFault = s.hwFault := rfl

/-! `updHart` -/
@[simp] theorem State.updHart_pkg (s : State) (h : Nat) (u : Hart → Hart) : (s.updHart h u).pkg = s.pkg := rfl
@[simp] theorem State.updHart_powered (s : State) (h : Nat) (u : Hart → Hart) : (s.updHart h u).powered = s.powered := rfl
@[simp] theorem State.updHart_cycle (s : State) (h : Nat) (u : Hart → Hart) : (s.updHart h u).cycle = s.cycle := rfl
@[simp] theorem State.updHart_time (s : State) (h : Nat) (u : Hart → Hart) : (s.updHart h u).time = s.time := rfl
@[simp] theorem State.updHart_cur (s : State) (h : Nat) (u : Hart → Hart) : (s.updHart h u).cur = s.cur := rfl
@[simp] theorem State.updHart_cores (s : State) (h : Nat) (u : Hart → Hart) : (s.updHart h u).cores = s.cores := rfl
@[simp] theorem State.updHart_mem (s : State) (h : Nat) (u : Hart → Hart) : (s.updHart h u).mem = s.mem := rfl
@[simp] theorem State.updHart_facets (s : State) (h : Nat) (u : Hart → Hart) : (s.updHart h u).facets = s.facets := rfl
@[simp] theorem State.updHart_hub (s : State) (h : Nat) (u : Hart → Hart) : (s.updHart h u).hub = s.hub := rfl
@[simp] theorem State.updHart_fabric (s : State) (h : Nat) (u : Hart → Hart) : (s.updHart h u).fabric = s.fabric := rfl
@[simp] theorem State.updHart_ctxs (s : State) (h : Nat) (u : Hart → Hart) : (s.updHart h u).ctxs = s.ctxs := rfl
@[simp] theorem State.updHart_tasks (s : State) (h : Nat) (u : Hart → Hart) : (s.updHart h u).tasks = s.tasks := rfl
@[simp] theorem State.updHart_nextTask (s : State) (h : Nat) (u : Hart → Hart) : (s.updHart h u).nextTask = s.nextTask := rfl
@[simp] theorem State.updHart_launches (s : State) (h : Nat) (u : Hart → Hart) : (s.updHart h u).launches = s.launches := rfl
@[simp] theorem State.updHart_nextLaunch (s : State) (h : Nat) (u : Hart → Hart) : (s.updHart h u).nextLaunch = s.nextLaunch := rfl
@[simp] theorem State.updHart_queues (s : State) (h : Nat) (u : Hart → Hart) : (s.updHart h u).queues = s.queues := rfl
@[simp] theorem State.updHart_agenda (s : State) (h : Nat) (u : Hart → Hart) : (s.updHart h u).agenda = s.agenda := rfl
@[simp] theorem State.updHart_watches (s : State) (h : Nat) (u : Hart → Hart) : (s.updHart h u).watches = s.watches := rfl
@[simp] theorem State.updHart_events (s : State) (h : Nat) (u : Hart → Hart) : (s.updHart h u).events = s.events := rfl
@[simp] theorem State.updHart_draws (s : State) (h : Nat) (u : Hart → Hart) : (s.updHart h u).draws = s.draws := rfl
@[simp] theorem State.updHart_tokens (s : State) (h : Nat) (u : Hart → Hart) : (s.updHart h u).tokens = s.tokens := rfl
@[simp] theorem State.updHart_hwFault (s : State) (h : Nat) (u : Hart → Hart) : (s.updHart h u).hwFault = s.hwFault := rfl

/-! `updHub` -/
@[simp] theorem State.updHub_pkg (s : State) (u : Hub → Hub) : (s.updHub u).pkg = s.pkg := rfl
@[simp] theorem State.updHub_powered (s : State) (u : Hub → Hub) : (s.updHub u).powered = s.powered := rfl
@[simp] theorem State.updHub_cycle (s : State) (u : Hub → Hub) : (s.updHub u).cycle = s.cycle := rfl
@[simp] theorem State.updHub_time (s : State) (u : Hub → Hub) : (s.updHub u).time = s.time := rfl
@[simp] theorem State.updHub_cur (s : State) (u : Hub → Hub) : (s.updHub u).cur = s.cur := rfl
@[simp] theorem State.updHub_cores (s : State) (u : Hub → Hub) : (s.updHub u).cores = s.cores := rfl
@[simp] theorem State.updHub_mem (s : State) (u : Hub → Hub) : (s.updHub u).mem = s.mem := rfl
@[simp] theorem State.updHub_facets (s : State) (u : Hub → Hub) : (s.updHub u).facets = s.facets := rfl
@[simp] theorem State.updHub_fabric (s : State) (u : Hub → Hub) : (s.updHub u).fabric = s.fabric := rfl
@[simp] theorem State.updHub_ctxs (s : State) (u : Hub → Hub) : (s.updHub u).ctxs = s.ctxs := rfl
@[simp] theorem State.updHub_tasks (s : State) (u : Hub → Hub) : (s.updHub u).tasks = s.tasks := rfl
@[simp] theorem State.updHub_nextTask (s : State) (u : Hub → Hub) : (s.updHub u).nextTask = s.nextTask := rfl
@[simp] theorem State.updHub_launches (s : State) (u : Hub → Hub) : (s.updHub u).launches = s.launches := rfl
@[simp] theorem State.updHub_nextLaunch (s : State) (u : Hub → Hub) : (s.updHub u).nextLaunch = s.nextLaunch := rfl
@[simp] theorem State.updHub_queues (s : State) (u : Hub → Hub) : (s.updHub u).queues = s.queues := rfl
@[simp] theorem State.updHub_harts (s : State) (u : Hub → Hub) : (s.updHub u).harts = s.harts := rfl
@[simp] theorem State.updHub_agenda (s : State) (u : Hub → Hub) : (s.updHub u).agenda = s.agenda := rfl
@[simp] theorem State.updHub_watches (s : State) (u : Hub → Hub) : (s.updHub u).watches = s.watches := rfl
@[simp] theorem State.updHub_events (s : State) (u : Hub → Hub) : (s.updHub u).events = s.events := rfl
@[simp] theorem State.updHub_draws (s : State) (u : Hub → Hub) : (s.updHub u).draws = s.draws := rfl
@[simp] theorem State.updHub_tokens (s : State) (u : Hub → Hub) : (s.updHub u).tokens = s.tokens := rfl
@[simp] theorem State.updHub_hwFault (s : State) (u : Hub → Hub) : (s.updHub u).hwFault = s.hwFault := rfl

/-! `updFabric` -/
@[simp] theorem State.updFabric_pkg (s : State) (u : Fabric → Fabric) : (s.updFabric u).pkg = s.pkg := rfl
@[simp] theorem State.updFabric_powered (s : State) (u : Fabric → Fabric) : (s.updFabric u).powered = s.powered := rfl
@[simp] theorem State.updFabric_cycle (s : State) (u : Fabric → Fabric) : (s.updFabric u).cycle = s.cycle := rfl
@[simp] theorem State.updFabric_time (s : State) (u : Fabric → Fabric) : (s.updFabric u).time = s.time := rfl
@[simp] theorem State.updFabric_cur (s : State) (u : Fabric → Fabric) : (s.updFabric u).cur = s.cur := rfl
@[simp] theorem State.updFabric_cores (s : State) (u : Fabric → Fabric) : (s.updFabric u).cores = s.cores := rfl
@[simp] theorem State.updFabric_mem (s : State) (u : Fabric → Fabric) : (s.updFabric u).mem = s.mem := rfl
@[simp] theorem State.updFabric_facets (s : State) (u : Fabric → Fabric) : (s.updFabric u).facets = s.facets := rfl
@[simp] theorem State.updFabric_hub (s : State) (u : Fabric → Fabric) : (s.updFabric u).hub = s.hub := rfl
@[simp] theorem State.updFabric_ctxs (s : State) (u : Fabric → Fabric) : (s.updFabric u).ctxs = s.ctxs := rfl
@[simp] theorem State.updFabric_tasks (s : State) (u : Fabric → Fabric) : (s.updFabric u).tasks = s.tasks := rfl
@[simp] theorem State.updFabric_nextTask (s : State) (u : Fabric → Fabric) : (s.updFabric u).nextTask = s.nextTask := rfl
@[simp] theorem State.updFabric_launches (s : State) (u : Fabric → Fabric) : (s.updFabric u).launches = s.launches := rfl
@[simp] theorem State.updFabric_nextLaunch (s : State) (u : Fabric → Fabric) : (s.updFabric u).nextLaunch = s.nextLaunch := rfl
@[simp] theorem State.updFabric_queues (s : State) (u : Fabric → Fabric) : (s.updFabric u).queues = s.queues := rfl
@[simp] theorem State.updFabric_harts (s : State) (u : Fabric → Fabric) : (s.updFabric u).harts = s.harts := rfl
@[simp] theorem State.updFabric_agenda (s : State) (u : Fabric → Fabric) : (s.updFabric u).agenda = s.agenda := rfl
@[simp] theorem State.updFabric_watches (s : State) (u : Fabric → Fabric) : (s.updFabric u).watches = s.watches := rfl
@[simp] theorem State.updFabric_events (s : State) (u : Fabric → Fabric) : (s.updFabric u).events = s.events := rfl
@[simp] theorem State.updFabric_draws (s : State) (u : Fabric → Fabric) : (s.updFabric u).draws = s.draws := rfl
@[simp] theorem State.updFabric_tokens (s : State) (u : Fabric → Fabric) : (s.updFabric u).tokens = s.tokens := rfl
@[simp] theorem State.updFabric_hwFault (s : State) (u : Fabric → Fabric) : (s.updFabric u).hwFault = s.hwFault := rfl

/-! `setByte` -/
@[simp] theorem State.setByte_pkg (s : State) (k : Nat) (b : BitVec 8) : (s.setByte k b).pkg = s.pkg := rfl
@[simp] theorem State.setByte_powered (s : State) (k : Nat) (b : BitVec 8) : (s.setByte k b).powered = s.powered := rfl
@[simp] theorem State.setByte_cycle (s : State) (k : Nat) (b : BitVec 8) : (s.setByte k b).cycle = s.cycle := rfl
@[simp] theorem State.setByte_time (s : State) (k : Nat) (b : BitVec 8) : (s.setByte k b).time = s.time := rfl
@[simp] theorem State.setByte_cur (s : State) (k : Nat) (b : BitVec 8) : (s.setByte k b).cur = s.cur := rfl
@[simp] theorem State.setByte_cores (s : State) (k : Nat) (b : BitVec 8) : (s.setByte k b).cores = s.cores := rfl
@[simp] theorem State.setByte_facets (s : State) (k : Nat) (b : BitVec 8) : (s.setByte k b).facets = s.facets := rfl
@[simp] theorem State.setByte_hub (s : State) (k : Nat) (b : BitVec 8) : (s.setByte k b).hub = s.hub := rfl
@[simp] theorem State.setByte_fabric (s : State) (k : Nat) (b : BitVec 8) : (s.setByte k b).fabric = s.fabric := rfl
@[simp] theorem State.setByte_ctxs (s : State) (k : Nat) (b : BitVec 8) : (s.setByte k b).ctxs = s.ctxs := rfl
@[simp] theorem State.setByte_tasks (s : State) (k : Nat) (b : BitVec 8) : (s.setByte k b).tasks = s.tasks := rfl
@[simp] theorem State.setByte_nextTask (s : State) (k : Nat) (b : BitVec 8) : (s.setByte k b).nextTask = s.nextTask := rfl
@[simp] theorem State.setByte_launches (s : State) (k : Nat) (b : BitVec 8) : (s.setByte k b).launches = s.launches := rfl
@[simp] theorem State.setByte_nextLaunch (s : State) (k : Nat) (b : BitVec 8) : (s.setByte k b).nextLaunch = s.nextLaunch := rfl
@[simp] theorem State.setByte_queues (s : State) (k : Nat) (b : BitVec 8) : (s.setByte k b).queues = s.queues := rfl
@[simp] theorem State.setByte_harts (s : State) (k : Nat) (b : BitVec 8) : (s.setByte k b).harts = s.harts := rfl
@[simp] theorem State.setByte_agenda (s : State) (k : Nat) (b : BitVec 8) : (s.setByte k b).agenda = s.agenda := rfl
@[simp] theorem State.setByte_watches (s : State) (k : Nat) (b : BitVec 8) : (s.setByte k b).watches = s.watches := rfl
@[simp] theorem State.setByte_events (s : State) (k : Nat) (b : BitVec 8) : (s.setByte k b).events = s.events := rfl
@[simp] theorem State.setByte_draws (s : State) (k : Nat) (b : BitVec 8) : (s.setByte k b).draws = s.draws := rfl
@[simp] theorem State.setByte_tokens (s : State) (k : Nat) (b : BitVec 8) : (s.setByte k b).tokens = s.tokens := rfl
@[simp] theorem State.setByte_hwFault (s : State) (k : Nat) (b : BitVec 8) : (s.setByte k b).hwFault = s.hwFault := rfl

/-! Reads through accessors. -/
@[simp] theorem State.drawn_byteAt (s : State) (key : Nat) : (s.drawn).byteAt key = s.byteAt key := rfl
@[simp] theorem State.drawn_memWf (s : State) : (s.drawn).memWf = s.memWf := rfl
@[simp] theorem State.drawn_core (s : State) (i : Nat) : (s.drawn).core i = s.core i := rfl
@[simp] theorem State.drawn_quadOf (s : State) (i j : Nat) : (s.drawn).quadOf i j = s.quadOf i j := rfl
@[simp] theorem State.drawn_facet (s : State) (i : Nat) : (s.drawn).facet i = s.facet i := rfl
@[simp] theorem State.drawn_ctx (s : State) (i : Nat) : (s.drawn).ctx i = s.ctx i := rfl
@[simp] theorem State.drawn_task (s : State) (i : Nat) : (s.drawn).task i = s.task i := rfl
@[simp] theorem State.drawn_launch (s : State) (i : Nat) : (s.drawn).launch i = s.launch i := rfl
@[simp] theorem State.drawn_subq (s : State) (i : Nat) : (s.drawn).subq i = s.subq i := rfl
@[simp] theorem State.drawn_hart (s : State) (i : Nat) : (s.drawn).hart i = s.hart i := rfl
@[simp] theorem State.drawn_feat (s : State) (i : Nat) : (s.drawn).feat i = s.feat i := rfl
@[simp] theorem State.newToken_byteAt (s : State) (key : Nat) : (s.newToken).byteAt key = s.byteAt key := rfl
@[simp] theorem State.newToken_memWf (s : State) : (s.newToken).memWf = s.memWf := rfl
@[simp] theorem State.newToken_core (s : State) (i : Nat) : (s.newToken).core i = s.core i := rfl
@[simp] theorem State.newToken_quadOf (s : State) (i j : Nat) : (s.newToken).quadOf i j = s.quadOf i j := rfl
@[simp] theorem State.newToken_facet (s : State) (i : Nat) : (s.newToken).facet i = s.facet i := rfl
@[simp] theorem State.newToken_ctx (s : State) (i : Nat) : (s.newToken).ctx i = s.ctx i := rfl
@[simp] theorem State.newToken_task (s : State) (i : Nat) : (s.newToken).task i = s.task i := rfl
@[simp] theorem State.newToken_launch (s : State) (i : Nat) : (s.newToken).launch i = s.launch i := rfl
@[simp] theorem State.newToken_subq (s : State) (i : Nat) : (s.newToken).subq i = s.subq i := rfl
@[simp] theorem State.newToken_hart (s : State) (i : Nat) : (s.newToken).hart i = s.hart i := rfl
@[simp] theorem State.newToken_feat (s : State) (i : Nat) : (s.newToken).feat i = s.feat i := rfl
@[simp] theorem State.event_byteAt (s : State) (e : SupEvent) (key : Nat) : (s.event e).byteAt key = s.byteAt key := rfl
@[simp] theorem State.event_memWf (s : State) (e : SupEvent) : (s.event e).memWf = s.memWf := rfl
@[simp] theorem State.event_core (s : State) (e : SupEvent) (i : Nat) : (s.event e).core i = s.core i := rfl
@[simp] theorem State.event_quadOf (s : State) (e : SupEvent) (i j : Nat) : (s.event e).quadOf i j = s.quadOf i j := rfl
@[simp] theorem State.event_facet (s : State) (e : SupEvent) (i : Nat) : (s.event e).facet i = s.facet i := rfl
@[simp] theorem State.event_ctx (s : State) (e : SupEvent) (i : Nat) : (s.event e).ctx i = s.ctx i := rfl
@[simp] theorem State.event_task (s : State) (e : SupEvent) (i : Nat) : (s.event e).task i = s.task i := rfl
@[simp] theorem State.event_launch (s : State) (e : SupEvent) (i : Nat) : (s.event e).launch i = s.launch i := rfl
@[simp] theorem State.event_subq (s : State) (e : SupEvent) (i : Nat) : (s.event e).subq i = s.subq i := rfl
@[simp] theorem State.event_hart (s : State) (e : SupEvent) (i : Nat) : (s.event e).hart i = s.hart i := rfl
@[simp] theorem State.event_feat (s : State) (e : SupEvent) (i : Nat) : (s.event e).feat i = s.feat i := rfl
@[simp] theorem State.setCore_byteAt (s : State) (c : Nat) (x : Core) (key : Nat) : (s.setCore c x).byteAt key = s.byteAt key := rfl
@[simp] theorem State.setCore_memWf (s : State) (c : Nat) (x : Core) : (s.setCore c x).memWf = s.memWf := rfl
@[simp] theorem State.setCore_facet (s : State) (c : Nat) (x : Core) (i : Nat) : (s.setCore c x).facet i = s.facet i := rfl
@[simp] theorem State.setCore_ctx (s : State) (c : Nat) (x : Core) (i : Nat) : (s.setCore c x).ctx i = s.ctx i := rfl
@[simp] theorem State.setCore_task (s : State) (c : Nat) (x : Core) (i : Nat) : (s.setCore c x).task i = s.task i := rfl
@[simp] theorem State.setCore_launch (s : State) (c : Nat) (x : Core) (i : Nat) : (s.setCore c x).launch i = s.launch i := rfl
@[simp] theorem State.setCore_subq (s : State) (c : Nat) (x : Core) (i : Nat) : (s.setCore c x).subq i = s.subq i := rfl
@[simp] theorem State.setCore_hart (s : State) (c : Nat) (x : Core) (i : Nat) : (s.setCore c x).hart i = s.hart i := rfl
@[simp] theorem State.setCore_feat (s : State) (c : Nat) (x : Core) (i : Nat) : (s.setCore c x).feat i = s.feat i := rfl
@[simp] theorem State.updCore_byteAt (s : State) (c : Nat) (f : Core → Core) (key : Nat) : (s.updCore c f).byteAt key = s.byteAt key := rfl
@[simp] theorem State.updCore_memWf (s : State) (c : Nat) (f : Core → Core) : (s.updCore c f).memWf = s.memWf := rfl
@[simp] theorem State.updCore_facet (s : State) (c : Nat) (f : Core → Core) (i : Nat) : (s.updCore c f).facet i = s.facet i := rfl
@[simp] theorem State.updCore_ctx (s : State) (c : Nat) (f : Core → Core) (i : Nat) : (s.updCore c f).ctx i = s.ctx i := rfl
@[simp] theorem State.updCore_task (s : State) (c : Nat) (f : Core → Core) (i : Nat) : (s.updCore c f).task i = s.task i := rfl
@[simp] theorem State.updCore_launch (s : State) (c : Nat) (f : Core → Core) (i : Nat) : (s.updCore c f).launch i = s.launch i := rfl
@[simp] theorem State.updCore_subq (s : State) (c : Nat) (f : Core → Core) (i : Nat) : (s.updCore c f).subq i = s.subq i := rfl
@[simp] theorem State.updCore_hart (s : State) (c : Nat) (f : Core → Core) (i : Nat) : (s.updCore c f).hart i = s.hart i := rfl
@[simp] theorem State.updCore_feat (s : State) (c : Nat) (f : Core → Core) (i : Nat) : (s.updCore c f).feat i = s.feat i := rfl
@[simp] theorem State.updQuad_byteAt (s : State) (c q : Nat) (f : Quad → Quad) (key : Nat) : (s.updQuad c q f).byteAt key = s.byteAt key := rfl
@[simp] theorem State.updQuad_memWf (s : State) (c q : Nat) (f : Quad → Quad) : (s.updQuad c q f).memWf = s.memWf := rfl
@[simp] theorem State.updQuad_facet (s : State) (c q : Nat) (f : Quad → Quad) (i : Nat) : (s.updQuad c q f).facet i = s.facet i := rfl
@[simp] theorem State.updQuad_ctx (s : State) (c q : Nat) (f : Quad → Quad) (i : Nat) : (s.updQuad c q f).ctx i = s.ctx i := rfl
@[simp] theorem State.updQuad_task (s : State) (c q : Nat) (f : Quad → Quad) (i : Nat) : (s.updQuad c q f).task i = s.task i := rfl
@[simp] theorem State.updQuad_launch (s : State) (c q : Nat) (f : Quad → Quad) (i : Nat) : (s.updQuad c q f).launch i = s.launch i := rfl
@[simp] theorem State.updQuad_subq (s : State) (c q : Nat) (f : Quad → Quad) (i : Nat) : (s.updQuad c q f).subq i = s.subq i := rfl
@[simp] theorem State.updQuad_hart (s : State) (c q : Nat) (f : Quad → Quad) (i : Nat) : (s.updQuad c q f).hart i = s.hart i := rfl
@[simp] theorem State.updQuad_feat (s : State) (c q : Nat) (f : Quad → Quad) (i : Nat) : (s.updQuad c q f).feat i = s.feat i := rfl
@[simp] theorem State.updMe_byteAt (s : State) (f : Quad → Quad) (key : Nat) : (s.updMe f).byteAt key = s.byteAt key := rfl
@[simp] theorem State.updMe_memWf (s : State) (f : Quad → Quad) : (s.updMe f).memWf = s.memWf := rfl
@[simp] theorem State.updMe_facet (s : State) (f : Quad → Quad) (i : Nat) : (s.updMe f).facet i = s.facet i := rfl
@[simp] theorem State.updMe_ctx (s : State) (f : Quad → Quad) (i : Nat) : (s.updMe f).ctx i = s.ctx i := rfl
@[simp] theorem State.updMe_task (s : State) (f : Quad → Quad) (i : Nat) : (s.updMe f).task i = s.task i := rfl
@[simp] theorem State.updMe_launch (s : State) (f : Quad → Quad) (i : Nat) : (s.updMe f).launch i = s.launch i := rfl
@[simp] theorem State.updMe_subq (s : State) (f : Quad → Quad) (i : Nat) : (s.updMe f).subq i = s.subq i := rfl
@[simp] theorem State.updMe_hart (s : State) (f : Quad → Quad) (i : Nat) : (s.updMe f).hart i = s.hart i := rfl
@[simp] theorem State.updMe_feat (s : State) (f : Quad → Quad) (i : Nat) : (s.updMe f).feat i = s.feat i := rfl
@[simp] theorem State.updMyCore_byteAt (s : State) (f : Core → Core) (key : Nat) : (s.updMyCore f).byteAt key = s.byteAt key := rfl
@[simp] theorem State.updMyCore_memWf (s : State) (f : Core → Core) : (s.updMyCore f).memWf = s.memWf := rfl
@[simp] theorem State.updMyCore_facet (s : State) (f : Core → Core) (i : Nat) : (s.updMyCore f).facet i = s.facet i := rfl
@[simp] theorem State.updMyCore_ctx (s : State) (f : Core → Core) (i : Nat) : (s.updMyCore f).ctx i = s.ctx i := rfl
@[simp] theorem State.updMyCore_task (s : State) (f : Core → Core) (i : Nat) : (s.updMyCore f).task i = s.task i := rfl
@[simp] theorem State.updMyCore_launch (s : State) (f : Core → Core) (i : Nat) : (s.updMyCore f).launch i = s.launch i := rfl
@[simp] theorem State.updMyCore_subq (s : State) (f : Core → Core) (i : Nat) : (s.updMyCore f).subq i = s.subq i := rfl
@[simp] theorem State.updMyCore_hart (s : State) (f : Core → Core) (i : Nat) : (s.updMyCore f).hart i = s.hart i := rfl
@[simp] theorem State.updMyCore_feat (s : State) (f : Core → Core) (i : Nat) : (s.updMyCore f).feat i = s.feat i := rfl
@[simp] theorem State.updChan_byteAt (s : State) (c k : Nat) (f : Chan → Chan) (key : Nat) : (s.updChan c k f).byteAt key = s.byteAt key := rfl
@[simp] theorem State.updChan_memWf (s : State) (c k : Nat) (f : Chan → Chan) : (s.updChan c k f).memWf = s.memWf := rfl
@[simp] theorem State.updChan_facet (s : State) (c k : Nat) (f : Chan → Chan) (i : Nat) : (s.updChan c k f).facet i = s.facet i := rfl
@[simp] theorem State.updChan_ctx (s : State) (c k : Nat) (f : Chan → Chan) (i : Nat) : (s.updChan c k f).ctx i = s.ctx i := rfl
@[simp] theorem State.updChan_task (s : State) (c k : Nat) (f : Chan → Chan) (i : Nat) : (s.updChan c k f).task i = s.task i := rfl
@[simp] theorem State.updChan_launch (s : State) (c k : Nat) (f : Chan → Chan) (i : Nat) : (s.updChan c k f).launch i = s.launch i := rfl
@[simp] theorem State.updChan_subq (s : State) (c k : Nat) (f : Chan → Chan) (i : Nat) : (s.updChan c k f).subq i = s.subq i := rfl
@[simp] theorem State.updChan_hart (s : State) (c k : Nat) (f : Chan → Chan) (i : Nat) : (s.updChan c k f).hart i = s.hart i := rfl
@[simp] theorem State.updChan_feat (s : State) (c k : Nat) (f : Chan → Chan) (i : Nat) : (s.updChan c k f).feat i = s.feat i := rfl
@[simp] theorem State.updFacet_byteAt (s : State) (f : Nat) (u : Facet → Facet) (key : Nat) : (s.updFacet f u).byteAt key = s.byteAt key := rfl
@[simp] theorem State.updFacet_memWf (s : State) (f : Nat) (u : Facet → Facet) : (s.updFacet f u).memWf = s.memWf := rfl
@[simp] theorem State.updFacet_core (s : State) (f : Nat) (u : Facet → Facet) (i : Nat) : (s.updFacet f u).core i = s.core i := rfl
@[simp] theorem State.updFacet_quadOf (s : State) (f : Nat) (u : Facet → Facet) (i j : Nat) : (s.updFacet f u).quadOf i j = s.quadOf i j := rfl
@[simp] theorem State.updFacet_ctx (s : State) (f : Nat) (u : Facet → Facet) (i : Nat) : (s.updFacet f u).ctx i = s.ctx i := rfl
@[simp] theorem State.updFacet_task (s : State) (f : Nat) (u : Facet → Facet) (i : Nat) : (s.updFacet f u).task i = s.task i := rfl
@[simp] theorem State.updFacet_launch (s : State) (f : Nat) (u : Facet → Facet) (i : Nat) : (s.updFacet f u).launch i = s.launch i := rfl
@[simp] theorem State.updFacet_subq (s : State) (f : Nat) (u : Facet → Facet) (i : Nat) : (s.updFacet f u).subq i = s.subq i := rfl
@[simp] theorem State.updFacet_hart (s : State) (f : Nat) (u : Facet → Facet) (i : Nat) : (s.updFacet f u).hart i = s.hart i := rfl
@[simp] theorem State.updFacet_feat (s : State) (f : Nat) (u : Facet → Facet) (i : Nat) : (s.updFacet f u).feat i = s.feat i := rfl
@[simp] theorem State.updCtx_byteAt (s : State) (c : Nat) (u : Ctx → Ctx) (key : Nat) : (s.updCtx c u).byteAt key = s.byteAt key := rfl
@[simp] theorem State.updCtx_memWf (s : State) (c : Nat) (u : Ctx → Ctx) : (s.updCtx c u).memWf = s.memWf := rfl
@[simp] theorem State.updCtx_core (s : State) (c : Nat) (u : Ctx → Ctx) (i : Nat) : (s.updCtx c u).core i = s.core i := rfl
@[simp] theorem State.updCtx_quadOf (s : State) (c : Nat) (u : Ctx → Ctx) (i j : Nat) : (s.updCtx c u).quadOf i j = s.quadOf i j := rfl
@[simp] theorem State.updCtx_facet (s : State) (c : Nat) (u : Ctx → Ctx) (i : Nat) : (s.updCtx c u).facet i = s.facet i := rfl
@[simp] theorem State.updCtx_task (s : State) (c : Nat) (u : Ctx → Ctx) (i : Nat) : (s.updCtx c u).task i = s.task i := rfl
@[simp] theorem State.updCtx_launch (s : State) (c : Nat) (u : Ctx → Ctx) (i : Nat) : (s.updCtx c u).launch i = s.launch i := rfl
@[simp] theorem State.updCtx_subq (s : State) (c : Nat) (u : Ctx → Ctx) (i : Nat) : (s.updCtx c u).subq i = s.subq i := rfl
@[simp] theorem State.updCtx_hart (s : State) (c : Nat) (u : Ctx → Ctx) (i : Nat) : (s.updCtx c u).hart i = s.hart i := rfl
@[simp] theorem State.updCtx_feat (s : State) (c : Nat) (u : Ctx → Ctx) (i : Nat) : (s.updCtx c u).feat i = s.feat i := rfl
@[simp] theorem State.updTask_byteAt (s : State) (t : Nat) (u : Task → Task) (key : Nat) : (s.updTask t u).byteAt key = s.byteAt key := rfl
@[simp] theorem State.updTask_memWf (s : State) (t : Nat) (u : Task → Task) : (s.updTask t u).memWf = s.memWf := rfl
@[simp] theorem State.updTask_core (s : State) (t : Nat) (u : Task → Task) (i : Nat) : (s.updTask t u).core i = s.core i := rfl
@[simp] theorem State.updTask_quadOf (s : State) (t : Nat) (u : Task → Task) (i j : Nat) : (s.updTask t u).quadOf i j = s.quadOf i j := rfl
@[simp] theorem State.updTask_facet (s : State) (t : Nat) (u : Task → Task) (i : Nat) : (s.updTask t u).facet i = s.facet i := rfl
@[simp] theorem State.updTask_ctx (s : State) (t : Nat) (u : Task → Task) (i : Nat) : (s.updTask t u).ctx i = s.ctx i := rfl
@[simp] theorem State.updTask_launch (s : State) (t : Nat) (u : Task → Task) (i : Nat) : (s.updTask t u).launch i = s.launch i := rfl
@[simp] theorem State.updTask_subq (s : State) (t : Nat) (u : Task → Task) (i : Nat) : (s.updTask t u).subq i = s.subq i := rfl
@[simp] theorem State.updTask_hart (s : State) (t : Nat) (u : Task → Task) (i : Nat) : (s.updTask t u).hart i = s.hart i := rfl
@[simp] theorem State.updTask_feat (s : State) (t : Nat) (u : Task → Task) (i : Nat) : (s.updTask t u).feat i = s.feat i := rfl
@[simp] theorem State.updLaunch_byteAt (s : State) (l : Nat) (u : Launch → Launch) (key : Nat) : (s.updLaunch l u).byteAt key = s.byteAt key := rfl
@[simp] theorem State.updLaunch_memWf (s : State) (l : Nat) (u : Launch → Launch) : (s.updLaunch l u).memWf = s.memWf := rfl
@[simp] theorem State.updLaunch_core (s : State) (l : Nat) (u : Launch → Launch) (i : Nat) : (s.updLaunch l u).core i = s.core i := rfl
@[simp] theorem State.updLaunch_quadOf (s : State) (l : Nat) (u : Launch → Launch) (i j : Nat) : (s.updLaunch l u).quadOf i j = s.quadOf i j := rfl
@[simp] theorem State.updLaunch_facet (s : State) (l : Nat) (u : Launch → Launch) (i : Nat) : (s.updLaunch l u).facet i = s.facet i := rfl
@[simp] theorem State.updLaunch_ctx (s : State) (l : Nat) (u : Launch → Launch) (i : Nat) : (s.updLaunch l u).ctx i = s.ctx i := rfl
@[simp] theorem State.updLaunch_task (s : State) (l : Nat) (u : Launch → Launch) (i : Nat) : (s.updLaunch l u).task i = s.task i := rfl
@[simp] theorem State.updLaunch_subq (s : State) (l : Nat) (u : Launch → Launch) (i : Nat) : (s.updLaunch l u).subq i = s.subq i := rfl
@[simp] theorem State.updLaunch_hart (s : State) (l : Nat) (u : Launch → Launch) (i : Nat) : (s.updLaunch l u).hart i = s.hart i := rfl
@[simp] theorem State.updLaunch_feat (s : State) (l : Nat) (u : Launch → Launch) (i : Nat) : (s.updLaunch l u).feat i = s.feat i := rfl
@[simp] theorem State.updSubq_byteAt (s : State) (q : Nat) (u : SubQ → SubQ) (key : Nat) : (s.updSubq q u).byteAt key = s.byteAt key := rfl
@[simp] theorem State.updSubq_memWf (s : State) (q : Nat) (u : SubQ → SubQ) : (s.updSubq q u).memWf = s.memWf := rfl
@[simp] theorem State.updSubq_core (s : State) (q : Nat) (u : SubQ → SubQ) (i : Nat) : (s.updSubq q u).core i = s.core i := rfl
@[simp] theorem State.updSubq_quadOf (s : State) (q : Nat) (u : SubQ → SubQ) (i j : Nat) : (s.updSubq q u).quadOf i j = s.quadOf i j := rfl
@[simp] theorem State.updSubq_facet (s : State) (q : Nat) (u : SubQ → SubQ) (i : Nat) : (s.updSubq q u).facet i = s.facet i := rfl
@[simp] theorem State.updSubq_ctx (s : State) (q : Nat) (u : SubQ → SubQ) (i : Nat) : (s.updSubq q u).ctx i = s.ctx i := rfl
@[simp] theorem State.updSubq_task (s : State) (q : Nat) (u : SubQ → SubQ) (i : Nat) : (s.updSubq q u).task i = s.task i := rfl
@[simp] theorem State.updSubq_launch (s : State) (q : Nat) (u : SubQ → SubQ) (i : Nat) : (s.updSubq q u).launch i = s.launch i := rfl
@[simp] theorem State.updSubq_hart (s : State) (q : Nat) (u : SubQ → SubQ) (i : Nat) : (s.updSubq q u).hart i = s.hart i := rfl
@[simp] theorem State.updSubq_feat (s : State) (q : Nat) (u : SubQ → SubQ) (i : Nat) : (s.updSubq q u).feat i = s.feat i := rfl
@[simp] theorem State.updHart_byteAt (s : State) (h : Nat) (u : Hart → Hart) (key : Nat) : (s.updHart h u).byteAt key = s.byteAt key := rfl
@[simp] theorem State.updHart_memWf (s : State) (h : Nat) (u : Hart → Hart) : (s.updHart h u).memWf = s.memWf := rfl
@[simp] theorem State.updHart_core (s : State) (h : Nat) (u : Hart → Hart) (i : Nat) : (s.updHart h u).core i = s.core i := rfl
@[simp] theorem State.updHart_quadOf (s : State) (h : Nat) (u : Hart → Hart) (i j : Nat) : (s.updHart h u).quadOf i j = s.quadOf i j := rfl
@[simp] theorem State.updHart_facet (s : State) (h : Nat) (u : Hart → Hart) (i : Nat) : (s.updHart h u).facet i = s.facet i := rfl
@[simp] theorem State.updHart_ctx (s : State) (h : Nat) (u : Hart → Hart) (i : Nat) : (s.updHart h u).ctx i = s.ctx i := rfl
@[simp] theorem State.updHart_task (s : State) (h : Nat) (u : Hart → Hart) (i : Nat) : (s.updHart h u).task i = s.task i := rfl
@[simp] theorem State.updHart_launch (s : State) (h : Nat) (u : Hart → Hart) (i : Nat) : (s.updHart h u).launch i = s.launch i := rfl
@[simp] theorem State.updHart_subq (s : State) (h : Nat) (u : Hart → Hart) (i : Nat) : (s.updHart h u).subq i = s.subq i := rfl
@[simp] theorem State.updHart_feat (s : State) (h : Nat) (u : Hart → Hart) (i : Nat) : (s.updHart h u).feat i = s.feat i := rfl
@[simp] theorem State.updHub_byteAt (s : State) (u : Hub → Hub) (key : Nat) : (s.updHub u).byteAt key = s.byteAt key := rfl
@[simp] theorem State.updHub_memWf (s : State) (u : Hub → Hub) : (s.updHub u).memWf = s.memWf := rfl
@[simp] theorem State.updHub_core (s : State) (u : Hub → Hub) (i : Nat) : (s.updHub u).core i = s.core i := rfl
@[simp] theorem State.updHub_quadOf (s : State) (u : Hub → Hub) (i j : Nat) : (s.updHub u).quadOf i j = s.quadOf i j := rfl
@[simp] theorem State.updHub_facet (s : State) (u : Hub → Hub) (i : Nat) : (s.updHub u).facet i = s.facet i := rfl
@[simp] theorem State.updHub_ctx (s : State) (u : Hub → Hub) (i : Nat) : (s.updHub u).ctx i = s.ctx i := rfl
@[simp] theorem State.updHub_task (s : State) (u : Hub → Hub) (i : Nat) : (s.updHub u).task i = s.task i := rfl
@[simp] theorem State.updHub_launch (s : State) (u : Hub → Hub) (i : Nat) : (s.updHub u).launch i = s.launch i := rfl
@[simp] theorem State.updHub_subq (s : State) (u : Hub → Hub) (i : Nat) : (s.updHub u).subq i = s.subq i := rfl
@[simp] theorem State.updHub_hart (s : State) (u : Hub → Hub) (i : Nat) : (s.updHub u).hart i = s.hart i := rfl
@[simp] theorem State.updFabric_byteAt (s : State) (u : Fabric → Fabric) (key : Nat) : (s.updFabric u).byteAt key = s.byteAt key := rfl
@[simp] theorem State.updFabric_memWf (s : State) (u : Fabric → Fabric) : (s.updFabric u).memWf = s.memWf := rfl
@[simp] theorem State.updFabric_core (s : State) (u : Fabric → Fabric) (i : Nat) : (s.updFabric u).core i = s.core i := rfl
@[simp] theorem State.updFabric_quadOf (s : State) (u : Fabric → Fabric) (i j : Nat) : (s.updFabric u).quadOf i j = s.quadOf i j := rfl
@[simp] theorem State.updFabric_facet (s : State) (u : Fabric → Fabric) (i : Nat) : (s.updFabric u).facet i = s.facet i := rfl
@[simp] theorem State.updFabric_ctx (s : State) (u : Fabric → Fabric) (i : Nat) : (s.updFabric u).ctx i = s.ctx i := rfl
@[simp] theorem State.updFabric_task (s : State) (u : Fabric → Fabric) (i : Nat) : (s.updFabric u).task i = s.task i := rfl
@[simp] theorem State.updFabric_launch (s : State) (u : Fabric → Fabric) (i : Nat) : (s.updFabric u).launch i = s.launch i := rfl
@[simp] theorem State.updFabric_subq (s : State) (u : Fabric → Fabric) (i : Nat) : (s.updFabric u).subq i = s.subq i := rfl
@[simp] theorem State.updFabric_hart (s : State) (u : Fabric → Fabric) (i : Nat) : (s.updFabric u).hart i = s.hart i := rfl
@[simp] theorem State.updFabric_feat (s : State) (u : Fabric → Fabric) (i : Nat) : (s.updFabric u).feat i = s.feat i := rfl
@[simp] theorem State.setByte_core (s : State) (k : Nat) (b : BitVec 8) (i : Nat) : (s.setByte k b).core i = s.core i := rfl
@[simp] theorem State.setByte_quadOf (s : State) (k : Nat) (b : BitVec 8) (i j : Nat) : (s.setByte k b).quadOf i j = s.quadOf i j := rfl
@[simp] theorem State.setByte_facet (s : State) (k : Nat) (b : BitVec 8) (i : Nat) : (s.setByte k b).facet i = s.facet i := rfl
@[simp] theorem State.setByte_ctx (s : State) (k : Nat) (b : BitVec 8) (i : Nat) : (s.setByte k b).ctx i = s.ctx i := rfl
@[simp] theorem State.setByte_task (s : State) (k : Nat) (b : BitVec 8) (i : Nat) : (s.setByte k b).task i = s.task i := rfl
@[simp] theorem State.setByte_launch (s : State) (k : Nat) (b : BitVec 8) (i : Nat) : (s.setByte k b).launch i = s.launch i := rfl
@[simp] theorem State.setByte_subq (s : State) (k : Nat) (b : BitVec 8) (i : Nat) : (s.setByte k b).subq i = s.subq i := rfl
@[simp] theorem State.setByte_hart (s : State) (k : Nat) (b : BitVec 8) (i : Nat) : (s.setByte k b).hart i = s.hart i := rfl
@[simp] theorem State.setByte_feat (s : State) (k : Nat) (b : BitVec 8) (i : Nat) : (s.setByte k b).feat i = s.feat i := rfl

/-! ### A read after an update of the same part -/

@[simp] theorem State.core_setCore_self (s : State) (c : Nat) (x : Core) : (s.setCore c x).core c = x := Tab.get_set_self _ _ _ _
theorem State.core_setCore_ne (s : State) {c i : Nat} (x : Core) (h : i ≠ c) : (s.setCore c x).core i = s.core i := Tab.get_set_ne _ _ _ h
@[simp] theorem State.core_updCore_self (s : State) (c : Nat) (f : Core → Core) : (s.updCore c f).core c = f (s.core c) := Tab.get_set_self _ _ _ _
theorem State.core_updCore_ne (s : State) {c i : Nat} (f : Core → Core) (h : i ≠ c) : (s.updCore c f).core i = s.core i := Tab.get_set_ne _ _ _ h
@[simp] theorem State.facet_updFacet_self (s : State) (f : Nat) (u : Facet → Facet) : (s.updFacet f u).facet f = u (s.facet f) := Tab.get_set_self _ _ _ _
theorem State.facet_updFacet_ne (s : State) {f i : Nat} (u : Facet → Facet) (h : i ≠ f) : (s.updFacet f u).facet i = s.facet i := Tab.get_set_ne _ _ _ h
@[simp] theorem State.ctx_updCtx_self (s : State) (c : Nat) (u : Ctx → Ctx) : (s.updCtx c u).ctx c = u (s.ctx c) := Tab.get_set_self _ _ _ _
theorem State.ctx_updCtx_ne (s : State) {c i : Nat} (u : Ctx → Ctx) (h : i ≠ c) : (s.updCtx c u).ctx i = s.ctx i := Tab.get_set_ne _ _ _ h
@[simp] theorem State.task_updTask_self (s : State) (t : Nat) (u : Task → Task) : (s.updTask t u).task t = u (s.task t) := Tab.get_set_self _ _ _ _
theorem State.task_updTask_ne (s : State) {t i : Nat} (u : Task → Task) (h : i ≠ t) : (s.updTask t u).task i = s.task i := Tab.get_set_ne _ _ _ h
@[simp] theorem State.launch_updLaunch_self (s : State) (l : Nat) (u : Launch → Launch) : (s.updLaunch l u).launch l = u (s.launch l) := Tab.get_set_self _ _ _ _
theorem State.launch_updLaunch_ne (s : State) {l i : Nat} (u : Launch → Launch) (h : i ≠ l) : (s.updLaunch l u).launch i = s.launch i := Tab.get_set_ne _ _ _ h
@[simp] theorem State.subq_updSubq_self (s : State) (q : Nat) (u : SubQ → SubQ) : (s.updSubq q u).subq q = u (s.subq q) := Tab.get_set_self _ _ _ _
theorem State.subq_updSubq_ne (s : State) {q i : Nat} (u : SubQ → SubQ) (h : i ≠ q) : (s.updSubq q u).subq i = s.subq i := Tab.get_set_ne _ _ _ h
/-- Of the 16 harts (R9); a number above them names none. -/
theorem State.hart_updHart_self (s : State) {h : Nat} (u : Hart → Hart) (hh : h < 16) : (s.updHart h u).hart h = u (s.hart h) := by
  unfold State.hart State.updHart; rw [if_pos hh]; exact Tab.get_set_self _ _ _ _
theorem State.hart_updHart_ne (s : State) {h i : Nat} (u : Hart → Hart) (e : i ≠ h) : (s.updHart h u).hart i = s.hart i := by
  unfold State.hart State.updHart
  by_cases hh : h < 16
  · rw [if_pos hh]; exact Tab.get_set_ne _ _ _ e
  · rw [if_neg hh]
@[simp] theorem State.byteAt_setByte_self (s : State) (k : Nat) (b : BitVec 8) : (s.setByte k b).byteAt k = b := Tab.get_set_self _ _ _ _
theorem State.byteAt_setByte_ne (s : State) {k i : Nat} (b : BitVec 8) (h : i ≠ k) : (s.setByte k b).byteAt i = s.byteAt i := Tab.get_set_ne _ _ _ h
@[simp] theorem State.updHub_hub (s : State) (u : Hub → Hub) : (s.updHub u).hub = u s.hub := rfl
@[simp] theorem State.updFabric_fabric (s : State) (u : Fabric → Fabric) : (s.updFabric u).fabric = u s.fabric := rfl

/-! Quadrants of a core -/

@[simp] theorem Core.quad_setQuad_self (k : Core) (q : Nat) (x : Quad) : (k.setQuad q x).quad q = x := by
  rcases q with _ | _ | _ | q <;> rfl
@[simp] theorem Core.setQuad_setQuad (k : Core) (q : Nat) (x y : Quad) : (k.setQuad q x).setQuad q y = k.setQuad q y := by
  rcases q with _ | _ | _ | q <;> rfl
@[simp] theorem Core.setQuad_quad (k : Core) (q : Nat) : k.setQuad q (k.quad q) = k := by
  rcases q with _ | _ | _ | q <;> rfl
/-- Another quadrant, by its number below 4. -/
theorem Core.quad_setQuad_ne (k : Core) {q j : Nat} (x : Quad) (hq : q < 4) (hj : j < 4) (h : j ≠ q) : (k.setQuad q x).quad j = k.quad j := by
  unfold Core.setQuad Core.quad
  rcases q with _ | _ | _ | _ | q <;> rcases j with _ | _ | _ | _ | j <;> first | rfl | omega

@[simp] theorem State.me_updMe (s : State) (f : Quad → Quad) : (s.updMe f).me = f s.me := by
  simp [State.me, State.updMe, State.updQuad, State.quadOf, State.updCore]
@[simp] theorem State.quadOf_updQuad_self (s : State) (c q : Nat) (f : Quad → Quad) : (s.updQuad c q f).quadOf c q = f (s.quadOf c q) := by
  simp [State.updQuad, State.quadOf, State.updCore]
@[simp] theorem State.myCore_updMyCore (s : State) (f : Core → Core) : (s.updMyCore f).myCore = f s.myCore := by
  simp [State.myCore, State.updMyCore]
@[simp] theorem State.myCore_updMe (s : State) (f : Quad → Quad) : (s.updMe f).myCore = s.myCore.setQuad s.cur.quad (f s.me) := by
  simp [State.myCore, State.updMe, State.updQuad, State.me, State.quadOf]
theorem State.core_updMe_ne (s : State) {c : Nat} (f : Quad → Quad) (h : c ≠ s.cur.core) : (s.updMe f).core c = s.core c :=
  State.core_updCore_ne s _ h

/-- Two updates of one core, or of one quadrant, in a row are one. -/
@[simp] theorem State.updCore_updCore (s : State) (c : Nat) (f g : Core → Core) : (s.updCore c f).updCore c g = s.updCore c (fun k => g (f k)) := by
  show (s.updCore c f).setCore c (g ((s.updCore c f).core c)) = _
  rw [State.core_updCore_self]; simp only [State.updCore, State.setCore, Tab.set_set]
@[simp] theorem State.updQuad_updQuad (s : State) (c q : Nat) (f g : Quad → Quad) :
    (s.updQuad c q f).updQuad c q g = s.updQuad c q (fun x => g (f x)) := by
  unfold State.updQuad; rw [State.updCore_updCore]; simp
@[simp] theorem State.updMe_updMe (s : State) (f g : Quad → Quad) : (s.updMe f).updMe g = s.updMe (fun q => g (f q)) :=
  s.updQuad_updQuad _ _ f g
theorem State.updMe_congr (s : State) {f g : Quad → Quad} (h : f s.me = g s.me) : s.updMe f = s.updMe g := by
  simp only [State.updMe, State.updQuad, State.updCore, State.me, State.quadOf] at *; rw [h]

end Sys2Proof.Machine
end

