-- ==== Sys2Proof/Laws/Memory.lean ====
section
/-! SUPPORT. The laws of memory: every operation keeps the canonical form, a read after a write, and bytes outside a write. -/

namespace Sys2Proof.Machine

theorem State.memWf_setByte (s : State) (k : Nat) (b : BitVec 8) (w : s.memWf = true) : (s.setByte k b).memWf = true :=
  Tab.wf_set _ _ _ _ w

theorem State.memWf_setBytes (s : State) (k : Nat) (l : List (BitVec 8)) (w : s.memWf = true) : (s.setBytes k l).memWf = true := by
  induction l generalizing s k with
  | nil => exact w
  | cons b r ih => exact ih _ _ (s.memWf_setByte k b w)

/-- A poke changes memory as `setBytes` does, and watches besides. -/
theorem State.poke_mem (s : State) (k : Nat) (l : List (BitVec 8)) : (s.poke k l).mem = (s.setBytes k l).mem := by
  unfold State.poke; dsimp only; split <;> rfl

theorem State.memWf_poke (s : State) (k : Nat) (l : List (BitVec 8)) (w : s.memWf = true) : (s.poke k l).memWf = true := by
  have := s.memWf_setBytes k l w
  unfold State.memWf at *; rwa [s.poke_mem]

theorem State.memWf_clearRange (s : State) (k n : Nat) (w : s.memWf = true) : (s.clearRange k n).memWf = true :=
  Tab.wf_filter _ _ _ w

theorem State.memWf_copyRange (s : State) (src dst n : Nat) (w : s.memWf = true) : (s.copyRange src dst n).memWf = true := by
  unfold State.copyRange
  generalize s.mem.cells.filter _ = l
  have h := s.memWf_clearRange dst n w
  generalize s.clearRange dst n = t at h
  induction l generalizing t with
  | nil => exact h
  | cons c r ih => exact ih _ (t.memWf_setByte _ _ h)

theorem State.checkKey_mem (s : State) (k : Nat) : (s.checkKey k).mem = s.mem := by
  unfold State.checkKey; split <;> rfl

theorem State.memWf_put (s : State) (ks : List (Nat × Nat)) (b : List (BitVec 8)) (w : s.memWf = true) : (s.put ks b).memWf = true := by
  induction ks generalizing s b with
  | nil => exact w
  | cons c r ih =>
    refine ih _ _ (State.memWf_poke _ _ _ ?_)
    unfold State.memWf at *; rwa [s.checkKey_mem]

/-! Reads after writes -/

@[simp] theorem State.bytesAt_length (s : State) (k n : Nat) : (s.bytesAt k n).length = n := by
  induction n generalizing k with
  | zero => rfl
  | succ n ih => simp [State.bytesAt, ih]

/-- A byte outside the written range is as before. -/
theorem State.byteAt_setBytes_of_out (s : State) (k i : Nat) (l : List (BitVec 8)) (h : i < k ∨ k + l.length ≤ i) :
    (s.setBytes k l).byteAt i = s.byteAt i := by
  induction l generalizing s k with
  | nil => rfl
  | cons b r ih =>
    simp only [List.length_cons] at h
    rw [State.setBytes, ih _ _ (by omega), State.byteAt_setByte_ne _ _ (by omega)]

theorem State.bytesAt_setBytes_of_out (s : State) (k i n : Nat) (l : List (BitVec 8)) (h : i + n ≤ k ∨ k + l.length ≤ i) :
    (s.setBytes k l).bytesAt i n = s.bytesAt i n := by
  induction n generalizing i with
  | zero => rfl
  | succ n ih => rw [State.bytesAt, State.bytesAt, ih _ (by omega), State.byteAt_setBytes_of_out _ _ _ _ (by omega)]

/-- What is written is what is read. -/
theorem State.bytesAt_setBytes_self (s : State) (k : Nat) (l : List (BitVec 8)) : (s.setBytes k l).bytesAt k l.length = l := by
  induction l generalizing s k with
  | nil => rfl
  | cons b r ih =>
    rw [State.setBytes, List.length_cons, State.bytesAt, ih, State.byteAt_setBytes_of_out _ _ _ _ (by omega), State.byteAt_setByte_self]

theorem State.byteAt_of_mem {s t : State} (h : t.mem = s.mem) (k : Nat) : t.byteAt k = s.byteAt k := by unfold State.byteAt; rw [h]
theorem State.bytesAt_of_mem {s t : State} (h : t.mem = s.mem) (k n : Nat) : t.bytesAt k n = s.bytesAt k n := by
  induction n generalizing k with
  | zero => rfl
  | succ n ih => rw [State.bytesAt, State.bytesAt, ih, State.byteAt_of_mem h]

theorem State.byteAt_poke_of_out (s : State) (k i : Nat) (l : List (BitVec 8)) (h : i < k ∨ k + l.length ≤ i) :
    (s.poke k l).byteAt i = s.byteAt i := by
  rw [State.byteAt_of_mem (s.poke_mem k l), State.byteAt_setBytes_of_out _ _ _ _ h]

theorem State.bytesAt_poke_self (s : State) (k : Nat) (l : List (BitVec 8)) : (s.poke k l).bytesAt k l.length = l := by
  rw [State.bytesAt_of_mem (s.poke_mem k l), State.bytesAt_setBytes_self]

/-! Reads -/

@[simp] theorem putByte_length (b : List (BitVec 8)) (first at_ : Nat) (u : Nat → Nat) : (putByte b first at_ u).length = b.length := by
  unfold putByte; split <;> simp

/-- A read of a slot's record gives as many bytes as there are (R260). -/
@[simp] theorem State.live_length (s : State) (ag : Agent) (p : Word × Nat) (b : List (BitVec 8)) : (s.live ag p b).length = b.length := by
  unfold State.live; split
  · rfl
  · split
    · rfl
    · dsimp only; split <;> simp

theorem State.got_length (s : State) (ag : Agent) (l : List (Word × Nat)) (ks : List (Nat × Nat)) (h : l.length = ks.length) :
    (s.got ag l ks).length = (ks.map Prod.snd).sum := by
  induction l generalizing ks with
  | nil => cases ks with
    | nil => rfl
    | cons k r => exact nomatch h
  | cons p r ih => cases ks with
    | nil => exact nomatch h
    | cons k ks => simp [State.got, ih ks (Nat.succ.inj h)]

/-! Little-endian bytes (R1) -/

@[simp] theorem leBytes_length (n v : Nat) : (leBytes n v).length = n := by
  induction n generalizing v with
  | zero => rfl
  | succ n ih => simp [leBytes, ih]

theorem leNat_leBytes (n v : Nat) : leNat (leBytes n v) = v % 256 ^ n := by
  induction n generalizing v with
  | zero => simp [leBytes, leNat, Nat.mod_one]
  | succ n ih =>
    simp only [leBytes, leNat, ih, BitVec.toNat_ofNat]
    rw [show 256 ^ (n + 1) = 256 * 256 ^ n from Nat.pow_succ', Nat.mod_mul]

theorem leNat_lt (l : List (BitVec 8)) : leNat l < 256 ^ l.length := by
  induction l with
  | nil => simp [leNat]
  | cons b r ih =>
    simp only [leNat, List.length_cons, Nat.pow_succ]
    have := b.isLt; omega

end Sys2Proof.Machine
end

