-- ==== Sys2Proof/Laws/PerInstr.lean ====
section
/-! SUPPORT. One lemma for each constructor of Instr: the instruction has at most two words, and each is a number below 2^32 (R35, R50). -/

namespace Sys2Proof.Laws.Fits

/-- An instruction is at most two words of 32 bits. -/
def Statement (i : Instr) : Prop := (encode i).length ≤ 2 ∧ ∀ w ∈ encode i, w < 2 ^ 32

theorem of_none {i : Instr} (h : encode i = []) : Statement i := by unfold Statement; rw [h]; simp

theorem of_one {i : Instr} {w : Nat} (h : encode i = [w]) (l : w < 2 ^ 32) : Statement i := by unfold Statement; rw [h]; simpa using l

theorem of_two {i : Instr} {p w : Nat} (h : encode i = [p, w]) (k : p < 2 ^ 32) (l : w < 2 ^ 32) : Statement i := by
  unfold Statement; rw [h]; simpa using ⟨k, l⟩

/-- A field of a word, as a number. -/
theorem put_eq {n : Nat} (x : BitVec n) (lo : Nat) : put x lo = x.toNat * 2 ^ lo := rfl

theorem nop : Statement (.nop) := of_one rfl (by decide)
theorem add (d : BitVec 6) (n : BitVec 1) (a : BitVec 6) (b : BitVec 6) : Statement (.add d n a b) := of_one rfl (by simp only [put_eq]; omega)
theorem addi (d : BitVec 6) (n : BitVec 1) (a : BitVec 6) (i : BitVec 10) : Statement (.addi d n a i) := of_one rfl (by simp only [put_eq]; omega)
theorem sub (d : BitVec 6) (n : BitVec 1) (a : BitVec 6) (b : BitVec 6) : Statement (.sub d n a b) := of_one rfl (by simp only [put_eq]; omega)
theorem and (d : BitVec 6) (n : BitVec 1) (a : BitVec 6) (b : BitVec 6) : Statement (.and d n a b) := of_one rfl (by simp only [put_eq]; omega)
theorem andi (d : BitVec 6) (n : BitVec 1) (a : BitVec 6) (i : BitVec 10) : Statement (.andi d n a i) := of_one rfl (by simp only [put_eq]; omega)
theorem or (d : BitVec 6) (n : BitVec 1) (a : BitVec 6) (b : BitVec 6) : Statement (.or d n a b) := of_one rfl (by simp only [put_eq]; omega)
theorem ori (d : BitVec 6) (n : BitVec 1) (a : BitVec 6) (i : BitVec 10) : Statement (.ori d n a i) := of_one rfl (by simp only [put_eq]; omega)
theorem xor (d : BitVec 6) (n : BitVec 1) (a : BitVec 6) (b : BitVec 6) : Statement (.xor d n a b) := of_one rfl (by simp only [put_eq]; omega)
theorem xori (d : BitVec 6) (n : BitVec 1) (a : BitVec 6) (i : BitVec 10) : Statement (.xori d n a i) := of_one rfl (by simp only [put_eq]; omega)
theorem andn (d : BitVec 6) (n : BitVec 1) (a : BitVec 6) (b : BitVec 6) : Statement (.andn d n a b) := of_one rfl (by simp only [put_eq]; omega)
theorem shl (d : BitVec 6) (n : BitVec 1) (a : BitVec 6) (b : BitVec 6) : Statement (.shl d n a b) := of_one rfl (by simp only [put_eq]; omega)
theorem shli (d : BitVec 6) (n : BitVec 1) (a : BitVec 6) (i : BitVec 6) : Statement (.shli d n a i) := of_one rfl (by simp only [put_eq]; omega)
theorem shr (d : BitVec 6) (n : BitVec 1) (a : BitVec 6) (b : BitVec 6) : Statement (.shr d n a b) := of_one rfl (by simp only [put_eq]; omega)
theorem shri (d : BitVec 6) (n : BitVec 1) (a : BitVec 6) (i : BitVec 6) : Statement (.shri d n a i) := of_one rfl (by simp only [put_eq]; omega)
theorem sar (d : BitVec 6) (n : BitVec 1) (a : BitVec 6) (b : BitVec 6) : Statement (.sar d n a b) := of_one rfl (by simp only [put_eq]; omega)
theorem sari (d : BitVec 6) (n : BitVec 1) (a : BitVec 6) (i : BitVec 6) : Statement (.sari d n a i) := of_one rfl (by simp only [put_eq]; omega)
theorem rol (d : BitVec 6) (n : BitVec 1) (a : BitVec 6) (b : BitVec 6) : Statement (.rol d n a b) := of_one rfl (by simp only [put_eq]; omega)
theorem mul (d : BitVec 6) (n : BitVec 1) (a : BitVec 6) (b : BitVec 6) : Statement (.mul d n a b) := of_one rfl (by simp only [put_eq]; omega)
theorem mulh (d : BitVec 6) (n : BitVec 1) (a : BitVec 6) (b : BitVec 6) : Statement (.mulh d n a b) := of_one rfl (by simp only [put_eq]; omega)
theorem mulhn (d : BitVec 6) (n : BitVec 1) (a : BitVec 6) (b : BitVec 6) : Statement (.mulhn d n a b) := of_one rfl (by simp only [put_eq]; omega)
theorem div (d : BitVec 6) (n : BitVec 1) (a : BitVec 6) (b : BitVec 6) : Statement (.div d n a b) := of_one rfl (by simp only [put_eq]; omega)
theorem divn (d : BitVec 6) (n : BitVec 1) (a : BitVec 6) (b : BitVec 6) : Statement (.divn d n a b) := of_one rfl (by simp only [put_eq]; omega)
theorem rem (d : BitVec 6) (n : BitVec 1) (a : BitVec 6) (b : BitVec 6) : Statement (.rem d n a b) := of_one rfl (by simp only [put_eq]; omega)
theorem remn (d : BitVec 6) (n : BitVec 1) (a : BitVec 6) (b : BitVec 6) : Statement (.remn d n a b) := of_one rfl (by simp only [put_eq]; omega)
theorem min (d : BitVec 6) (n : BitVec 1) (a : BitVec 6) (b : BitVec 6) : Statement (.min d n a b) := of_one rfl (by simp only [put_eq]; omega)
theorem max (d : BitVec 6) (n : BitVec 1) (a : BitVec 6) (b : BitVec 6) : Statement (.max d n a b) := of_one rfl (by simp only [put_eq]; omega)
theorem minn (d : BitVec 6) (n : BitVec 1) (a : BitVec 6) (b : BitVec 6) : Statement (.minn d n a b) := of_one rfl (by simp only [put_eq]; omega)
theorem maxn (d : BitVec 6) (n : BitVec 1) (a : BitVec 6) (b : BitVec 6) : Statement (.maxn d n a b) := of_one rfl (by simp only [put_eq]; omega)
theorem clz (d : BitVec 6) (n : BitVec 1) (a : BitVec 6) : Statement (.clz d n a) := of_one rfl (by simp only [put_eq]; omega)
theorem popc (d : BitVec 6) (n : BitVec 1) (a : BitVec 6) : Statement (.popc d n a) := of_one rfl (by simp only [put_eq]; omega)
theorem ext (d : BitVec 6) (n : BitVec 1) (a : BitVec 6) (f : BitVec 4) : Statement (.ext d n a f) := of_one rfl (by simp only [put_eq]; omega)
theorem li (d : BitVec 6) (i : BitVec 17) : Statement (.li d i) := of_one rfl (by simp only [put_eq]; omega)
theorem lih (d : BitVec 6) (i : BitVec 16) : Statement (.lih d i) := of_one rfl (by simp only [put_eq]; omega)
theorem lea (d : BitVec 6) (n : BitVec 1) (a : BitVec 6) (b : BitVec 6) (f : BitVec 4) : Statement (.lea d n a b f) := of_one rfl (by simp only [put_eq]; omega)
theorem hset (d : BitVec 6) (n : BitVec 1) (a : BitVec 6) (b : BitVec 6) (f : BitVec 4) : Statement (.hset d n a b f) := of_one rfl (by simp only [put_eq]; omega)
theorem hget (d : BitVec 6) (n : BitVec 1) (a : BitVec 6) (f : BitVec 4) : Statement (.hget d n a f) := of_one rfl (by simp only [put_eq]; omega)
theorem cmp (c : BitVec 3) (p : BitVec 3) (a : BitVec 6) (b : BitVec 6) : Statement (.cmp c p a b) := of_one rfl (by simp only [put_eq]; omega)
theorem cmpi (c : BitVec 3) (p : BitVec 3) (a : BitVec 6) (i : BitVec 10) : Statement (.cmpi c p a i) := of_one rfl (by simp only [put_eq]; omega)
theorem plog (d : BitVec 3) (t : BitVec 4) (a : BitVec 3) (b : BitVec 3) : Statement (.plog d t a b) := of_one rfl (by simp only [put_eq]; omega)
theorem sel (d : BitVec 6) (n : BitVec 1) (a : BitVec 6) (b : BitVec 6) (g : BitVec 4) : Statement (.sel d n a b g) := of_one rfl (by simp only [put_eq]; omega)
theorem movpGet (d : BitVec 6) : Statement (.movpGet d) := of_one rfl (by simp only [put_eq]; omega)
theorem movpSet (a : BitVec 6) : Statement (.movpSet a) := of_one rfl (by simp only [put_eq]; omega)
theorem br (p : BitVec 3) (s : BitVec 1) (o : BitVec 19) : Statement (.br p s o) := of_one rfl (by simp only [put_eq]; omega)
theorem call (p : BitVec 3) (s : BitVec 1) (o : BitVec 19) : Statement (.call p s o) := of_one rfl (by simp only [put_eq]; omega)
theorem jr (d : BitVec 6) (a : BitVec 6) : Statement (.jr d a) := of_one rfl (by simp only [put_eq]; omega)
theorem loop (c : BitVec 12) (e : BitVec 10) : Statement (.loop c e) := of_one rfl (by simp only [put_eq]; omega)
theorem loopReg (a : BitVec 6) (e : BitVec 10) : Statement (.loopReg a e) := of_one rfl (by simp only [put_eq]; omega)
theorem loopn (k : BitVec 3) (e : BitVec 6) (f : BitVec 6) (c : BitVec 3) : Statement (.loopn k e f c) := of_one rfl (by simp only [put_eq]; omega)
theorem nsetReg (k : BitVec 3) (a : BitVec 6) (b : BitVec 6) : Statement (.nsetReg k a b) := of_one rfl (by simp only [put_eq]; omega)
theorem nsetImm (k : BitVec 3) (b : BitVec 9) (s : BitVec 10) : Statement (.nsetImm k b s) := of_one rfl (by simp only [put_eq]; omega)
theorem nget (d : BitVec 6) (s : BitVec 1) (k : BitVec 3) : Statement (.nget d s k) := of_one rfl (by simp only [put_eq]; omega)
theorem csrr (d : BitVec 6) (c : BitVec 12) : Statement (.csrr d c) := of_one rfl (by simp only [put_eq]; omega)
theorem csrw (a : BitVec 6) (c : BitVec 12) : Statement (.csrw a c) := of_one rfl (by simp only [put_eq]; omega)
theorem trap (c : BitVec 16) : Statement (.trap c) := of_one rfl (by simp only [put_eq]; omega)
theorem tret : Statement (.tret) := of_one rfl (by decide)
theorem brk (c : BitVec 16) : Statement (.brk c) := of_one rfl (by simp only [put_eq]; omega)
theorem dload (a : BitVec 6) : Statement (.dload a) := of_one rfl (by simp only [put_eq]; omega)
theorem dfence : Statement (.dfence) := of_one rfl (by decide)
theorem iflush (a : BitVec 6) (b : BitVec 6) : Statement (.iflush a b) := of_one rfl (by simp only [put_eq]; omega)
theorem ldB (d : BitVec 6) (a : BitVec 6) (o : BitVec 12) : Statement (.ldB d a o) := of_one rfl (by simp only [put_eq]; omega)
theorem ldBn (d : BitVec 6) (a : BitVec 6) (o : BitVec 12) : Statement (.ldBn d a o) := of_one rfl (by simp only [put_eq]; omega)
theorem ldH (d : BitVec 6) (a : BitVec 6) (o : BitVec 12) : Statement (.ldH d a o) := of_one rfl (by simp only [put_eq]; omega)
theorem ldHn (d : BitVec 6) (a : BitVec 6) (o : BitVec 12) : Statement (.ldHn d a o) := of_one rfl (by simp only [put_eq]; omega)
theorem ldW (d : BitVec 6) (a : BitVec 6) (o : BitVec 12) : Statement (.ldW d a o) := of_one rfl (by simp only [put_eq]; omega)
theorem ldWn (d : BitVec 6) (a : BitVec 6) (o : BitVec 12) : Statement (.ldWn d a o) := of_one rfl (by simp only [put_eq]; omega)
theorem ldD (d : BitVec 6) (a : BitVec 6) (o : BitVec 12) : Statement (.ldD d a o) := of_one rfl (by simp only [put_eq]; omega)
theorem lda (d : BitVec 6) (a : BitVec 6) (z : BitVec 2) (c : BitVec 2) (g : BitVec 1) (o : BitVec 7) : Statement (.lda d a z c g o) := of_one rfl (by simp only [put_eq]; omega)
theorem ldx (d : BitVec 6) (a : BitVec 6) (b : BitVec 6) (z : BitVec 2) (s : BitVec 1) : Statement (.ldx d a b z s) := of_one rfl (by simp only [put_eq]; omega)
theorem stB (s : BitVec 6) (a : BitVec 6) (g : BitVec 4) (o : BitVec 8) : Statement (.stB s a g o) := of_one rfl (by simp only [put_eq]; omega)
theorem stH (s : BitVec 6) (a : BitVec 6) (g : BitVec 4) (o : BitVec 8) : Statement (.stH s a g o) := of_one rfl (by simp only [put_eq]; omega)
theorem stW (s : BitVec 6) (a : BitVec 6) (g : BitVec 4) (o : BitVec 8) : Statement (.stW s a g o) := of_one rfl (by simp only [put_eq]; omega)
theorem stD (s : BitVec 6) (a : BitVec 6) (g : BitVec 4) (o : BitVec 8) : Statement (.stD s a g o) := of_one rfl (by simp only [put_eq]; omega)
theorem stl (s : BitVec 6) (a : BitVec 6) (g : BitVec 4) (z : BitVec 2) (c : BitVec 2) (o : BitVec 4) : Statement (.stl s a g z c o) := of_one rfl (by simp only [put_eq]; omega)
theorem vld (v : BitVec 5) (a : BitVec 6) (o : BitVec 12) : Statement (.vld v a o) := of_one rfl (by simp only [put_eq]; omega)
theorem vst (v : BitVec 5) (a : BitVec 6) (g : BitVec 4) (k : BitVec 1) (m : BitVec 3) (o : BitVec 4) : Statement (.vst v a g k m o) := of_one rfl (by simp only [put_eq]; omega)
theorem vgath (d : BitVec 5) (a : BitVec 6) (i : BitVec 5) (z : BitVec 2) (s : BitVec 1) : Statement (.vgath d a i z s) := of_one rfl (by simp only [put_eq]; omega)
theorem vscat (s : BitVec 5) (a : BitVec 6) (g : BitVec 4) (i : BitVec 5) (z : BitVec 2) : Statement (.vscat s a g i z) := of_one rfl (by simp only [put_eq]; omega)
theorem aadd (d : BitVec 6) (a : BitVec 6) (b : BitVec 6) (g : BitVec 4) (c : BitVec 2) : Statement (.aadd d a b g c) := of_one rfl (by simp only [put_eq]; omega)
theorem aand (d : BitVec 6) (a : BitVec 6) (b : BitVec 6) (g : BitVec 4) (c : BitVec 2) : Statement (.aand d a b g c) := of_one rfl (by simp only [put_eq]; omega)
theorem aor (d : BitVec 6) (a : BitVec 6) (b : BitVec 6) (g : BitVec 4) (c : BitVec 2) : Statement (.aor d a b g c) := of_one rfl (by simp only [put_eq]; omega)
theorem axor (d : BitVec 6) (a : BitVec 6) (b : BitVec 6) (g : BitVec 4) (c : BitVec 2) : Statement (.axor d a b g c) := of_one rfl (by simp only [put_eq]; omega)
theorem amin (d : BitVec 6) (a : BitVec 6) (b : BitVec 6) (g : BitVec 4) (c : BitVec 2) : Statement (.amin d a b g c) := of_one rfl (by simp only [put_eq]; omega)
theorem amax (d : BitVec 6) (a : BitVec 6) (b : BitVec 6) (g : BitVec 4) (c : BitVec 2) : Statement (.amax d a b g c) := of_one rfl (by simp only [put_eq]; omega)
theorem aminn (d : BitVec 6) (a : BitVec 6) (b : BitVec 6) (g : BitVec 4) (c : BitVec 2) : Statement (.aminn d a b g c) := of_one rfl (by simp only [put_eq]; omega)
theorem amaxn (d : BitVec 6) (a : BitVec 6) (b : BitVec 6) (g : BitVec 4) (c : BitVec 2) : Statement (.amaxn d a b g c) := of_one rfl (by simp only [put_eq]; omega)
theorem aswp (d : BitVec 6) (a : BitVec 6) (b : BitVec 6) (g : BitVec 4) (c : BitVec 2) : Statement (.aswp d a b g c) := of_one rfl (by simp only [put_eq]; omega)
theorem acas (d : BitVec 6) (a : BitVec 6) (b : BitVec 6) (g : BitVec 4) (c : BitVec 2) : Statement (.acas d a b g c) := of_one rfl (by simp only [put_eq]; omega)
theorem mark (c : BitVec 2) : Statement (.mark c) := of_one rfl (by simp only [put_eq]; omega)
theorem fence (c : BitVec 2) : Statement (.fence c) := of_one rfl (by simp only [put_eq]; omega)
theorem lkup (d : BitVec 6) (a : BitVec 6) : Statement (.lkup d a) := of_one rfl (by simp only [put_eq]; omega)
theorem tins (a : BitVec 6) (b : BitVec 6) : Statement (.tins a b) := of_one rfl (by simp only [put_eq]; omega)
theorem tinv (a : BitVec 6) : Statement (.tinv a) := of_one rfl (by simp only [put_eq]; omega)
theorem tstat (d : BitVec 6) (a : BitVec 6) : Statement (.tstat d a) := of_one rfl (by simp only [put_eq]; omega)
theorem loadReturn (core : Nat) (quad : Nat) : Statement (.loadReturn core quad) := of_none rfl
theorem vadd (d : BitVec 5) (a : BitVec 5) (b : BitVec 5) (t : BitVec 3) (s : BitVec 1) : Statement (.vadd d a b t s) := of_one rfl (by simp only [put_eq]; omega)
theorem vsub (d : BitVec 5) (a : BitVec 5) (b : BitVec 5) (t : BitVec 3) (s : BitVec 1) : Statement (.vsub d a b t s) := of_one rfl (by simp only [put_eq]; omega)
theorem vmul (d : BitVec 5) (a : BitVec 5) (b : BitVec 5) (t : BitVec 3) (s : BitVec 1) : Statement (.vmul d a b t s) := of_one rfl (by simp only [put_eq]; omega)
theorem vfma (d : BitVec 5) (a : BitVec 5) (b : BitVec 5) (t : BitVec 3) (c : BitVec 5) : Statement (.vfma d a b t c) := of_one rfl (by simp only [put_eq]; omega)
theorem vmin (d : BitVec 5) (a : BitVec 5) (b : BitVec 5) (t : BitVec 3) : Statement (.vmin d a b t) := of_one rfl (by simp only [put_eq]; omega)
theorem vmax (d : BitVec 5) (a : BitVec 5) (b : BitVec 5) (t : BitVec 3) : Statement (.vmax d a b t) := of_one rfl (by simp only [put_eq]; omega)
theorem vabs (d : BitVec 5) (a : BitVec 5) (t : BitVec 3) (s : BitVec 1) : Statement (.vabs d a t s) := of_one rfl (by simp only [put_eq]; omega)
theorem vneg (d : BitVec 5) (a : BitVec 5) (t : BitVec 3) (s : BitVec 1) : Statement (.vneg d a t s) := of_one rfl (by simp only [put_eq]; omega)
theorem vand (d : BitVec 5) (a : BitVec 5) (b : BitVec 5) : Statement (.vand d a b) := of_one rfl (by simp only [put_eq]; omega)
theorem vor (d : BitVec 5) (a : BitVec 5) (b : BitVec 5) : Statement (.vor d a b) := of_one rfl (by simp only [put_eq]; omega)
theorem vxor (d : BitVec 5) (a : BitVec 5) (b : BitVec 5) : Statement (.vxor d a b) := of_one rfl (by simp only [put_eq]; omega)
theorem vshl (d : BitVec 5) (a : BitVec 5) (b : BitVec 5) (t : BitVec 3) (i : BitVec 1) : Statement (.vshl d a b t i) := of_one rfl (by simp only [put_eq]; omega)
theorem vshr (d : BitVec 5) (a : BitVec 5) (b : BitVec 5) (t : BitVec 3) (i : BitVec 1) : Statement (.vshr d a b t i) := of_one rfl (by simp only [put_eq]; omega)
theorem vsar (d : BitVec 5) (a : BitVec 5) (b : BitVec 5) (t : BitVec 3) (i : BitVec 1) : Statement (.vsar d a b t i) := of_one rfl (by simp only [put_eq]; omega)
theorem vcmp (m : BitVec 3) (a : BitVec 5) (b : BitVec 5) (t : BitVec 3) (y : BitVec 1) (c : BitVec 3) : Statement (.vcmp m a b t y c) := of_one rfl (by simp only [put_eq]; omega)
theorem vsel (d : BitVec 5) (a : BitVec 5) (b : BitVec 5) (m : BitVec 3) : Statement (.vsel d a b m) := of_one rfl (by simp only [put_eq]; omega)
theorem vcvt (d : BitVec 5) (a : BitVec 5) (b : BitVec 5) (t : BitVec 3) (h : BitVec 1) (y : BitVec 3) : Statement (.vcvt d a b t h y) := of_one rfl (by simp only [put_eq]; omega)
theorem vred (d : BitVec 6) (a : BitVec 5) (t : BitVec 3) (g : BitVec 1) (o : BitVec 3) : Statement (.vred d a t g o) := of_one rfl (by simp only [put_eq]; omega)
theorem vscan (d : BitVec 5) (a : BitVec 5) (t : BitVec 3) (x : BitVec 1) (o : BitVec 3) : Statement (.vscan d a t x o) := of_one rfl (by simp only [put_eq]; omega)
theorem vperm (d : BitVec 5) (a : BitVec 5) (b : BitVec 5) : Statement (.vperm d a b) := of_one rfl (by simp only [put_eq]; omega)
theorem vbcast (d : BitVec 5) (a : BitVec 6) (t : BitVec 3) : Statement (.vbcast d a t) := of_one rfl (by simp only [put_eq]; omega)
theorem vextr (d : BitVec 6) (a : BitVec 5) (e : BitVec 2) (t : BitVec 3) (l : BitVec 5) : Statement (.vextr d a e t l) := of_one rfl (by simp only [put_eq]; omega)
theorem vins (d : BitVec 5) (a : BitVec 6) (e : BitVec 2) (t : BitVec 3) (l : BitVec 5) : Statement (.vins d a e t l) := of_one rfl (by simp only [put_eq]; omega)
theorem vrcp (d : BitVec 5) (a : BitVec 5) (t : BitVec 3) : Statement (.vrcp d a t) := of_one rfl (by simp only [put_eq]; omega)
theorem vrsq (d : BitVec 5) (a : BitVec 5) (t : BitVec 3) : Statement (.vrsq d a t) := of_one rfl (by simp only [put_eq]; omega)
theorem vexp2 (d : BitVec 5) (a : BitVec 5) (t : BitVec 3) : Statement (.vexp2 d a t) := of_one rfl (by simp only [put_eq]; omega)
theorem vlog2 (d : BitVec 5) (a : BitVec 5) (t : BitVec 3) : Statement (.vlog2 d a t) := of_one rfl (by simp only [put_eq]; omega)
theorem vsin (d : BitVec 5) (a : BitVec 5) (t : BitVec 3) : Statement (.vsin d a t) := of_one rfl (by simp only [put_eq]; omega)
theorem vcos (d : BitVec 5) (a : BitVec 5) (t : BitVec 3) : Statement (.vcos d a t) := of_one rfl (by simp only [put_eq]; omega)
theorem vact (d : BitVec 5) (a : BitVec 5) : Statement (.vact d a) := of_one rfl (by simp only [put_eq]; omega)
theorem vrng (d : BitVec 5) (a : BitVec 5) (b : BitVec 5) (k : BitVec 6) : Statement (.vrng d a b k) := of_one rfl (by simp only [put_eq]; omega)
theorem vqnt (d : BitVec 5) (a : BitVec 5) (f : BitVec 5) : Statement (.vqnt d a f) := of_one rfl (by simp only [put_eq]; omega)
theorem vdqnt (d : BitVec 5) (a : BitVec 5) (f : BitVec 5) : Statement (.vdqnt d a f) := of_one rfl (by simp only [put_eq]; omega)
theorem vdot4 (d : BitVec 5) (a : BitVec 5) (b : BitVec 5) (t : BitVec 3) (c : BitVec 5) : Statement (.vdot4 d a b t c) := of_one rfl (by simp only [put_eq]; omega)
theorem vmovmMv (d : BitVec 3) (a : BitVec 5) : Statement (.vmovmMv d a) := of_one rfl (by simp only [put_eq]; omega)
theorem vmovmVm (d : BitVec 5) (m : BitVec 3) : Statement (.vmovmVm d m) := of_one rfl (by simp only [put_eq]; omega)
theorem vmovmMg (m : BitVec 3) (a : BitVec 6) : Statement (.vmovmMg m a) := of_one rfl (by simp only [put_eq]; omega)
theorem mlog (d : BitVec 6) (a : BitVec 3) (b : BitVec 3) (g : BitVec 1) (f : BitVec 4) : Statement (.mlog d a b g f) := of_one rfl (by simp only [put_eq]; omega)
theorem vidx (d : BitVec 5) (t : BitVec 3) : Statement (.vidx d t) := of_one rfl (by simp only [put_eq]; omega)
theorem vqput (a : BitVec 5) (f : BitVec 6) : Statement (.vqput a f) := of_one rfl (by simp only [put_eq]; omega)
theorem vqget (d : BitVec 5) (f : BitVec 6) : Statement (.vqget d f) := of_one rfl (by simp only [put_eq]; omega)
theorem vli (d : BitVec 5) (k : BitVec 2) (i : BitVec 16) : Statement (.vli d k i) := of_one rfl (by simp only [put_eq]; omega)
theorem repeatedVectorWord (k : BitVec 3) (sd : BitVec 3) (sa : BitVec 3) (sb : BitVec 3) (sc : BitVec 3) (op : BitVec 6) (d : BitVec 5) (a : BitVec 5) (b : BitVec 5) (t : BitVec 3) (c : BitVec 5) : Statement (.repeatedVectorWord k sd sa sb sc op d a b t c) := of_two rfl (by simp only [put_eq]; omega) (by simp only [put_eq]; omega)
theorem dictionaryWord (i : BitVec 8) (p : BitVec 21) : Statement (.dictionaryWord i p) := of_one rfl (by simp only [put_eq]; omega)
theorem wld (w : BitVec 4) (s : BitVec 4) (a : BitVec 6) (b : BitVec 6) (k : BitVec 7) (f : BitVec 5) (t : BitVec 1) (p : BitVec 6) : Statement (.wld w s a b k f t p) := of_two rfl (by simp only [put_eq]; omega) (by simp only [put_eq]; omega)
theorem wsel (w : BitVec 4) (s : BitVec 4) : Statement (.wsel w s) := of_one rfl (by simp only [put_eq]; omega)
theorem mstr (w : BitVec 4) (s : BitVec 4) (base : BitVec 8) (a : BitVec 6) (c : BitVec 2) (m : BitVec 8) (f : BitVec 5) (n : BitVec 3) (p : BitVec 6) : Statement (.mstr w s base a c m f n p) := of_two rfl (by simp only [put_eq]; omega) (by simp only [put_eq]; omega)
theorem mstq (w : BitVec 4) (s : BitVec 4) (base : BitVec 8) (q : BitVec 1) (c : BitVec 2) (m : BitVec 8) : Statement (.mstq w s base q c m) := of_two rfl (by simp only [put_eq]; omega) (by simp only [put_eq]; omega)
theorem mstx (w : BitVec 4) (s : BitVec 4) (base : BitVec 8) (a : BitVec 6) (c : BitVec 2) (m : BitVec 8) (f : BitVec 5) (n : BitVec 3) (p : BitVec 6) : Statement (.mstx w s base a c m f n p) := of_two rfl (by simp only [put_eq]; omega) (by simp only [put_eq]; omega)
theorem mepiBias (w : BitVec 4) (s : BitVec 4) (a : BitVec 6) : Statement (.mepiBias w s a) := of_one rfl (by simp only [put_eq]; omega)
theorem mepiScale (w : BitVec 4) (s : BitVec 4) (a : BitVec 6) : Statement (.mepiScale w s a) := of_one rfl (by simp only [put_eq]; omega)
theorem mepiZero (w : BitVec 4) (s : BitVec 4) (a : BitVec 6) : Statement (.mepiZero w s a) := of_one rfl (by simp only [put_eq]; omega)
theorem mepiAclr (w : BitVec 4) (s : BitVec 4) : Statement (.mepiAclr w s) := of_one rfl (by simp only [put_eq]; omega)
theorem mout (w : BitVec 4) (s : BitVec 4) (base : BitVec 8) (a : BitVec 6) (k : BitVec 2) (m : BitVec 8) (eb : BitVec 1) (ea : BitVec 1) (eq : BitVec 1) (f : BitVec 6) (n : BitVec 3) (c : BitVec 2) (i : BitVec 1) : Statement (.mout w s base a k m eb ea eq f n c i) := of_two rfl (by simp only [put_eq]; omega) (by simp only [put_eq]; omega)
theorem mgrp (w : BitVec 4) (s : BitVec 4) (base : BitVec 8) (a : BitVec 6) (c : BitVec 2) (nb : BitVec 4) (f : BitVec 5) (x : BitVec 6) (t : BitVec 6) : Statement (.mgrp w s base a c nb f x t) := of_two rfl (by simp only [put_eq]; omega) (by simp only [put_eq]; omega)
theorem mfade (w : BitVec 4) (s : BitVec 4) (a : BitVec 6) : Statement (.mfade w s a) := of_one rfl (by simp only [put_eq]; omega)
theorem mact (w : BitVec 4) (s : BitVec 4) (a : BitVec 6) : Statement (.mact w s a) := of_one rfl (by simp only [put_eq]; omega)
theorem mzero (w : BitVec 4) (s : BitVec 4) (b : BitVec 8) (c : BitVec 8) : Statement (.mzero w s b c) := of_one rfl (by simp only [put_eq]; omega)
theorem maccld (w : BitVec 4) (s : BitVec 4) (base : BitVec 8) (a : BitVec 6) (m : BitVec 8) : Statement (.maccld w s base a m) := of_two rfl (by simp only [put_eq]; omega) (by simp only [put_eq]; omega)
theorem mnb (w : BitVec 4) (s : BitVec 4) (a : BitVec 6) : Statement (.mnb w s a) := of_one rfl (by simp only [put_eq]; omega)
theorem mstat (w : BitVec 4) (s : BitVec 4) (d : BitVec 6) : Statement (.mstat w s d) := of_one rfl (by simp only [put_eq]; omega)
theorem mprog (w : BitVec 4) (s : BitVec 4) (n : BitVec 8) : Statement (.mprog w s n) := of_one rfl (by simp only [put_eq]; omega)
theorem msig (w : BitVec 4) (s : BitVec 4) : Statement (.msig w s) := of_one rfl (by simp only [put_eq]; omega)
theorem mcan (w : BitVec 4) (s : BitVec 4) : Statement (.mcan w s) := of_one rfl (by simp only [put_eq]; omega)
theorem matrixCommandComplete (core : Nat) : Statement (.matrixCommandComplete core) := of_none rfl
theorem cpy (c : BitVec 3) (d : BitVec 6) (s : BitVec 6) (b : BitVec 6) : Statement (.cpy c d s b) := of_one rfl (by simp only [put_eq]; omega)
theorem cpyLong (c : BitVec 3) (d : BitVec 6) (s : BitVec 6) (b : BitVec 6) (tv : BitVec 1) (tag : BitVec 6) (sl : BitVec 4) (cv : BitVec 1) (sf : BitVec 6) (df : BitVec 6) (qe : BitVec 2) : Statement (.cpyLong c d s b tv tag sl cv sf df qe) := of_two rfl (by simp only [put_eq]; omega) (by simp only [put_eq]; omega)
theorem cpyn (c : BitVec 3) (d : BitVec 6) (s : BitVec 6) (r : BitVec 6) (k : BitVec 3) : Statement (.cpyn c d s r k) := of_one rfl (by simp only [put_eq]; omega)
theorem cpynLong (c : BitVec 3) (d : BitVec 6) (s : BitVec 6) (r : BitVec 6) (k : BitVec 3) (tv : BitVec 1) (tag : BitVec 6) (sl : BitVec 4) (cv : BitVec 1) (sf : BitVec 6) (df : BitVec 6) (sd : BitVec 1) (mc : BitVec 1) : Statement (.cpynLong c d s r k tv tag sl cv sf df sd mc) := of_two rfl (by simp only [put_eq]; omega) (by simp only [put_eq]; omega)
theorem chain (c : BitVec 3) (a : BitVec 6) : Statement (.chain c a) := of_one rfl (by simp only [put_eq]; omega)
theorem drain (c : BitVec 3) (l : BitVec 1) (i : BitVec 16) : Statement (.drain c l i) := of_one rfl (by simp only [put_eq]; omega)
theorem twall (a : BitVec 6) (i : BitVec 16) : Statement (.twall a i) := of_one rfl (by simp only [put_eq]; omega)
theorem twany (a : BitVec 6) (i : BitVec 16) : Statement (.twany a i) := of_one rfl (by simp only [put_eq]; omega)
theorem tfind (d : BitVec 6) (a : BitVec 6) : Statement (.tfind d a) := of_one rfl (by simp only [put_eq]; omega)
theorem tclr (a : BitVec 6) : Statement (.tclr a) := of_one rfl (by simp only [put_eq]; omega)
theorem pfh (c : BitVec 3) (a : BitVec 6) (b : BitVec 6) : Statement (.pfh c a b) := of_one rfl (by simp only [put_eq]; omega)
theorem pfhAdapt (c : BitVec 3) (a : BitVec 6) (b : BitVec 6) : Statement (.pfhAdapt c a b) := of_one rfl (by simp only [put_eq]; omega)
theorem send (c : BitVec 3) (d : BitVec 6) (a : BitVec 6) (b : BitVec 6) : Statement (.send c d a b) := of_one rfl (by simp only [put_eq]; omega)
theorem drop (c : BitVec 3) (a : BitVec 6) : Statement (.drop c a) := of_one rfl (by simp only [put_eq]; omega)
theorem pqry (c : BitVec 3) (d : BitVec 6) (a : BitVec 6) : Statement (.pqry c d a) := of_one rfl (by simp only [put_eq]; omega)
theorem pull (h : BitVec 3) (a : BitVec 6) (b : BitVec 6) (n : BitVec 6) : Statement (.pull h a b n) := of_one rfl (by simp only [put_eq]; omega)
theorem pullLong (h : BitVec 3) (a : BitVec 6) (b : BitVec 6) (n : BitVec 6) (tv : BitVec 1) (tag : BitVec 6) : Statement (.pullLong h a b n tv tag) := of_two rfl (by simp only [put_eq]; omega) (by simp only [put_eq]; omega)
theorem bopen (t : BitVec 2) : Statement (.bopen t) := of_one rfl (by simp only [put_eq]; omega)
theorem bclose (t : BitVec 2) : Statement (.bclose t) := of_one rfl (by simp only [put_eq]; omega)
theorem bwait (d : BitVec 6) (t : BitVec 2) (i : BitVec 16) : Statement (.bwait d t i) := of_one rfl (by simp only [put_eq]; omega)
theorem bsel (t : BitVec 2) : Statement (.bsel t) := of_one rfl (by simp only [put_eq]; omega)
theorem sqst (d : BitVec 6) (a : BitVec 6) : Statement (.sqst d a) := of_one rfl (by simp only [put_eq]; omega)
theorem slotw (d : BitVec 6) (a : BitVec 6) (b : BitVec 6) : Statement (.slotw d a b) := of_one rfl (by simp only [put_eq]; omega)
theorem copyBurst (core : Nat) : Statement (.copyBurst core) := of_none rfl
theorem copyJobCompletion (core : Nat) (ch : Nat) : Statement (.copyJobCompletion core ch) := of_none rfl
theorem chainRecordFetch (core : Nat) (ch : Nat) : Statement (.chainRecordFetch core ch) := of_none rfl
theorem qbindReg (q : BitVec 4) (a : BitVec 6) : Statement (.qbindReg q a) := of_one rfl (by simp only [put_eq]; omega)
theorem qbindLabel (q : BitVec 4) (o : BitVec 19) : Statement (.qbindLabel q o) := of_one rfl (by simp only [put_eq]; omega)
theorem qres (d : BitVec 6) (q : BitVec 4) (i : BitVec 12) : Statement (.qres d q i) := of_one rfl (by simp only [put_eq]; omega)
theorem qcmt (a : BitVec 6) (q : BitVec 4) : Statement (.qcmt a q) := of_one rfl (by simp only [put_eq]; omega)
theorem qacq (d : BitVec 6) (q : BitVec 4) (i : BitVec 12) : Statement (.qacq d q i) := of_one rfl (by simp only [put_eq]; omega)
theorem qrel (a : BitVec 6) (q : BitVec 4) : Statement (.qrel a q) := of_one rfl (by simp only [put_eq]; omega)
theorem qstat (d : BitVec 6) (q : BitVec 4) : Statement (.qstat d q) := of_one rfl (by simp only [put_eq]; omega)
theorem hand (g : BitVec 6) (q : BitVec 4) (i : BitVec 12) : Statement (.hand g q i) := of_one rfl (by simp only [put_eq]; omega)
theorem role (m : BitVec 8) (s : BitVec 12) : Statement (.role m s) := of_one rfl (by simp only [put_eq]; omega)
theorem tbar : Statement (.tbar) := of_one rfl (by decide)
theorem cbar : Statement (.cbar) := of_one rfl (by decide)
theorem smwait (k : BitVec 4) (i : BitVec 12) : Statement (.smwait k i) := of_one rfl (by simp only [put_eq]; omega)
theorem smsig (k : BitVec 4) : Statement (.smsig k) := of_one rfl (by simp only [put_eq]; omega)
theorem sigw (a : BitVec 6) (b : BitVec 6) (i : BitVec 12) : Statement (.sigw a b i) := of_one rfl (by simp only [put_eq]; omega)
theorem sigwCond (a : BitVec 6) (b : BitVec 6) (i : BitVec 12) (c : BitVec 2) : Statement (.sigwCond a b i c) := of_two rfl (by simp only [put_eq]; omega) (by simp only [put_eq]; omega)
theorem sigadd (a : BitVec 6) (b : BitVec 6) (c : BitVec 2) : Statement (.sigadd a b c) := of_one rfl (by simp only [put_eq]; omega)
theorem awaitEq (a : BitVec 6) (b : BitVec 6) : Statement (.awaitEq a b) := of_one rfl (by simp only [put_eq]; omega)
theorem awaitGen (a : BitVec 6) (b : BitVec 6) : Statement (.awaitGen a b) := of_one rfl (by simp only [put_eq]; omega)
theorem awaitTags (b : BitVec 6) : Statement (.awaitTags b) := of_one rfl (by simp only [put_eq]; omega)
theorem yield : Statement (.yield) := of_one rfl (by decide)
theorem tend : Statement (.tend) := of_one rfl (by decide)
theorem spawn (d : BitVec 6) (a : BitVec 6) (b : BitVec 6) : Statement (.spawn d a b) := of_one rfl (by simp only [put_eq]; omega)
theorem guard (k : BitVec 4) (a : BitVec 6) : Statement (.guard k a) := of_one rfl (by simp only [put_eq]; omega)
theorem stge (k : BitVec 3) (a : BitVec 6) (b : BitVec 6) : Statement (.stge k a b) := of_one rfl (by simp only [put_eq]; omega)
theorem stwt (k : BitVec 3) (i : BitVec 12) : Statement (.stwt k i) := of_one rfl (by simp only [put_eq]; omega)
theorem teamid (d : BitVec 6) : Statement (.teamid d) := of_one rfl (by simp only [put_eq]; omega)
theorem qsubmit (b : BitVec 5) (a : BitVec 5) : Statement (.qsubmit b a) := of_one rfl (by simp only [put_eq]; omega)
theorem engineTrapTaken (core : Nat) (quad : Nat) : Statement (.engineTrapTaken core quad) := of_none rfl
theorem waitLimitExpiry (core : Nat) (quad : Nat) : Statement (.waitLimitExpiry core quad) := of_none rfl
theorem waitYield (core : Nat) : Statement (.waitYield core) := of_none rfl
theorem watchdogExpiry (core : Nat) (quad : Nat) : Statement (.watchdogExpiry core quad) := of_none rfl
theorem homeRequest (f : Nat) : Statement (.homeRequest f) := of_none rfl
theorem tlbWalk (f : Nat) : Statement (.tlbWalk f) := of_none rfl
theorem migrationComplete (f : Nat) : Statement (.migrationComplete f) := of_none rfl
theorem pullDataArrival (f : Nat) : Statement (.pullDataArrival f) := of_none rfl
theorem pullWaitTimeout (core : Nat) (quad : Nat) : Statement (.pullWaitTimeout core quad) := of_none rfl
theorem stallTimeout (f : Nat) : Statement (.stallTimeout f) := of_none rfl
theorem leaseRenewal (f : Nat) : Statement (.leaseRenewal f) := of_none rfl
theorem linkExpiry (f : Nat) (l : Nat) : Statement (.linkExpiry f l) := of_none rfl
theorem linkRelease (f : Nat) (l : Nat) : Statement (.linkRelease f l) := of_none rfl
theorem packetSend (dst : Nat) : Statement (.packetSend dst) := of_none rfl
theorem e2eTimeout (dst : Nat) : Statement (.e2eTimeout dst) := of_none rfl
theorem packetStart (q : Nat) : Statement (.packetStart q) := of_none rfl
theorem tickLaunch (q : Nat) : Statement (.tickLaunch q) := of_none rfl
theorem dispatchPlacement (f : Nat) : Statement (.dispatchPlacement f) := of_none rfl
theorem locusEntryStart (core : Nat) : Statement (.locusEntryStart core) := of_none rfl
theorem taskDone (task : Nat) : Statement (.taskDone task) := of_none rfl
theorem budgetOverrun (core : Nat) : Statement (.budgetOverrun core) := of_none rfl
theorem taskSuspend (core : Nat) (cause : SuspCause) : Statement (.taskSuspend core cause) := of_none rfl
theorem switchAway (core : Nat) : Statement (.switchAway core) := of_none rfl
theorem awaitConditionMet (task : Nat) : Statement (.awaitConditionMet task) := of_none rfl
theorem contextSave (core : Nat) : Statement (.contextSave core) := of_none rfl
theorem saveComplete (core : Nat) : Statement (.saveComplete core) := of_none rfl
theorem freezeEnd (core : Nat) : Statement (.freezeEnd core) := of_none rfl
theorem illegalEncoding (sub : BitVec 8) : Statement (.illegalEncoding sub) := of_none rfl
theorem exposedResultLanding (core : Nat) (quad : Nat) : Statement (.exposedResultLanding core quad) := of_none rfl
theorem restoreComplete (core : Nat) : Statement (.restoreComplete core) := of_none rfl
theorem mprogRowsWritten (core : Nat) : Statement (.mprogRowsWritten core) := of_none rfl
theorem pageReady (f : Nat) (asid : BitVec 16) (off : BitVec 54) : Statement (.pageReady f asid off) := of_none rfl
theorem migrate (f : Nat) (asid : BitVec 16) (off : BitVec 54) (ffac : Nat) (frame : BitVec 48) : Statement (.migrate f asid off ffac frame) := of_none rfl
theorem migclr (f : Nat) (v : Word) : Statement (.migclr f v) := of_none rfl
theorem nqheadWrite (f : Nat) (v : Word) : Statement (.nqheadWrite f v) := of_none rfl
theorem tlbinvPage (f : Nat) (asid : BitVec 16) (vpn : BitVec 38) : Statement (.tlbinvPage f asid vpn) := of_none rfl
theorem tlbinvAsid (f : Nat) (asid : BitVec 16) : Statement (.tlbinvAsid f asid) := of_none rfl
theorem tlbinvAll (f : Nat) : Statement (.tlbinvAll f) := of_none rfl
theorem packetReceive : Statement (.packetReceive) := of_none rfl
theorem e2eAcknowledgement : Statement (.e2eAcknowledgement) := of_none rfl
theorem linkReplayRequest (fibre : Nat) (chan : Nat) (lseq : BitVec 8) : Statement (.linkReplayRequest fibre chan lseq) := of_none rfl
theorem linkCreditReturn (fibre : Nat) (chan : Nat) (n : Nat) : Statement (.linkCreditReturn fibre chan n) := of_none rfl
theorem reservationReturn (dst : Nat) (n : Nat) (quota : Nat) : Statement (.reservationReturn dst n quota) := of_none rfl
theorem summaryRequest : Statement (.summaryRequest) := of_none rfl
theorem summaryReply : Statement (.summaryReply) := of_none rfl
theorem slotStart : Statement (.slotStart) := of_none rfl
theorem tableActivate : Statement (.tableActivate) := of_none rfl
theorem fabactLoad (v : Word) : Statement (.fabactLoad v) := of_none rfl
theorem rquotaWrite (s : Nat) (v : Word) : Statement (.rquotaWrite s v) := of_none rfl
theorem sqDoorbell (q : Nat) (v : BitVec 32) : Statement (.sqDoorbell q v) := of_none rfl
theorem locusRefine (c : Nat) (hash : Word) : Statement (.locusRefine c hash) := of_none rfl
theorem taskKill (task : Nat) : Statement (.taskKill task) := of_none rfl
theorem preempt (c : Nat) : Statement (.preempt c) := of_none rfl
theorem resumeContext (c : Nat) : Statement (.resumeContext c) := of_none rfl
theorem coreoffWrite (f : Nat) (k : Nat) (v : Word) : Statement (.coreoffWrite f k v) := of_none rfl
theorem locinv (c : Nat) (v : Word) : Statement (.locinv c v) := of_none rfl
theorem locinva (c : Nat) : Statement (.locinva c) := of_none rfl
theorem sqctlWrite (q : Nat) (v : Word) : Statement (.sqctlWrite q v) := of_none rfl
theorem sqerrClear (q : Nat) : Statement (.sqerrClear q) := of_none rfl
theorem ciqctlWrite (c : Nat) (v : Word) : Statement (.ciqctlWrite c v) := of_none rfl
theorem feataccWrite (v : Word) : Statement (.feataccWrite v) := of_none rfl
theorem dbgRead : Statement (.dbgRead) := of_none rfl
theorem dbgWrite : Statement (.dbgWrite) := of_none rfl
theorem dbgFreeze : Statement (.dbgFreeze) := of_none rfl
theorem dbgThaw : Statement (.dbgThaw) := of_none rfl
theorem dbgauthGo : Statement (.dbgauthGo) := of_none rfl
theorem dbgauthLock : Statement (.dbgauthLock) := of_none rfl
theorem eccCorrected (core : Nat) : Statement (.eccCorrected core) := of_none rfl
theorem eccUncorrectable (core : Nat) (owned : Bool) : Statement (.eccUncorrectable core owned) := of_none rfl
theorem clockStep (f : Nat) (up : Bool) : Statement (.clockStep f up) := of_none rfl
theorem thermalShutdown : Statement (.thermalShutdown) := of_none rfl
theorem powerOn : Statement (.powerOn) := of_none rfl
theorem registerWrite (r : SupReg) (v : Word) : Statement (.registerWrite r v) := of_none rfl
theorem powerOff : Statement (.powerOff) := of_none rfl
theorem dbgauthVerifyDone : Statement (.dbgauthVerifyDone) := of_none rfl
theorem fabimgLoadDone : Statement (.fabimgLoadDone) := of_none rfl

end Sys2Proof.Laws.Fits
end

