-- ==== Sys2Proof/Laws/Registers.lean ====
section
/-! SUPPORT. The laws of a quadrant's registers: a read after a write, the hard-wired g0 and p0, and what the end of a word leaves alone. -/

namespace Sys2Proof.Machine

/-! ### g registers (R44, R45) -/

@[simp] theorem Quad.gr_zero (q : Quad) : q.gr 0 = 0 := rfl
theorem Quad.gr_setG (q : Quad) (k j : Nat) (x : Word) : (q.setG k x).gr j = if j = k ∧ k ≠ 0 then x else q.gr j := by
  unfold Quad.setG Quad.gr
  by_cases hk : k = 0
  · simp [hk]
  · by_cases hj : j = 0
    · simp [hj]; intro h; exact absurd h.symm (by simpa using hk)
    · simp [hk, hj, Tab.get_set]
theorem Quad.br_setB (q : Quad) (k j : Nat) (x : Word) : (q.setB k x).br j = if j = k ∧ k < 4 then x else q.br j := by
  unfold Quad.setB Quad.br
  by_cases hk : 4 ≤ k
  · simp [hk, show ¬ k < 4 by omega]
  · simp [hk, show k < 4 by omega, Tab.get_set]
theorem Quad.vr_setV (q : Quad) (k j : Nat) (x : VReg) : (q.setV k x).vr j = if j = k then x else q.vr j := Tab.get_set _ _ _ _ _
theorem Quad.mr_setM (q : Quad) (k j : Nat) (x : BitVec 32) : (q.setM k x).mr j = if j = k then x else q.mr j := Tab.get_set _ _ _ _ _
theorem Quad.nest_setNest (q : Quad) (k j : Nat) (x : Nest) : (q.setNest k x).nest j = if j = k then x else q.nest j := Tab.get_set _ _ _ _ _
@[simp] theorem Quad.pr_zero (q : Quad) : q.pr 0 = true := rfl

/-- The other registers of a quadrant whose g register is written. -/
theorem Quad.setG_rest (q : Quad) (k : Nat) (x : Word) : ({ q.setG k x with g := q.g } : Quad) = q := by
  unfold Quad.setG; split <;> rfl
theorem Quad.setB_rest (q : Quad) (k : Nat) (x : Word) : ({ q.setB k x with b := q.b } : Quad) = q := by
  unfold Quad.setB; split <;> rfl

@[simp] theorem Quad.br_setG (q : Quad) (k j : Nat) (x : Word) : (q.setG k x).br j = q.br j := by unfold Quad.setG; split <;> rfl
@[simp] theorem Quad.gr_setB (q : Quad) (k j : Nat) (x : Word) : (q.setB k x).gr j = q.gr j := by unfold Quad.setB; split <;> rfl
@[simp] theorem Quad.setG_pend (q : Quad) (k : Nat) (x : Word) : (q.setG k x).pend = q.pend := by unfold Quad.setG; split <;> rfl
@[simp] theorem Quad.setB_pend (q : Quad) (k : Nat) (x : Word) : (q.setB k x).pend = q.pend := by unfold Quad.setB; split <;> rfl

/-- R43: the products in flight after the scalar pipeline has written g register `k` in cycle `t`: one that lands with the write loses its register. -/
def outrun (k t : Nat) (l : List Pend) : List Pend :=
  l.map (fun p => if engOf p.eng = 0 ∧ p.dst = .g k ∧ p.land = t + 1 then { p with dst := .none } else p)

theorem Quad.writeG_eq (q : Quad) (k : Nat) (x : Word) : q.writeG k x = ({ q with pend := outrun k q.cyc q.pend } : Quad).setG k x := rfl
theorem Quad.gr_writeG (q : Quad) (k j : Nat) (x : Word) : (q.writeG k x).gr j = if j = k ∧ k ≠ 0 then x else q.gr j := by
  rw [Quad.writeG_eq, Quad.gr_setG]; rfl
@[simp] theorem Quad.br_writeG (q : Quad) (k j : Nat) (x : Word) : (q.writeG k x).br j = q.br j := by rw [Quad.writeG_eq, Quad.br_setG]; rfl
@[simp] theorem Quad.writeG_pend (q : Quad) (k : Nat) (x : Word) : (q.writeG k x).pend = outrun k q.cyc q.pend := by
  rw [Quad.writeG_eq, Quad.setG_pend]
theorem Quad.writeG_rest (q : Quad) (k : Nat) (x : Word) : ({ q.writeG k x with g := q.g, pend := q.pend } : Quad) = q := by
  rw [Quad.writeG_eq]; unfold Quad.setG; split <;> rfl

/-! ### Advances of LOOPN registers (R97) -/

theorem Quad.land_g (q : Quad) (p : Pend) (k : Nat) (h : p.dst = .g k) : ({ q.land p with g := q.g, b := q.b } : Quad) = q := by
  unfold Quad.land
  split
  · rfl
  · rw [h]; dsimp only
    have h1 := (q.setG k (BitVec.ofNat 64 p.val)).setB_rest p.latch (BitVec.ofNat 64 p.val)
    have h2 := q.setG_rest k (BitVec.ofNat 64 p.val)
    generalize q.setG k (BitVec.ofNat 64 p.val) = w at *
    calc _ = ({ ({ w.setB p.latch (BitVec.ofNat 64 p.val) with b := w.b } : Quad) with g := q.g, b := q.b } : Quad) := rfl
      _ = { ({ w with g := q.g } : Quad) with b := q.b } := by rw [h1]
      _ = q := by rw [h2]

theorem Quad.landAll_g (l : List Pend) (q : Quad) (h : ∀ p ∈ l, ∃ k, p.dst = .g k) :
    ({ l.foldl Quad.land q with g := q.g, b := q.b } : Quad) = q := by
  induction l generalizing q with
  | nil => rfl
  | cons p r ih =>
    obtain ⟨k, hk⟩ := h p (by simp)
    have h1 := ih (q.land p) (fun x hx => h x (by simp [hx]))
    have h2 := q.land_g p k hk
    rw [List.foldl_cons]
    generalize q.land p = w at *
    calc _ = ({ ({ r.foldl Quad.land w with g := w.g, b := w.b } : Quad) with g := q.g, b := q.b } : Quad) := rfl
      _ = q := by rw [h1, h2]

/-- Outside g registers, latches and what is in flight an advance changes nothing. -/
theorem Quad.landRead_adv (q : Quad) (f n : Nat) :
    ({ q.landRead 0 (advUse f n) with g := q.g, b := q.b, pend := q.pend, snap := q.snap } : Quad) = q := by
  unfold Quad.landRead
  extract_lets hit inSnap
  have hg : ∀ p ∈ q.pend.filter hit ++ q.snap.filter inSnap, ∃ k, p.dst = .g k := by
    intro p hp
    have hc : (advUse f n).reads.contains p.dst = true := by
      rcases List.mem_append.1 hp with hp | hp
      · have := (List.mem_filter.1 hp).2
        simp only [hit, advUse, Bool.and_eq_true, Bool.or_eq_true, List.contains_nil] at this ⊢
        rcases this.2 with h | h
        · exact h.2
        · simp at h
      · have := (List.mem_filter.1 hp).2
        simp only [inSnap, advUse, Bool.and_eq_true, Bool.or_eq_true, List.contains_nil] at this ⊢
        rcases this.2 with h | h
        · exact h.2
        · simp at h
    simp only [advUse, List.contains_iff_mem, List.mem_map] at hc
    obtain ⟨i, _, hi⟩ := hc
    exact ⟨_, hi.symm⟩
  have := Quad.landAll_g (q.pend.filter hit ++ q.snap.filter inSnap)
    ({ q with pend := q.pend.filter (fun p => !hit p), snap := q.snap.filter (fun p => !inSnap p) } : Quad) hg
  exact congrArg (fun x : Quad => ({ x with pend := q.pend, snap := q.snap } : Quad)) this

theorem Quad.bump_rest (q : Quad) (first : Nat) (d : Int) (n : Nat) : ({ q.bump first d n with g := q.g, pend := q.pend } : Quad) = q := by
  induction n generalizing q with
  | zero => rfl
  | succ n ih =>
    rw [Quad.bump]
    have h1 := ih (q.writeG (first + n) (q.gr (first + n) + BitVec.ofInt 64 d))
    have h2 := q.writeG_rest (first + n) (q.gr (first + n) + BitVec.ofInt 64 d)
    generalize q.writeG (first + n) (q.gr (first + n) + BitVec.ofInt 64 d) = w at *
    calc ({ w.bump first d n with g := q.g, pend := q.pend } : Quad)
        = { ({ w.bump first d n with g := w.g, pend := w.pend } : Quad) with g := q.g, pend := q.pend } := rfl
      _ = { w with g := q.g, pend := q.pend } := by rw [h1]
      _ = q := h2

theorem Quad.advance_rest (q : Quad) (f : Nat) (d : Int) (n : Nat) :
    ({ q.advance f d n with g := q.g, b := q.b, pend := q.pend, snap := q.snap, adv := q.adv } : Quad) = q := by
  unfold Quad.advance
  split
  · rfl
  · split
    · unfold Quad.advanceNow
      have h1 := (q.landRead 0 (advUse f n)).bump_rest f d n
      have h2 := q.landRead_adv f n
      dsimp only
      generalize q.landRead 0 (advUse f n) = w at *
      calc _ = ({ ({ w.bump f d n with g := w.g, pend := w.pend } : Quad) with
            g := q.g, b := q.b, pend := q.pend, snap := q.snap, adv := q.adv } : Quad) := rfl
        _ = { ({ w with g := q.g, b := q.b, pend := q.pend, snap := q.snap } : Quad) with adv := q.adv } := by rw [h1]
        _ = q := by rw [h2]
    · rfl

/-- With nothing in flight and no snapshot that has come back, a read makes nothing land. -/
theorem Quad.landRead_quiet (q : Quad) (e : Nat) (u : Use) (hp : q.pend = []) (hs : q.snapBack = false) : q.landRead e u = q := by
  cases q
  dsimp only at hp hs
  subst hp; subst hs
  have e0 : ∀ l : List Pend, l.filter (fun _ => false) = [] := fun l => by induction l <;> simp_all
  have e1 : ∀ l : List Pend, l.filter (fun _ => true) = l := fun l => by induction l <;> simp_all
  simp only [Quad.landRead, List.filter_nil, Bool.false_and, Bool.not_false, e0, e1, List.nil_append, List.foldl_nil]

/-- With nothing in flight, queued or owed, and no advance that waits, the registers advance at once. -/
theorem Quad.advance_quiet (q : Quad) (f : Nat) (d : Int) (n : Nat) (hp : q.pend = []) (hs : q.snapBack = false) (ho : q.owed = [])
    (hm : q.memQ = []) (hv : q.vecQ = []) (ha : q.adv = []) : q.advance f d n = q.bump f d n := by
  unfold Quad.advance
  split
  · rename_i h; subst h; rfl
  · have h1 := q.landRead_quiet 0 (advUse f n) hp hs
    rw [if_pos]
    · unfold Quad.advanceNow; simp only [h1]
    · simp [ha, Quad.advFree, Quad.owes, Quad.owesMem, Quad.owesEngine, Quad.owesVec, ho, hm, hv, Quad.clear, hp]

/-! ### The end of a word (R97) -/

/-- Outside g registers, latches, what is in flight, advances that wait, the loop stack and the program counter the end test changes nothing. -/
theorem Quad.endTest_rest (q : Quad) (a : Word) (len fuel : Nat) :
    ({ q.endTest a len fuel with g := q.g, b := q.b, pend := q.pend, snap := q.snap, adv := q.adv, loops := q.loops, pc := q.pc } : Quad) = q := by
  induction fuel generalizing q with
  | zero => rfl
  | succ n ih =>
    rw [Quad.endTest]
    split
    · rfl
    · rename_i l rest _
      split
      · rfl
      · split
        · have hb := q.advance_rest l.first (nestDelta l.bounds (l.strides.map (fun x => x.toInt)) ((nestPos l.bounds l.idx 0).getD l.k)) l.cnt
          dsimp only
          generalize q.advance _ _ _ = w at *
          split
          · have := ih { w with loops := rest }
            calc ({ ({ w with loops := rest } : Quad).endTest a len n with
                    g := q.g, b := q.b, pend := q.pend, snap := q.snap, adv := q.adv, loops := q.loops, pc := q.pc } : Quad)
                = { ({ ({ w with loops := rest } : Quad).endTest a len n with
                    g := w.g, b := w.b, pend := w.pend, snap := w.snap, adv := w.adv, loops := rest, pc := w.pc } : Quad)
                    with g := q.g, b := q.b, pend := q.pend, snap := q.snap, adv := q.adv, loops := q.loops, pc := q.pc } := rfl
              _ = { ({ w with g := q.g, b := q.b, pend := q.pend, snap := q.snap, adv := q.adv } : Quad) with loops := q.loops, pc := q.pc } := by
                rw [this]
              _ = q := by rw [hb]
          · calc _ = ({ ({ w with g := q.g, b := q.b, pend := q.pend, snap := q.snap, adv := q.adv } : Quad) with loops := q.loops, pc := q.pc } : Quad) := rfl
              _ = q := by rw [hb]
        · split
          · have := ih { q with loops := rest }
            calc _ = ({ ({ ({ q with loops := rest } : Quad).endTest a len n with
                      g := q.g, b := q.b, pend := q.pend, snap := q.snap, adv := q.adv, loops := rest, pc := q.pc } : Quad)
                    with loops := q.loops } : Quad) := rfl
              _ = q := by rw [this]
          · rfl

/-- What the end of a word changes besides: its cycle, its count, its wait and its displaced pattern. -/
theorem Quad.retire_rest (q : Quad) (n : Nat) :
    ({ q.retire n with g := q.g, b := q.b, pend := q.pend, snap := q.snap, adv := q.adv, loops := q.loops, pc := q.pc, cyc := q.cyc, wait := q.wait,
                       inject := q.inject, words := q.words, doneAt := q.doneAt } : Quad) = q := by
  have h := q.endTest_rest q.pc q.wlen 5
  unfold Quad.retire
  calc _ = ({ ({ q.endTest q.pc q.wlen 5 with
        g := q.g, b := q.b, pend := q.pend, snap := q.snap, adv := q.adv, loops := q.loops, pc := q.pc } : Quad) with
        cyc := q.cyc, wait := q.wait, inject := q.inject, words := q.words, doneAt := q.doneAt } : Quad) := rfl
    _ = q := by rw [h]

/-- No level ends at the word: the next word follows. -/
theorem Quad.endTest_plain (q : Quad) (a : Word) (len fuel : Nat) (h : ∀ l ∈ q.loops.head?, atLast a len l = false) :
    q.endTest a len fuel = { q with pc := a + BitVec.ofNat 64 len } := by
  cases fuel with
  | zero => rfl
  | succ n =>
    rw [Quad.endTest]; split
    · rfl
    · rename_i l _ e; simp [h l (by simp [e])]

end Sys2Proof.Machine
end

