-- ==== Sys2Proof/Laws/Words.lean ====
section
/-! SUPPORT. What the shared forms of the splitter words do: a word waits for a register that is owed, and otherwise changes its quadrant. -/

namespace Sys2Proof.Machine

/-- R42: a word that an engine owes a register stands for a cycle. -/
theorem State.issue_owed (s : State) (u : Use) (k : State → State) (h : s.me.owes u = true) : s.issue u k = s.poll := by
  unfold State.issue State.issueOf; rw [if_pos h]

/-- R42: one whose operands land later looks again in that cycle. -/
theorem State.issue_early (s : State) (u : Use) (k : State → State) (h : s.me.owes u = false) (t : s.me.cyc < s.me.readyAt u) :
    s.issue u k = s.updMe (fun q => { q with cyc := q.readyAt u }) := by
  unfold State.issue State.issueOf; rw [if_neg (by simp [h]), if_pos t]

/-- Otherwise it runs on the quadrant as the interlocks leave it. -/
theorem State.issue_free (s : State) (u : Use) (k : State → State) (h : s.me.owes u = false) (t : s.me.readyAt u ≤ s.me.cyc) :
    s.issue u k = k (s.updMe (fun q => q.begin u)) := by
  unfold State.issue State.issueOf; rw [if_neg (by simp [h]), if_neg (by omega)]

/-- R42: a word of E = 3, 4 or 5 waits for a register that is owed too. -/
theorem State.steer_owed (s : State) (u : Use) (k : State → State) (h : s.me.owes u = true) : s.steer u k = s.poll := by
  unfold State.steer State.issueOf; rw [if_pos h]

theorem State.steer_free (s : State) (u : Use) (k : State → State) (h : s.me.owes u = false) (t : s.me.readyAt u 7 ≤ s.me.cyc) :
    s.steer u k = k (s.updMe (fun q => q.begin u 7)) := by
  unfold State.steer State.issueOf; rw [if_neg (by simp [h]), if_neg (by omega)]

theorem State.alu_free (s : State) (l : List (BitVec 6)) (d : BitVec 6) (f : Quad → Word) (h : s.me.owes (useOf l d 0) = false)
    (t : s.me.readyAt (useOf l d 0) ≤ s.me.cyc) :
    s.alu l d f = s.updMe (fun q => let w := q.begin (useOf l d 0); ((w.writeG d.toNat (f w)).setB 0 (f w)).retire 0) := by
  unfold State.alu; rw [State.issue_free _ _ _ h t, State.updMe_updMe]

theorem State.predWord_free (s : State) (l : List (BitVec 6)) (ps : List Nat) (f : Quad → Quad) (h : s.me.owes (predUse l ps) = false)
    (t : s.me.readyAt (predUse l ps) ≤ s.me.cyc) :
    s.predWord l ps f = s.updMe (fun q => (f (q.begin (predUse l ps))).retire 0) := by
  unfold State.predWord; rw [State.issue_free _ _ _ h t, State.updMe_updMe]

theorem State.mulUnit_free (s : State) (d : BitVec 6) (n : BitVec 1) (a b : BitVec 6) (f : Word → Word → Word)
    (h : s.me.owes (useOf [a, b] (dstOf d n) 1) = false) (t : s.me.readyAt (useOf [a, b] (dstOf d n) 1) ≤ s.me.cyc) :
    s.mulUnit d n a b f = s.updMe (fun q =>
      let w := q.begin (useOf [a, b] (dstOf d n) 1)
      ({ w with pend := w.pend ++ [({ eng := 0, dst := gDst (dstOf d n), latch := 1, val := (f (w.src a) (w.src b)).toNat, mask := 0,
                                      land := w.cyc + 3 } : Pend)] } : Quad).retire 0) := by
  unfold State.mulUnit; rw [State.issue_free _ _ _ h t, State.updMe_updMe]

/-- What is left alone by a change of the quadrant whose turn it is. -/
theorem State.updMe_frame (s : State) (f : Quad → Quad) :
    ({ s.updMe f with cores := s.cores } : State) = s ∧ (∀ c, c ≠ s.cur.core → (s.updMe f).core c = s.core c)
      ∧ (s.updMe f).myCore.setQuad s.cur.quad s.me = s.myCore ∧ ∀ key, (s.updMe f).byteAt key = s.byteAt key :=
  ⟨rfl, fun _ h => s.core_updMe_ne f h, by
    rw [State.myCore_updMe, Core.setQuad_setQuad]; exact Core.setQuad_quad _ _, fun _ => rfl⟩

end Sys2Proof.Machine
end

