-- ==== Sys2Proof/Tests/Slice0.lean ====
section
/-! SUPPORT. The model's own tests: ill-formed instructions that the field rules refuse, words written out from the encoding tables, single steps with results worked out
from the manual, and for every statement with hypotheses a state and operands that meet them. -/

namespace Sys2Proof.Tests
open Sys2Proof.Machine Sys2Proof.Claim
set_option Elab.async false

/-! ### Small states -/

/-- Quadrant 0 of core 0 at the first byte of its scratchpad, before a NOP. -/
def start : State := State.reset.withFetchWord 32 0

/-- The same with some registers: g1 = 24, g2 = 5, g3 = 0x1002, g4 = 0x03C0000000000040 (its own scratchpad), g5 = -1, g6 = 0x8000000000000000; p2 is set. -/
def some1 : State := start.updMe (fun q =>
  { q with g := ((((((Tab.empty : Tab Word).set 0 1 24).set 0 2 5).set 0 3 0x1002).set 0 4 0x03C0000000000040).set 0 5 (-1)).set 0 6 0x8000000000000000,
           p := 0b101, trapvec := 0x1230, cyc := 10 })

/-- The next state of a step. -/
def after (x : Host.Outcome State Fault Refusal) : State := match x with | .next t => t | _ => State.reset

def isNext (x : Host.Outcome State Fault Refusal) : Bool := match x with | .next _ => true | _ => false

/-- A quadrant of the same state changed. -/
def withQuad (f : Quad → Quad) : State := some1.updMe f

theorem free_of {s : State} {u : Use} {eng : Nat} (h : s.me.owes u = false ∧ s.me.readyAt u eng ≤ s.me.cyc) : Free s u eng := h

/-! ### Words and registers -/

theorem witness_integerWords : ∃ s i r, resultOf i = some r ∧ Free s (useOf r.reads r.d 0) := ⟨some1, .add 3 0 1 2, _, rfl, free_of (by decide)⟩
theorem witness_multiply : ∃ s i r, productOf i = some r ∧ Free s (useOf r.reads r.d 1) := ⟨some1, .divn 3 0 1 2, _, rfl, free_of (by decide)⟩

/-- A product for g7 and b1 in flight before one for v2 that lands in the same cycle. -/
def inFlight : State := { withQuad (fun q => { q with pend :=
  [({ eng := 0, dst := .g 7, latch := 1, val := 6, mask := 0, land := 12 } : Pend), { eng := 2, dst := .v 2, latch := 4, val := 9, mask := 15, land := 12 },
   { eng := 0, dst := .g 7, latch := 1, val := 8, mask := 0, land := 12 }] }) with cycle := 12 }

theorem witness_resultsLand : ∃ (s : State) (before after : List Pend) (p : Pend), (s.quadOf 0 0).pend = before ++ p :: after ∧
    p ∈ (s.quadOf 0 0).pend.filter (fun p => decide (p.land ≤ s.cycle ∧ p.eng ≠ 3)) ∧
    LandsLast ((s.quadOf 0 0).pend.filter (fun p => decide (p.land ≤ s.cycle ∧ p.eng ≠ 3))) Pend.dst before p after ∧
    LandsLast ((s.quadOf 0 0).pend.filter (fun p => decide (p.land ≤ s.cycle ∧ p.eng ≠ 3))) Pend.latch before p after ∧ p.latch < 4 :=
  ⟨inFlight, [_, _], [], _, rfl, by decide, by unfold LandsLast; decide, by unfold LandsLast; decide, by decide⟩
theorem witness_resultsStay : ∀ p ∈ (inFlight.quadOf 0 0).pend, p.dst ≠ .g 8 ∧ p.dst ≠ .v 3 ∧ p.dst ≠ .m 1 ∧ p.latch ≠ 0 := by decide
theorem test_landing : ((after (exec (.exposedResultLanding 0 0) inFlight)).me.gr 7, (after (exec (.exposedResultLanding 0 0) inFlight)).me.br 1) = (8, 8) := by decide

theorem witness_predicates : ∃ s i r, predicatesOf i = some r ∧ Free s (predUse r.reads r.writes) := ⟨some1, .cmpi 2 3 1 30, _, rfl, free_of (by decide)⟩
theorem witness_nset : Free some1 (predUse [1, 2] []) ∧ Free some1 (predUse [] []) := by unfold Free; decide

/-! ### CSRs and traps -/

theorem witness_csrr : ∃ (s : State) (d : BitVec 6) (c : BitVec 12) (x : Word), Free s (useOf [] d 4) ∧ (c.toNat = 0x010 → s.me.vecQ = []) ∧ (c.toNat = 0x011 → s.me.memQ = []) ∧
    csrReads (s.updMe (fun _ => s.me.begin (useOf [] d 4))) 10 c.toNat = some x := ⟨some1, 7, 3, _, by unfold Free; decide, by decide, by decide, rfl⟩
theorem witness_csrr_rndmode : csrReads some1 10 0x010 = some 0 ∧ some1.me.vecQ = [] ∧ csrReads some1 10 0x011 = some 0 ∧ some1.me.memQ = [] := by decide
theorem witness_csrw : ∃ (s : State) (a : BitVec 6) (c : BitVec 12) (now : Nat) (old : Word), Free s (useOf [a] 0 4) ∧
    ¬ Refuses s c.toNat ((s.me.begin (useOf [a] 0 4)).src a) ∧ (c.toNat = 0x070 → s.cores.wf {} = true) ∧
    csrReads (s.updMe (fun _ => s.me.begin (useOf [a] 0 4))) now c.toNat = some old :=
  ⟨some1, 1, 3, 10, _, by unfold Free; decide, by unfold Refuses queueCodeOk markerCode; dsimp only; decide, by decide, rfl⟩
theorem witness_csrw_refused : Free some1 (useOf [5] 0 4) ∧ CanTrap some1 ∧ Refuses some1 0x010 ((some1.me.begin (useOf [5] 0 4)).src 5) := by
  refine ⟨by unfold Free; decide, by unfold CanTrap; decide, ?_⟩
  unfold Refuses queueCodeOk markerCode; dsimp only; decide
theorem witness_csrw_refused_format : Refuses some1 0x042 20 ∧ Refuses some1 0x044 0x6000 := by
  unfold Refuses queueCodeOk markerCode; dsimp only; decide
theorem witness_traps : Free some1 {} ∧ CanTrap some1 := ⟨by unfold Free; decide, by unfold CanTrap; decide⟩
theorem witness_fatal : (∃ s : State, Free s {} ∧ s.me.inh = true) ∧ ∃ s : State, Free s {} ∧ s.me.inh = false ∧ s.me.trapvec = 0 :=
  ⟨⟨withQuad (fun q => { q with inh := true }), by unfold Free; decide, by decide⟩, ⟨start, by unfold Free; decide, by decide, by decide⟩⟩

/-- A quadrant in its handler, with the matrix engine stopped at a command of its own. -/
def inHandler : State := (withQuad (fun q => { q with inh := true })).updMyCore (fun k =>
  { k with halt := true, prog1 := 4, mq := [({ word := .mzero 0 0 2 1, ops := [], dims := [], mode := 0, quad := 0, wordAt := 0, token := 0 } : MCmd)] })

theorem witness_tret : (Free some1 {} ∧ some1.me.inh = false ∧ CanTrap some1) ∧ Free inHandler {} ∧ inHandler.me.inh = true ∧ (inHandler.me.begin {}).chImg = Tab.empty :=
  ⟨⟨by unfold Free; decide, by decide, by unfold CanTrap; decide⟩, by unfold Free; decide, by decide, by decide⟩
theorem witness_tret_image : ∃ m rest, inHandler.myCore.halt = true ∧ inHandler.myCore.mq = [] ++ m :: rest ∧ m.reload = false ∧ inHandler.myCore.mq.head?.map MCmd.quad = some inHandler.cur.quad :=
  ⟨_, [], by decide, rfl, by decide, by decide⟩
/-- Behind the reload of a restore. -/
def reloading : State := inHandler.updMyCore (fun k => { k with mq := ({ word := .maccld 0 0 0 0 255, quad := 0, reload := true } : MCmd) :: k.mq })
theorem witness_tret_reload : ∃ y m, reloading.myCore.mq = [y] ++ m :: [] ∧ y.reload = true ∧ m.reload = false ∧ reloading.myCore.mq.head?.map MCmd.quad = some reloading.cur.quad :=
  ⟨_, _, rfl, by decide, by decide, by decide⟩
theorem witness_tret_skips : (inHandler.me.begin {}).xskip = false ∧
    ((inHandler.updMe (fun q => { q with xskip := true })).me.begin {}).xskip = true := by decide
theorem witness_owed : ∃ (s : State) (i : Instr) (r : Result), resultOf i = some r ∧ s.me.owes (useOf r.reads r.d 0) = true :=
  ⟨withQuad (fun q => { q with owed := [({ token := 1, dst := .g 1, latch := 4, size := 8, sg := false } : Owed)] }), .add 3 0 1 2, _, rfl, by decide⟩
/-- A result of the memory engine for g1 is on its way, and an earlier one for g2. -/
def onTheWay : State := withQuad (fun q => { q with pend := [({ eng := 1, dst := .g 1, latch := 2, val := 6, mask := 0, land := 20 } : Pend), { eng := 1, dst := .g 2, latch := 2, val := 6, mask := 0, land := 12 }] })
theorem witness_waits : ScalarUse (.add 3 0 1 2) (useOf [1, 2] 3 0) ∧ onTheWay.me.owes (useOf [1, 2] 3 0) = false ∧ onTheWay.me.snapBack = false ∧ (∀ p ∈ onTheWay.me.pend, p.eng < 4) ∧
    ∃ p ∈ onTheWay.me.pend, WaitsFor (useOf [1, 2] 3 0) p ∧ onTheWay.me.cyc < p.land := by
  refine ⟨Or.inl ⟨_, rfl, rfl⟩, by decide, by decide, by decide, ?_⟩
  unfold WaitsFor; decide
theorem test_waits : (after (exec (.add 3 0 1 2) onTheWay)).me.cyc = 20 := by decide
theorem test_trap : let t := after (exec (.trap 77) some1)
    (t.me.pc, t.me.cause, t.me.einf 0, t.me.inh) = (0x1230, 0x18, 77, true) := by decide

/-! ### Branches and loops -/

theorem witness_branches : Free some1 {} ∧ taken (some1.me.begin {}) 1 0 = false ∧ taken (some1.me.begin {}) 2 0 = true ∧ taken (some1.me.begin {}) 0 0 = true := by
  unfold Free; decide
theorem witness_calls : Free some1 { writes := [.g 47], wlatch := 0 } ∧ Free some1 {} ∧ taken some1.me 1 0 = false ∧ taken some1.me 2 0 = true := by unfold Free; decide
theorem witness_jr : Free some1 (useOf [1] 7 0) ∧ ((some1.me.begin (useOf [1] 7 0)).src 1).toNat % 4 = 0 ∧
    Free some1 (useOf [1] 0 4) ∧ ((some1.me.begin (useOf [1] 0 4)).src 1).toNat % 4 = 0 := by unfold Free; decide
theorem witness_jr_misaligned : Free some1 (useOf [3] 0 4) ∧ ((some1.me.begin (useOf [3] 0 4)).src 3).toNat % 4 ≠ 0 ∧
    Free some1 (useOf [3] 7 0) ∧ ((some1.me.begin (useOf [3] 7 0)).src 3).toNat % 4 ≠ 0 := by unfold Free; decide

/-- A counted level. -/
def level (start last : Word) (count : Nat) : Loop :=
  { start := start, last := last, nest := false, count := count, k := 0, first := 0, cnt := 0, bounds := [], strides := [], idx := [], buf := Tab.empty }

/-- A quadrant at the last word of a counted level. -/
def inLoop (count : Nat) : State := withQuad (fun q => { q with loops := [level 0x100 q.pc count] })

theorem witness_branch_leaves : ∃ x r, (inLoop 2).me.loops = x :: r ∧ holds x (inLoop 2).me.pc ∧ ¬ holds x 0x80 :=
  ⟨_, [], rfl, by unfold holds; decide, by unfold holds; decide⟩
theorem witness_jr_ends_body : ∀ x ∈ (inLoop 2).me.loops.head?, (x.last - (inLoop 2).me.pc).toNat < (inLoop 2).me.wlen := by decide
theorem witness_jr_inside_body : ∀ x ∈ (inLoop 2).me.loops.head?, (0 : Nat) < (x.last - 0x100).toNat := by decide
theorem witness_loop_words : Free some1 (useOf [] 0 4) ∧ Free some1 (useOf [1] 0 4) := by unfold Free; decide
/-- Each case of a loop word: a full stack, a body that ends behind the enclosing one, one that does not. -/
theorem witness_loop_cases : (∃ q : Quad, 4 ≤ q.loops.length) ∧ (∃ x ∈ (inLoop 2).me.loops.head?, x.last.toNat < ((inLoop 2).me.pc + 4).toNat) ∧
    (∀ x ∈ (inLoop 2).me.loops.head?, (0x104 : Nat) ≤ x.last.toNat) :=
  ⟨⟨{ loops := List.replicate 4 (level 0 0 1) }, by decide⟩, by decide, by decide⟩
theorem witness_runs_on : ∀ l ∈ some1.me.loops.head?, some1.me.wlen ≤ (l.last - some1.me.pc).toNat := by decide
theorem witness_counts_down : ∃ l, (inLoop 2).me.loops = [l] ∧ l.nest = false ∧ (l.last - (inLoop 2).me.pc).toNat < (inLoop 2).me.wlen ∧ 1 < l.count :=
  ⟨_, rfl, by decide, by decide, by decide⟩
theorem witness_last_count : ∃ l, (inLoop 1).me.loops = [l] ∧ l.nest = false ∧ (l.last - (inLoop 1).me.pc).toNat < (inLoop 1).me.wlen ∧ l.count ≤ 1 :=
  ⟨_, rfl, by decide, by decide, by decide⟩

/-- The level of a walk over bounds 3 and 2 with strides 4 and 100 that moves g1, at the indices given, and its quadrant. -/
def walkLevel (q : Quad) (idx : List Nat) : Loop :=
  { start := 0x100, last := q.pc, nest := true, count := 0, k := 1, bounds := [3, 2], strides := [4, 100], idx := idx, first := 1, cnt := 1, buf := Tab.empty }
def inWalk (idx : List Nat) (g1 : Word) : Quad := { some1.me with loops := [walkLevel some1.me idx], g := (Tab.empty : Tab Word).set 0 1 g1 }

theorem witness_walk : ∃ (q : Quad) (l : Loop) (base : Nat → Word), Quiet q ∧ q.loops = [l] ∧ l.nest = true ∧ (l.last - q.pc).toNat < q.wlen ∧ l.k + 1 = l.bounds.length ∧
    l.bounds.length = l.strides.length ∧ l.idx.length = l.bounds.length ∧ (∀ j, j < l.bounds.length → l.idx.getD j 0 < l.bounds.getD j 0) ∧ 0 < l.first ∧
    (∀ r, l.first ≤ r → r < l.first + l.cnt → q.gr r = base r + BitVec.ofInt 64 (walked l.idx l.strides)) ∧
    ∃ j, j < l.bounds.length ∧ l.idx.getD j 0 + 1 < l.bounds.getD j 0 :=
  ⟨inWalk [1, 0] 4, _, fun _ => 0, by unfold Quiet; decide, rfl, by decide, by decide, by decide, by decide, by decide, by decide, by decide,
    fun r h k => by have : r = 1 := Nat.le_antisymm (Nat.le_of_lt_succ k) h
                    subst this; decide, 0, by decide, by decide⟩
theorem witness_walk_end : ∃ (q : Quad) (l : Loop) (base : Nat → Word), Quiet q ∧ q.loops = [l] ∧ l.nest = true ∧ (l.last - q.pc).toNat < q.wlen ∧ l.k + 1 = l.bounds.length ∧
    l.bounds.length = l.strides.length ∧ l.idx.length = l.bounds.length ∧ (∀ j, j < l.bounds.length → l.idx.getD j 0 + 1 = l.bounds.getD j 0) ∧ 0 < l.first ∧
    (∀ r, l.first ≤ r → r < l.first + l.cnt → q.gr r = base r + BitVec.ofInt 64 (walked l.idx l.strides)) :=
  ⟨inWalk [2, 1] 108, _, fun _ => 0, by unfold Quiet; decide, rfl, by decide, by decide, by decide, by decide, by decide, by decide, by decide,
    fun r h k => by have : r = 1 := Nat.le_antisymm (Nat.le_of_lt_succ k) h
                    subst this; decide⟩
/-- From the manual's example of a walk: strides 4 and 100, bounds 3 and 2, g1 is 0, 4, 8, 100, 104, 108. -/
theorem test_walk : ((inWalk [2, 0] 8).retire 0).gr 1 = 100 := by decide
theorem witness_walk_steps : StepsAt (walkLevel some1.me [1, 0]) 0 ∧ StepsAt (walkLevel some1.me [2, 0]) 1 ∧ ¬ ∃ j, StepsAt (walkLevel some1.me [2, 1]) j := by
  refine ⟨by unfold StepsAt; decide, by unfold StepsAt; decide, ?_⟩
  rintro ⟨j, h, k, -⟩
  match j, h with
  | 0, _ => revert k; decide
  | 1, _ => revert k; decide

/-- The same walk with a queued word that still reads g1. -/
def walkWaits : Quad := { inWalk [1, 0] 4 with
  vecQ := [({ word := .vadd 1 2 3 3 0, wordAt := 0, total := 1, mode := 0, reads := [.g 1], latches := [], writes := [], wlatch := 4 } : VecEntry)] }
theorem witness_advance_waits : ∃ l, walkWaits.loops = [l] ∧ l.nest = true ∧ (l.last - walkWaits.pc).toNat < walkWaits.wlen ∧ 0 < l.cnt ∧
    (∃ e ∈ walkWaits.vecQ, ∃ r, l.first ≤ r ∧ r < l.first + l.cnt ∧ (Dst.g r ∈ e.reads ∨ Dst.g r ∈ e.writes)) ∧ walkWaits.adv = [] :=
  ⟨_, rfl, by decide, by decide, by decide, ⟨_, List.mem_cons_self, 1, by decide, by decide, by decide⟩, by decide⟩
theorem witness_advance_turn : ∃ s : State, s.me = walkWaits.retire 0 ∧ s.me.trapWait = none ∧ s.me.trapReqs = [] :=
  ⟨some1.updMe (fun _ => walkWaits.retire 0), by decide, by decide, by decide⟩

/-! ### Dictionary and code -/

/-- Entry 3 of the dictionary holds ADDI g1, g1, 0 with a hole of 10 bits at bit 0. -/
def withEntry : State := some1.updMyCore (fun k => { k with dict := k.dict.set 0 3 (BitVec.ofNat 128 (2 ^ 112 + 10 * 2 ^ 70 + 0x01020400)) })

theorem witness_dictionary : withEntry.me.dictStale = false ∧ (withEntry.myCore.dict.get 0 3).getLsbD 112 = true ∧ (withEntry.myCore.dict.get 0 3).toNat / 2 ^ 113 = 0 ∧
    (withEntry.myCore.dict.get 0 3).toNat / 2 ^ 76 % 2 ^ 36 = 0 ∧ (∃ j, decodePattern (0x01020400 + 5) = .instr j) :=
  ⟨by decide, by decide, by decide, by decide, .addi 1 0 1 5, by decide⟩
theorem test_dictionary : (after (exec (.dictionaryWord 3 5) withEntry)).me.inject = some (0x01020405, some 3) := by decide
theorem witness_dictionary_invalid : (withEntry.myCore.dict.get 0 4).getLsbD 112 = false ∧ Free withEntry {} ∧ CanTrap withEntry :=
  ⟨by decide, by unfold Free; decide, by unfold CanTrap; decide⟩
theorem witness_dload : Free some1 (useOf [4] 0 4) ∧ Granted some1 .load 0x03C0000000000040 4096 (spadKey 0 0x40) ∧
    Free some1 (useOf [3] 0 4) ∧ ((some1.me.begin (useOf [3] 0 4)).src 3).toNat % 16 ≠ 0 ∧ CanTrap some1 ∧ (some1.me.begin (useOf [0] 0 4)).src 0 = 0 := by
  refine ⟨by unfold Free; decide, ?_, by unfold Free; decide, by decide, by unfold CanTrap; decide, by decide⟩
  exact ⟨by decide, by decide, by decide, Or.inl ⟨by decide, by decide, by decide, by decide⟩⟩
theorem witness_iflush : Free some1 {} ∧ Free some1 (useOf [1, 2] 0 4) ∧ some1.me.memQ = [] := ⟨by unfold Free; decide, by unfold Free; decide, by decide⟩

/-! ### Memory -/

/-- A page of facet 3 for tenant 0 is cached, from offset 0 on: readable and writable, present. -/
def withPage : State := (some1.updFacet 3 (fun x => { x with tlb := [{ asid := 0, page := 0, shift := 30, entry := BitVec.ofNat 64 (3 * 2 ^ 48 + 0x40000000 + 0x1B) }] })).updMe
  (fun q => { q with g := q.g.set 0 7 (BitVec.ofNat 64 (3 * 2 ^ 54 + 0xFFF8)) })

theorem quiet_some1 : Still some1.me := by unfold Still Quiet; decide
theorem unwatched_some1 : Unwatched some1.me := by unfold Unwatched; decide
theorem nothingPosted_some1 : NothingPosted some1 := by unfold NothingPosted; decide
theorem quiet_withPage : Still withPage.me := by unfold Still Quiet; decide

/-- The last bytes of a granted bank, a bank of a neighbouring core, and the last 8 bytes of a 64 KiB span of a cached page are granted. -/
theorem witness_granted_own (need : Need) : Granted some1 need 0x03C000000000FFF8 8 (spadKey 0 0xFFF8) :=
  ⟨by decide, by decide, by decide, Or.inl ⟨by decide, by decide, by decide, by decide⟩⟩
theorem witness_granted_peer : Granted (some1.updCore 1 (fun k => { k with task := some 1, banks := k.banks.set {} 0 { st := .held, task := 1 } })) .load 0x0380000000080000 8 (spadKey 1 0) := by
  refine ⟨by decide, by decide, by decide, Or.inr (Or.inl ⟨by decide, by decide, 1, by decide, by decide, by decide, by decide⟩)⟩
theorem witness_granted_page : Granted withPage .store (BitVec.ofNat 64 (3 * 2 ^ 54 + 0xFFF8)) 8 (stackKey 3 (0x40000000 + 0xFFF8)) := by
  refine ⟨by decide, by decide, by decide, Or.inr (Or.inr ⟨by decide, by decide, by decide, by decide, ⟨_, rfl, by decide⟩, by decide, by decide, by decide⟩)⟩
/-- Nothing is on its way to another package; a store to package 9 is, and a load of this package's scratchpad meets it nowhere. -/
theorem none_some1 (a : Word) (n : Nat) : NoneOnItsWay some1 a n := fun f h => nomatch (show f ∈ [] from h)
theorem witness_loads : (∀ a n, NoneOnItsWay some1 a n) ∧ ∃ l, loadOf (.ldD 7 4 0) = some l ∧ Still some1.me ∧ Unwatched some1.me ∧ (l.addr some1.me).toNat % 2 ^ l.size = 0 ∧
    Granted some1 .load (l.addr some1.me) (2 ^ l.size) (spadKey 0 0x40) :=
  ⟨none_some1, _, rfl, quiet_some1, unwatched_some1, by decide, by decide, by decide, by decide, Or.inl ⟨by decide, by decide, by decide, by decide⟩⟩
theorem witness_stores_guarded_off : ∃ l, storeOf (.stD 1 4 1 0) = some l ∧ Still some1.me ∧ guardHolds some1.me l.g = false := ⟨_, rfl, quiet_some1, by decide⟩
theorem witness_stores : ∃ l, storeOf (.stl 1 4 0 3 1 0) = some l ∧ guardHolds some1.me l.g = true ∧ Unwatched some1.me ∧ NothingPosted some1 ∧
    (l.addr some1.me).toNat % 2 ^ l.size = 0 ∧ Granted some1 .store (l.addr some1.me) (2 ^ l.size) (spadKey 0 0x40) :=
  ⟨_, rfl, by decide, unwatched_some1, nothingPosted_some1, by decide, by decide, by decide, by decide, Or.inl ⟨by decide, by decide, by decide, by decide⟩⟩
theorem witness_vld : (plus (some1.me.src 4) 0 7).toNat % 4 = 0 ∧ Granted some1 .load (plus (some1.me.src 4) 0 7) 128 (spadKey 0 0x40) :=
  ⟨by decide, by decide, by decide, by decide, Or.inl ⟨by decide, by decide, by decide, by decide⟩⟩
theorem witness_vst : guardHolds some1.me 0 = true ∧ (plus (some1.me.src 4) 0 7).toNat % 4 = 0 ∧ (plus (some1.me.src 4) 0 7).toNat % 65536 + 128 ≤ 65536 ∧
    ∀ l, l < 32 → Granted some1 .store (plus (some1.me.src 4) 0 7 + BitVec.ofNat 64 (4 * l)) 4 (spadKey 0 0x40 + 4 * l) := by
  refine ⟨by decide, by decide, by decide, ?_⟩
  have h : ∀ l, l < 32 → let a := plus (some1.me.src 4) 0 7 + BitVec.ofNat 64 (4 * l)
      (a.toNat % 65536 + 4 ≤ 65536 ∧ homeOf a = 15 ∧ offOf a < 2 ^ 19 ∧ some1.bankOk some1.cur.core (offOf a / 65536) (myTask some1) = true ∧
        spadKey 0 0x40 + 4 * l = spadKey some1.cur.core (offOf a)) := by decide
  exact fun l k => ⟨by decide, by decide, (h l k).1, Or.inl (h l k).2⟩
theorem witness_gather : some1.me.prog2 = 0 ∧ (2 : BitVec 2).toNat < 3 ∧ guardHolds some1.me 0 = true ∧
    ∀ l, l < 32 → (plus (some1.me.src 4) (laneInt (some1.me.vr 0) l) 2).toNat % 2 ^ 2 = 0 ∧
      Granted some1 .load (plus (some1.me.src 4) (laneInt (some1.me.vr 0) l) 2) 4 (spadKey 0 0x40) ∧
      Granted some1 .store (plus (some1.me.src 4) (laneInt (some1.me.vr 0) l) 2) 4 (spadKey 0 0x40) := by
  refine ⟨by decide +kernel, by decide +kernel, by decide +kernel, ?_⟩
  have h : ∀ l, l < 32 → plus (some1.me.src 4) (laneInt (some1.me.vr 0) l) 2 = 0x03C0000000000040 := by decide +kernel
  intro l k; rw [h l k]
  exact ⟨by decide +kernel, ⟨by decide +kernel, by decide +kernel, by decide +kernel, Or.inl ⟨by decide +kernel, by decide +kernel, by decide +kernel, by decide +kernel⟩⟩,
    by decide +kernel, by decide +kernel, by decide +kernel, Or.inl ⟨by decide +kernel, by decide +kernel, by decide +kernel, by decide +kernel⟩⟩
theorem witness_atomics_guarded_off : ∃ f, atomicOf (.aadd 7 4 1 1 0) = some (7, 4, 1, 1, f) ∧ guardHolds some1.me 1 = false := ⟨_, rfl, by decide⟩
theorem witness_atomics : ∃ f, atomicOf (.acas 7 4 1 0 0) = some (7, 4, 1, 0, f) ∧ Still some1.me ∧ guardHolds some1.me 0 = true ∧ Unwatched some1.me ∧ NothingPosted some1 ∧
    (some1.me.src 4).toNat % 8 = 0 ∧ Granted some1 .atomic (some1.me.src 4) 8 (spadKey 0 0x40) :=
  ⟨_, rfl, quiet_some1, by decide, unwatched_some1, nothingPosted_some1, by decide, by decide, by decide, by decide, Or.inl ⟨by decide, by decide, by decide, by decide⟩⟩
theorem witness_misaligned : ∃ l, loadOf (.ldD 7 3 0) = some l ∧ Still some1.me ∧ CanTrap some1 ∧ (l.addr some1.me).toNat % 2 ^ l.size ≠ 0 :=
  ⟨_, rfl, quiet_some1, by unfold CanTrap; decide, by decide⟩
theorem ready_some1 : QueuesReady some1 := by unfold QueuesReady Still Quiet; decide
theorem witness_misaligned_forms : QueuesReady some1 ∧ CanTrap some1 ∧ (∀ i ∈ ([.ldD 7 3 0, .stD 1 3 0 0, .stl 1 3 0 2 1 0, .aadd 7 3 1 0 0, .vld 1 3 0, .vst 1 3 0 0 0 0] : List Instr), ∃ f, alignOf some1.me i = some f ∧ (f.addr some1.me).toNat % f.needs ≠ 0) ∧
    some1.me.prog2 = 0 ∧ (some1.me.src 3).toNat % 2 ^ (2 : BitVec 2).toNat ≠ 0 ∧ guardHolds some1.me 0 = true := by
  refine ⟨ready_some1, by unfold CanTrap; decide, ?_, by decide, by decide, by decide⟩
  intro i m
  simp only [List.mem_cons, List.not_mem_nil, or_false] at m
  rcases m with rfl | rfl | rfl | rfl | rfl | rfl <;> exact ⟨_, rfl, by decide⟩

/-- A packet that has come from, or goes to, package 9, and the state in which a store to package 9 of quadrant 1 of core 5 of facet 2 waits for its acknowledgement. -/
def aPacket : Packet := { ty := 1, spkg := 0, sfac := 0, score := 0, sunit := 0, dpkg := 9, home := 3, offset := 100, asid := 0, ns := false, btag := 0, aux := 0, fseq := 6,
                          epoch := 0, lseq := 0, token := 0, payload := [1, 2, 3], stallmax := 5 }
def posted : State := some1.updFabric (fun f => { f with flows := [(flowKey aPacket, { seq := 7, unacked := [{ p := aPacket }] })] })
theorem witness_on_its_way : NoneOnItsWay posted 0x03C0000000000040 8 := by
  intro f h u m _
  rw [show posted.fabric.flows = [(flowKey aPacket, { seq := 7, unacked := [{ p := aPacket }] })] from rfl, List.mem_singleton] at h; subst h
  rw [show ((flowKey aPacket, ({ seq := 7, unacked := [{ p := aPacket }] } : Flow)) : Nat × Flow).2.unacked = [{ p := aPacket }] from rfl, List.mem_singleton] at m; subst m
  decide
theorem witness_mark : Still some1.me ∧ NothingPosted some1 ∧ Still posted.me ∧ posted.postedLeft posted.agent false = true :=
  ⟨quiet_some1, nothingPosted_some1, by unfold Still Quiet; decide, by decide⟩
theorem witness_tags : Still some1.me ∧ some1.cur.core < 1536 ∧ (some1.me.src 2).toNat < 1024 ∧
    some1.bankOk some1.cur.core ((some1.me.src 2).toNat / 128) (myTask some1) = true := ⟨quiet_some1, by decide, by decide, by decide⟩

/-- The quadrant waits for a load from package 9, and its answer has come. -/
def answered : State := withQuad (fun q => { q with
  memQ := [({ op := .load 2 true (.g 7) false, addr := BitVec.ofNat 64 (9 * 2 ^ 58 + 3 * 2 ^ 54 + 4), rel := 4, wordAt := 0, pat := 0, since := 0 } : MemEntry)],
  memTok := some 3, memReply := some ({ status := 0, bytes := [1, 2, 3, 0x80] } : Reply) })
theorem witness_loadReturn : (some1.quadOf 0 0).memReply = none ∧ (∀ x ∈ answered.me.memQ, x.waits = false) ∧
    (∃ a, answered.me.memQ = [({ op := .load 2 true (.g 7) false, addr := a, rel := 4, wordAt := 0, pat := 0, since := 0 } : MemEntry)] ∧
      a.toNat % 2 ^ 2 = 0 ∧ homeOf a < 8 ∧ pkgOf a ≠ answered.pkg) ∧ answered.me.memTok = some 3 ∧
    answered.me.memReply = some ({ status := 0, bytes := [1, 2, 3, 0x80] } : Reply) ∧ answered.me.pend = [] ∧ Unwatched answered.me ∧ answered.feat 6 = true :=
  ⟨by decide, by decide, ⟨_, rfl, by decide, by decide, by decide⟩, by decide, by decide, by decide, by unfold Unwatched; decide, by decide⟩

/-- From R109: LD.W sign-extends its word. -/
theorem test_load : let s := some1.setBytes (spadKey 0 0x40) [0xFE, 0xFF, 0xFF, 0xFF]
    (after (exec (.ldW 7 4 0) s)).me.pend.map Pend.val = [2 ^ 64 - 2] := by decide
theorem test_store : (after (exec (.stH 3 4 0 0) some1)).bytesAt (spadKey 0 0x3F) 4 = [0, 2, 0x10, 0] := by decide
theorem test_atomic : (after (exec (.aadd 7 4 1 0 0) (some1.setBytes (spadKey 0 0x40) [6]))).bytesAt (spadKey 0 0x40) 2 = [30, 0] := by decide

/-! ### The vector unit -/

theorem witness_vector : ∃ f, vectorOf (.vadd 1 2 3 3 0) = some f ∧ ¬ barred some1 (.vadd 1 2 3 3 0) ∧ Still some1.me ∧ some1.me.vcyc ≤ some1.me.cyc :=
  ⟨_, rfl, fun h => h, quiet_some1, by decide⟩

/-- n0 and n1 hold 2 and 3; the nest of `bound` rows. -/
def withNest (bound : BitVec 24) : State := withQuad (fun q => { q with n := ((Tab.empty : Tab Nest).set {} 0 { bound := bound, stride := 4 }).set {} 1 { bound := 0x10000, stride := 8 } })

theorem witness_repeated : ∃ f, decodeWord (2 * 2 ^ 29 + 2 ^ 18 + 2 * 2 ^ 13 + 3 * 2 ^ 8 + 3 * 2 ^ 5) = .instr (.vadd 1 2 3 3 0) ∧ vectorOf (.vadd 1 2 3 3 0) = some f ∧
    (withNest 2).me.prog0 = 0 ∧ Still (withNest 2).me ∧ (withNest 2).me.vcyc ≤ (withNest 2).me.cyc ∧ CanTrap (withNest 0x10000) :=
  ⟨_, by decide, rfl, by decide, by unfold Still Quiet; decide, by decide, by unfold CanTrap; decide⟩
/-- Nests of 0, 1, 2 and of 2^32 rows. -/
theorem witness_repeated_rows : (((withNest 0).me.nest 0).bound.toNat, ((withNest 1).me.nest 0).bound.toNat, ((withNest 2).me.nest 0).bound.toNat) = (0, 1, 2) ∧
    2 ^ 32 ≤ ((withNest 0x10000).me.nest 0).bound.toNat * ((withNest 0x10000).me.nest 1).bound.toNat := by decide
theorem witness_queue_words : Still some1.me ∧ (some1.myCore.cqf 0).toNat % 64 = (2 : BitVec 6).toNat ∧ (some1.myCore.cq.get [] 0).length < 8 ∧
    (some1.myCore.cqf 2).toNat / 64 % 64 = (32 : BitVec 6).toNat ∧ some1.myCore.cq.get [] 2 = [] ∧ (some1.myCore.cqBits.get (0, 0) 2).2 = 0 ∧
    (some1.myCore.cqf 0).toNat % 64 ≠ (3 : BitVec 6).toNat ∧ CanTrap some1 :=
  ⟨quiet_some1, by decide +kernel, by decide +kernel, by decide +kernel, by decide +kernel, by decide +kernel, by decide +kernel, by unfold CanTrap; decide +kernel⟩
/-- One source beat of cq2, whose sink format is its source format. -/
def withBeat : State := some1.updMyCore (fun k => { k with cq := k.cq.set [] 2 [5] })
theorem witness_queue_out : (∃ x, (withBeat.cqBeat withBeat.cur.core 2).2 = some x) ∧ (withBeat.myCore.cqf 2).toNat % 64 = (32 : BitVec 6).toNat ∧ (withBeat.myCore.cqf 2).toNat / 64 % 64 = (32 : BitVec 6).toNat ∧
    elemWidth 32 = codeWidth 32 ∧ withBeat.myCore.cq.get [] 2 = 5 :: [] ∧ withBeat.myCore.cqPos.get 0 2 = 0 ∧ withBeat.myCore.cqBits.get (0, 0) 2 = (0, 0) := by
  have h : (withBeat.cqBeat withBeat.cur.core 2).2.isSome = true := by decide +kernel
  exact ⟨Option.isSome_iff_exists.1 h, by decide +kernel⟩
theorem test_vadd : let s := withQuad (fun q => { q with v := ((Tab.empty : Tab VReg).set 0 2 (2 ^ 32 - 1)).set 0 3 1 })
    (after (exec (.vadd 1 2 3 3 0) s)).me.pend.map Pend.val = [0] := by decide +kernel

/-! ### The matrix engine -/

theorem witness_matrix_words : ∃ f, matrixForm (.mstr 0 0 0 4 0 0 8 0 0) = some f ∧ Sys2Proof.wf (.mstr 0 0 0 4 0 0 8 0 0) = true ∧ Free (withNest 2) (useOf f.reads f.d 4) 7 :=
  ⟨_, rfl, by decide, free_of (by decide)⟩
/-- Nests of 256 and of 257 rows. -/
theorem witness_matrix_rows : nestRows (capturedNest (withNest 256).me (some 0)) = 256 ∧ 256 < nestRows (capturedNest (withNest 257).me (some 0)) := by decide
def aCommand (i : Instr) : MCmd := { word := i, ops := [0x3F000000], dims := [], mode := 0, quad := 0, wordAt := 0, token := 5 }
theorem witness_matrix_full : 16 ≤ (some1.updMyCore (fun k => { k with mq := List.replicate 16 (aCommand (.msig 0 0)) })).myCore.mq.length ∧ some1.myCore.mq.length < 16 := by decide

/-- The engine's queue holds MSIG, which waits for sm3, whose count is `n`. -/
def headWaits (n : Nat) : State := some1.updMyCore (fun k => { k with mq := [aCommand (.msig 3 4)], sm := k.sm.set 0 3 n })
theorem witness_engine_starts : ∃ f m, (m.out = [] ∧ m.epi = none ∧ m.fade = none) ∧ ((headWaits 1).core 0).task = some 1 ∧ ((headWaits 1).task 1).st = .running ∧ ((headWaits 1).task 1).stage = 0 ∧
    ((headWaits 1).core 0).mq = [m] ∧ matrixForm m.word = some f ∧ m.took = false ∧ ((headWaits 1).core 0).mrun = [] ∧ ((headWaits 1).core 0).halt = false ∧
    (∀ w y, m.word ≠ .mcan w y) ∧ f.waits ≠ 0 ∧ 0 < ((headWaits 1).core 0).sm.get 0 f.waits.toNat ∧ ((headWaits 0).core 0).sm.get 0 f.waits.toNat = 0 :=
  ⟨_, aCommand (.msig 3 4), ⟨rfl, rfl, rfl⟩, by decide, by decide, by decide, by decide, rfl, by decide, by decide, by decide, (fun w y h => nomatch h), by decide, by decide, by decide⟩
/-- A count that was signalled in this cycle, and one that stood before it. -/
theorem witness_engine_fresh : let k := ((headWaits 1).updMyCore (fun k => { k with smAt := 0, smNew := (Tab.empty : Tab Nat).set 0 3 1 })).core 0
    let now := max (headWaits 1).cycle k.mAt
    (k.smAt = now → k.sm.get 0 3 ≤ k.smNew.get 0 3) ∧ (if ((headWaits 1).core 0).smAt = now then ((headWaits 1).core 0).smNew.get 0 3 else 0) < ((headWaits 1).core 0).sm.get 0 3 := by decide
def running (i : Instr) : MRun := { cmd := aCommand i, nextAt := 5 }
theorem witness_matrix_runs : (running (.wsel 0 0)).doneAt = none ∧ (running (.wsel 0 0)).nextAt ≤ 5 ∧ (running (.mfade 0 0 4)).cmd.ops = [0x3F000000] := by decide
theorem test_mzero : let s := some1.updMyCore (fun k => { k with acc := ((Tab.empty : Tab Row).set 0 2 7).set 0 4 9 })
    let t := (s.runTurn 0 5 [] (running (.mzero 0 0 2 1))).1
    ((t.core 0).acc.get 0 2, (t.core 0).acc.get 0 4) = (0, 9) := by decide +kernel
theorem witness_integer_rows : intFormat 8 ∧ intFormat 19 ∧ (128 : Nat) ≤ 128 ∧ (List.replicate 128 1).length = 128 := ⟨by unfold intFormat; decide, by unfold intFormat; decide, Nat.le_refl _, List.length_replicate⟩

/-- MSTAT has finished at cycle 9, behind an MSIG that has finished at 12. -/
def finished : State := some1.updMyCore (fun k => { k with mrun := [{ running (.msig 0 4) with doneAt := some 12 },
  { running (.mstat 0 5 7) with doneAt := some 9, cmd := { aCommand (.mstat 0 5 7) with token := 6 } }] })
theorem witness_completion : ∃ r f before, (finished.core 0).mrun = before ++ [r] ∧ matrixForm r.cmd.word = some f ∧ r.doneAt = some 9 ∧ CompletesFirst false before 9 [] ∧
    ∀ x ∈ before ++ [], x.cmd.token ≠ r.cmd.token :=
  ⟨_, _, [_], rfl, rfl, by decide, ⟨by intro x hx m hm _; simp only [List.mem_singleton] at hx; subst hx; cases hm; decide, by intro x hx; cases hx⟩, by decide⟩
theorem witness_completion_none : ∀ x ∈ (some1.core 0).mrun, x.doneAt ≠ none → False := by decide
theorem witness_completion_mprog : ∃ r f, (some1.updMyCore (fun k => { k with mrun := [{ running (.mprog 0 5 7) with doneAt := some 9 }] })).myCore.mrun = [r] ∧
    matrixForm r.cmd.word = some f ∧ r.doneAt = some 9 := ⟨_, _, rfl, rfl, by decide⟩

/-- The engine has started nothing of MSIG at its head: nothing of it has been read, held or watched. -/
theorem witness_engine_head : (aCommand (.msig 3 4)).reload = false ∧ (aCommand (.msig 3 4)).fault = false ∧ (aCommand (.msig 3 4)).held = [] ∧ (aCommand (.msig 3 4)).watch = none ∧
    freshIn ((headWaits 1).core 0) (max (headWaits 1).cycle ((headWaits 1).core 0).mAt) 3 < ((headWaits 1).core 0).sm.get 0 3 := by decide
/-- Commands of quadrants 1, 0 and 2 have faulted, behind the reload of a restore: the handler is that of quadrant 0. -/
def faulted (quad row token : Nat) : MCmd := { aCommand (.mzero 3 5 2 1) with quad := quad, row := row, token := token, fault := true }
def inMatrixHandler (first rest : List MCmd) (skip : Bool) : State := (withQuad (fun q => { q with inh := true, xskip := skip })).updMyCore (fun k =>
  { k with halt := true, prog1 := 4, mq := first ++ faulted 0 4 7 :: rest })
def aReload : MCmd := { word := .maccld 0 0 0 0 255, reload := true }
theorem witness_tret_matrix : ∀ first ∈ [[], [aReload], [faulted 1 3 6]], ∀ skip : Bool, let s := inMatrixHandler first [faulted 2 5 8] skip
    Free s {} ∧ s.me.inh = true ∧ s.me.chImg = Tab.empty ∧ s.myCore.halt = true ∧ s.myCore.mq = first ++ faulted 0 4 7 :: [faulted 2 5 8] ∧ (faulted 0 4 7).fault = true ∧ (faulted 0 4 7).quad = s.cur.quad ∧
    (∀ x ∈ first, x.fault = true → x.quad ≠ s.cur.quad) ∧ (matrixForm (faulted 0 4 7).word).isSome = true ∧ (s.me.begin {}).xskip = skip := by unfold Free; decide
theorem test_tret_matrix_skip : let t := after (exec .tret (inMatrixHandler [] [faulted 2 5 8] true))
    (t.myCore.mq.map MCmd.token, t.myCore.sm.get 0 5, t.myCore.halt, t.myCore.prog1, t.myCore.mlast) = ([8], 1, true, 5, 7) := by decide

/-! ### Copies -/

/-- `n` jobs of task 1 stand in channel 3. -/
def aJob (kind : JobKind) (token : Nat) : Job := { kind := kind, task := 1, d := 0x03C0000000000100, s := 0x03C0000000000040, n := 16, wordAt := 0x100, pattern := 5, token := token }
def withJobs (l : List Job) : State := some1.updMyCore (fun k => { k with chans := k.chans.set {} 3 { q := l } })
/-- The walk engine of core number 1536 runs task 1. -/
def onWalk : State := { (some1.updCore 1536 (fun k => { k with task := some 1, q0 := some1.me })) with cur := { core := 1536, quad := 0 } }

theorem empty_sync : ∀ e ∈ some1.me.memQ, ∀ g x, e.op ≠ .sync g x := by
  have h : some1.me.memQ = [] := by decide
  intro e m; rw [h] at m; cases m
theorem witness_copyWords : ∃ f, copyForm some1 (.send 3 7 1 2) = some f ∧ Free some1 (useOf f.reads f.reg 4) 7 ∧ (∀ e ∈ some1.me.memQ, ∀ g x, e.op ≠ .sync g x) ∧
    some1.me.memQ = [] ∧ NothingPosted some1 ∧ isMulticast (.send 3 7 1 2) = false ∧ (some1.myCore.chans.get {} f.ch.toNat).q.length < 8 :=
  ⟨_, rfl, free_of (by decide), empty_sync, by decide, nothingPosted_some1, by decide, by decide⟩
theorem witness_copyWords_full : ∃ f, copyForm some1 (.cpy 3 4 1 2) = some f ∧ 8 ≤ ((withJobs (List.replicate 8 (aJob .copy 9))).myCore.chans.get {} f.ch.toNat).q.length ∧
    ((withJobs (List.replicate 7 (aJob .copy 9))).myCore.chans.get {} f.ch.toNat).q.length = 7 := ⟨_, rfl, by decide, by decide⟩
theorem witness_copyWords_multicast : isMulticast (.cpynLong 0 4 1 2 0 0 5 0 0 8 8 0 1) = true ∧ some1.cur.core < 1536 ∧ 1536 ≤ onWalk.cur.core ∧ onWalk.me.owes (useOf [4, 1, 2, 5] 0 4) = false ∧
    ∃ f, copyForm onWalk (.cpynLong 0 4 1 2 0 0 5 0 0 8 8 0 1) = some f := ⟨by decide, by decide, by decide, by decide, _, rfl⟩
/-- Tags 3 and 4 are set; g1 is 24, tags 3 and 4; g2 is 5, tags 0 and 2. -/
def withTags : State := (withJobs [aJob .copy 0]).updMyCore (fun k => { k with tagmap := 0x18 })
theorem witness_copyWaits : (∃ f, copyWait withTags (.twall 1 16) = some f ∧ Free withTags (useOf f.reads 0 4) 7 ∧ f.isOver withTags.myCore (withTags.me.begin (useOf f.reads 0 4))) ∧
    (∃ f, copyWait withTags (.twany 2 0) = some f ∧ Free withTags (useOf f.reads 0 4) 7 ∧ ¬ f.isOver withTags.myCore (withTags.me.begin (useOf f.reads 0 4))) ∧
    ∀ ch, ch < 8 → ∀ j, j ∈ (withTags.myCore.chans.get {} ch).q ∨ j ∈ (withTags.myCore.chans.get {} ch).records → j.held = .none := by
  refine ⟨⟨_, rfl, free_of (by decide), (by decide : withTags.myCore.tagmap &&& 24 = 24)⟩, ⟨_, rfl, free_of (by decide), ?_⟩, ?_⟩
  · exact (by decide : ¬ withTags.myCore.tagmap &&& 5 ≠ 0)
  · have h : ∀ ch, ch < 8 → ∀ j ∈ (withTags.myCore.chans.get {} ch).q ++ (withTags.myCore.chans.get {} ch).records, j.held = .none := by decide
    exact fun ch k j m => h ch k j (List.mem_append.2 m)
theorem witness_drain : jobsBefore withTags.myCore 1 3 ≠ [] ∧ jobsBefore withTags.myCore 1 2 = [] := by decide
/-- A DRAIN that was issued at cycle 0 with a limit of 64 cycles. -/
theorem witness_copyWaits_limit : (withQuad (fun q => { q with cyc := 64, wait := some { since := 0, upto := 1, limit := 64, e0 := 0, e1 := 0, e2 := 0, e3 := 1 } })).me.wait.isSome = true := by decide
theorem witness_splitter : Free withTags (useOf [1] 7 4) 7 ∧ Free withTags (useOf [] 7 4) 7 ∧ Free withTags (useOf [1] 0 4) 7 ∧ (withTags.me.batches.get {} 1).st ≠ .closing ∧
    ∀ e ∈ withTags.me.memQ, ∀ o, e.op ≠ .batch o 1 := by
  refine ⟨free_of (by decide), free_of (by decide), free_of (by decide), by decide, ?_⟩
  have h : withTags.me.memQ = [] := by decide
  intro e m; rw [h] at m; cases m
theorem test_tfind : (after (exec (.tfind 7 1) withTags)).me.gr 7 = 3 := by decide
/-- Two slots, and the next table of a package that no slot serves. -/
def slots2 : SlotTab := { epoch := 1, nslot := 2, hdr := ((Tab.empty : Tab SlotHdr).set {} 0 { len := 1000, guard := 100 }).set {} 1 { len := 1000, guard := 100 } }
theorem witness_sqst : slots2.slotNow 1500 < slots2.nslot ∧ slots2.lists 0 5 1 = false := by decide

/-- Batch 1 of the quadrant is in `st`. -/
def withBatch (st : BatchSt) : State := withQuad (fun q => { q with batches := q.batches.set {} 1 { st := st } })
theorem witness_batches (st : BatchSt) : Still (withBatch st).me ∧ ((withBatch st).me.batches.get {} 1).st = st ∧ ((withBatch st).me.batches.get {} 1).peers = [] := by
  cases st <;> exact ⟨by unfold Still Quiet; decide, by decide, by decide⟩
theorem test_bopen : ((after (exec (.bopen 1) some1)).me.batches.get {} 1).st = .open := by decide

theorem spad_some1 (d : Word) (n key : Nat) (h : homeOf d = 15 ∧ 0 < n ∧ n ≤ 512 ∧ offOf d < 2 ^ 19 ∧ d.toNat % 65536 + n ≤ 65536 ∧ some1.bankOk 0 (offOf d / 65536) 1 = true ∧
    key = spadKey 0 (offOf d)) : SpadRange some1 0 1 d n key := ⟨by decide, h⟩
/-- One copy of 16 bytes alone in channel 3; the last 16 bytes of the bank, and two ranges that overlap, are ranges of it. -/
def oneCopy : State := withJobs [aJob .copy 0]
theorem witness_burst : Runs oneCopy 0 1 ∧ (oneCopy.core 0).chans.get {} 3 = ({ q := [aJob .copy 0] } : Chan) ∧
    (∀ k, k < 8 → k ≠ 3 → ((oneCopy.core 0).chans.get {} k).q = []) ∧ (∀ i, i < 8 → ((oneCopy.core 0).stb.get {} i).armed = false) ∧
    SpadRange oneCopy 0 1 0x03C0000000000040 16 (spadKey 0 0x40) ∧ SpadRange oneCopy 0 1 0x03C000000000FFF0 16 (spadKey 0 0xFFF0) ∧
    SpadRange oneCopy 0 1 0x03C0000000000044 512 (spadKey 0 0x44) := by
  refine ⟨by unfold Runs; decide, by decide, by decide, by decide, ?_, ?_, ?_⟩ <;> (unfold SpadRange; decide)
/-- The copy that has entered, which moves its burst at the next turn (R231). -/
def entered : State := after (exec (.copyBurst 0) (oneCopy.setBytes (spadKey 0 0x40) [1, 2, 3]))
theorem test_burst : ((entered.core 0).chans.get {} 3).q.map Job.entered = [some 0] ∧ entered.bytesAt (spadKey 0 0x100) 1 = [0] ∧
    (after (exec (.copyBurst 0) entered)).bytesAt (spadKey 0 0xFF) 5 = [0, 1, 2, 3, 0] := by decide +kernel

/-- A finished job of each kind that writes a register, or a copy with a tag, before another job. -/
def finishedJob (kind : JobKind) (tag : Option Nat) : State := withJobs [{ aJob kind 4 with fin := true, tag := tag, reg := 7, status := 3 }, aJob .copy 5]
theorem witness_finished : Runs (finishedJob .copy (some 9)) 0 1 ∧ (∃ j rest, ((finishedJob .copy (some 9)).core 0).chans.get {} 3 = ({ q := j :: rest } : Chan) ∧ j.task = 1 ∧
      (∀ y ∈ rest, y.token ≠ j.token ∧ y.entered = none) ∧ j.kind ≠ .chain ∧ j.fin = true ∧ j.record = none ∧ j.tag = some 9) ∧
    ∃ j rest, ((finishedJob .pqry none).core 0).chans.get {} 3 = ({ q := j :: rest } : Chan) ∧ j.tag = none ∧ j.kind = .pqry :=
  ⟨by unfold Runs; decide, ⟨_, [_], rfl, by decide, by decide, by decide, by decide, by decide, by decide⟩, _, [_], rfl, by decide, by decide⟩
theorem test_job_register : (after (exec (.copyJobCompletion 0 3) (finishedJob .send none))).me.gr 7 = 3 := by decide

/-- A chain that runs at the record at 0x40 of the scratchpad. -/
def aChain : State := some1.updMyCore (fun k => { k with chans := k.chans.set {} 3 { q := [{ aJob .chain 4 with entered := some 1 }], next := some 0x03C0000000000040 } })
theorem witness_chain : Runs aChain 0 1 ∧ ((aChain.core 0).chans.get {} 3).q = [{ aJob .chain 4 with entered := some 1 }] ∧ ((aChain.core 0).chans.get {} 3).next = some 0x03C0000000000040 ∧
    ((aChain.core 0).chans.get {} 3).halted = none ∧ (0x03C0000000000040 : Word).toNat % 64 = 0 ∧ SpadRange aChain 0 1 0x03C0000000000040 64 (spadKey 0 0x40) := by
  refine ⟨by unfold Runs; decide, by decide, by decide, by decide, by decide, ?_⟩
  unfold SpadRange; decide
/-- The record of zeros is not the engine's; one of 512 bits with OWN set, LEN 16 and NEXT 0 is. -/
def ownRecord : Nat := 2 ^ 255 + 16 * 2 ^ 192 + 0x03C0000000000200 * 2 ^ 128 + 0x03C0000000000300 * 2 ^ 64
theorem witness_records : field (ofBytes (memBytes aChain (spadKey 0 0x40) 64)) 255 1 = 0 ∧ field ownRecord 255 1 = 1 ∧ field ownRecord 482 30 = 0 ∧ field ownRecord 0 6 = 0 ∧ field ownRecord 226 2 ≠ 3 ∧
    field ownRecord 228 14 = 0 ∧ field ownRecord 242 6 = 0 := by decide +kernel
theorem test_record : let t := after (exec (.chainRecordFetch 0 3) (aChain.setBytes (spadKey 0 0x40) (lowBytes ownRecord 64)))
    ((t.core 0).chans.get {} 3).records.map (fun j => (j.s, j.d, j.n)) = [(0x03C0000000000300, 0x03C0000000000200, 16)] := by decide +kernel

/-- Quadrant 0's handler holds the image of channel 3, whose job has stopped at 8 bytes; PROG3 says so, or names 4 bytes. -/
def inCopyHandler (d : Nat) (skip : Bool) (x : Chan) : State := (withQuad (fun q => { q with inh := true, cskip := skip, prog3 := BitVec.ofNat 64 (3 * 2 ^ 56 + d), chImg := q.chImg.set 0 3 1 })).updMyCore (fun k =>
  { k with chans := k.chans.set {} 3 x })
def stoppedJob : Job := { aJob .copy 4 with entered := some 1, done := 8, shown := 8 }
def stoppedChan : Chan := { q := [stoppedJob], halted := some 1 }
theorem witness_tret_copy : ∀ d ∈ [8, 4], ∀ skip : Bool, let s := inCopyHandler d skip stoppedChan
    Free s {} ∧ s.me.inh = true ∧ holdsImage s.myCore s.cur.quad = false ∧ s.me.chImg.keys.Nodup ∧ 3 ∈ s.me.chImg.keys ∧ (s.myCore.chans.get {} 3).halted = some 1 ∧ (s.myCore.chans.get {} 3).badRecord = false := by
  unfold Free; decide
theorem witness_stopped_job : StoppedJob stoppedChan 1 stoppedJob ∧
    StoppedJob { q := [{ aJob .chain 4 with entered := some 0 }], halted := some 1, records := [stoppedJob] } 1 stoppedJob :=
  ⟨⟨_, _, rfl, by decide, Or.inl ⟨by decide, rfl⟩⟩, ⟨_, _, rfl, by decide, Or.inr ⟨by decide, [], [], rfl, fun _ m => nomatch m⟩⟩⟩
/-- A chain whose next record could not be read. -/
theorem witness_bad_record : let x : Chan := { q := [{ aJob .chain 4 with entered := some 0 }], next := some 0x03C0000000000040, halted := some 1, badRecord := true }
    ∃ h, x.q = h :: [] ∧ h.kind = .chain ∧ h.entered ≠ none ∧ x.halted = some 1 ∧ x.badRecord = true := ⟨_, rfl, by decide, by decide, by decide, by decide⟩
theorem test_tret_copy : ((after (exec .tret (inCopyHandler 4 false stoppedChan))).myCore.chans.get {} 3).q.map Job.done = [4] ∧
    ((after (exec .tret (inCopyHandler 8 true stoppedChan))).myCore.chans.get {} 3).q.map (fun j => (j.fin, j.status)) = [(true, 9)] := by decide

/-- A copy that has entered, alone; a finished job that a trap has stopped, and one that stands before it. -/
theorem witness_entered : (entered.core 0).chans.get {} 3 = ({ q := [{ aJob .copy 0 with entered := some 0, enteredAt := 0, num := 0, own := 0 }] } : Chan) ∧ Runs entered 0 1 ∧
    (∀ i, i < 8 → i ≠ 3 → ((entered.core 0).chans.get {} i).q = []) ∧ ∀ y ∈ (oneCopy.task 1).slacks, y.1 ≠ (oneCopy.task 1).jobs := by unfold Runs; decide +kernel
theorem witness_finished_halted : ∃ j, (({ q := [{ aJob .copy 4 with fin := true, entered := some 2 }], halted := some 1 } : Chan).q = [j]) ∧ j.fin = true ∧ j.record = none ∧ 1 ≤ j.entered.getD 0 ∧ ¬ 3 ≤ j.entered.getD 0 :=
  ⟨_, rfl, by decide, by decide, by decide, by decide⟩
/-- A SEND behind a queued store. -/
theorem witness_send_waits : (withQuad (fun q => { q with memQ := [({ op := .store 3 5, addr := 0x03C0000000000040, rel := 4, wordAt := 0, pat := 0, since := 0 } : MemEntry)] })).me.memQ ≠ [] := by decide

/-! ### Rings -/

/-- A ring of 4 slots of 64 bytes at 0x2000 of the scratchpad with its block at 0x1000: its indexes, and handle 2 bound to it with the roles of HPMASK and HCMASK. -/
def ringBlock (p a c : Nat) : Nat := 0x03C0000000002000 + 2 * 2 ^ 64 + 6 * 2 ^ 69 + 1 * 2 ^ 88 + 2 * 2 ^ 96 + p * 2 ^ 160 + a * 2 ^ 192 + c * 2 ^ 224
def ring (p a c hp hc role : Nat) : State := (withQuad (fun q => { q with member := { role := role }, handles := q.handles.set {} 2 { block := some 0x03C0000000001000, hp := hp, hc := hc }, g := q.g.set 0 8 0x03C0000000002040 })).setBytes (spadKey 0 0x1000) (lowBytes (ringBlock p a c) 64)

theorem witness_qbind : Free (ring 3 1 0 1 2 0) (useOf [4] 0 4) 7 ∧ Free (ring 3 1 0 1 2 0) {} ∧ (0x03C0000000001000 : Word).toNat % 64 = 0 ∧
    SpadRange (ring 3 1 0 1 2 0) 0 (myTask (ring 3 1 0 1 2 0)) 0x03C0000000001000 64 (spadKey 0 0x1000) ∧ LegalRing (ringBlock 3 1 0) ∧
    ofBytes (memBytes (ring 3 1 0 1 2 0) (spadKey 0 0x1000) 64) = ringBlock 3 1 0 ∧ rBase (ringBlock 3 1 0) / 2 ^ 54 % 16 = 15 ∧
    (rBase (ringBlock 3 1 0) + 2 ^ (rS (ringBlock 3 1 0) + rZ (ringBlock 3 1 0)) - 1) / 2 ^ 54 % 16 = 15 :=
  ⟨free_of (by decide), free_of (by decide), by decide, by unfold SpadRange; decide +kernel, by unfold LegalRing ahead rS rZ rBase rPidx rCidx rAidx field; decide +kernel,
    by decide +kernel, by decide +kernel, by decide +kernel⟩
/-- Rings that are empty, full, with an entry to acquire, with one held; an index that has wrapped. -/
theorem bound (p a c hp hc role : Nat) (h : SpadRange (ring p a c hp hc role) 0 (myTask (ring p a c hp hc role)) 0x03C0000000001000 64 (spadKey 0 0x1000) ∧
    ((ring p a c hp hc role).me.handles.get {} 2).block = some 0x03C0000000001000 ∧ (ring p a c hp hc role).cur.core = 0 ∧
    ofBytes (memBytes (ring p a c hp hc role) (spadKey 0 0x1000) 64) = ringBlock p a c) (l : LegalRing (ringBlock p a c)) :
    BoundTo (ring p a c hp hc role) 2 0x03C0000000001000 (spadKey 0 0x1000) (ringBlock p a c) := ⟨h.2.1, h.2.2.1 ▸ h.1, h.2.2.2.symm, l⟩
theorem witness_bound : BoundTo (ring 3 1 0 1 2 0) 2 0x03C0000000001000 (spadKey 0 0x1000) (ringBlock 3 1 0) ∧ BoundTo (ring 4 2 0 1 2 0) 2 0x03C0000000001000 (spadKey 0 0x1000) (ringBlock 4 2 0) ∧
    BoundTo (ring 0 0 0 0 0 0) 2 0x03C0000000001000 (spadKey 0 0x1000) (ringBlock 0 0 0) ∧
    BoundTo (ring 1 0xFFFFFFFF 0xFFFFFFFE 1 2 0) 2 0x03C0000000001000 (spadKey 0 0x1000) (ringBlock 1 0xFFFFFFFF 0xFFFFFFFE) := by
  refine ⟨bound _ _ _ _ _ _ ?_ ?_, bound _ _ _ _ _ _ ?_ ?_, bound _ _ _ _ _ _ ?_ ?_, bound _ _ _ _ _ _ ?_ ?_⟩ <;>
    first | (unfold LegalRing ahead rS rZ rBase rPidx rCidx rAidx field; decide +kernel) | (unfold SpadRange; decide +kernel)
theorem witness_ring_words : (ring 3 1 0 1 2 0).me.memQ = [] ∧ NothingPosted (ring 3 1 0 1 2 0) ∧ (ring 3 1 0 1 2 0).me.ask = none ∧ Free (ring 3 1 0 1 2 0) (useOf [] 7 4) 7 ∧
    Free (ring 3 1 0 1 2 0) (useOf [8] 0 4) 7 ∧ Free (ring 3 1 0 1 2 0) { reads := [], writes := [] } ∧ Free (ring 3 1 0 1 2 0) { reads := [.g 8], writes := [.g 8] } ∧ (8 : BitVec 6).toNat < 48 := by
  unfold NothingPosted Free; decide +kernel
theorem witness_qres : ahead (rPidx (ringBlock 3 1 0)) (rCidx (ringBlock 3 1 0)) < 2 ^ rS (ringBlock 3 1 0) ∧
    ahead (rPidx (ringBlock 4 2 0)) (rCidx (ringBlock 4 2 0)) = 2 ^ rS (ringBlock 4 2 0) ∧ (ring 4 2 0 1 2 0).me.wait = none := by decide +kernel
/-- Slot 1 of round 0 is committed, its phase word 0, and is to be acquired; the address in g8 is slot 1's. -/
theorem witness_qacq : rAidx (ringBlock 3 1 0) ≠ rPidx (ringBlock 3 1 0) ∧ PhaseWord (ring 3 1 0 1 2 0) (ringBlock 3 1 0) (rAidx (ringBlock 3 1 0)) (spadKey 0 0x2040) 0 ∧
    0 % 2 = slotPhase (ringBlock 3 1 0) (rAidx (ringBlock 3 1 0)) := by
  refine ⟨by decide +kernel, ?_, by decide +kernel⟩
  unfold PhaseWord SpadRange; decide +kernel
/-- Slot 5, of round 1, is reserved and not committed: its phase word is 0. -/
theorem witness_qcmt : ((ring 6 4 3 1 2 0).me.begin (useOf [8] 0 4)).src 8 = slotAddr (ringBlock 6 4 3) 5 ∧ ahead 5 (rCidx (ringBlock 6 4 3)) < ahead (rPidx (ringBlock 6 4 3)) (rCidx (ringBlock 6 4 3)) ∧
    PhaseWord (ring 6 4 3 1 2 0) (ringBlock 6 4 3) 5 (spadKey 0 0x2040) 0 ∧ 0 % 2 ≠ slotPhase (ringBlock 6 4 3) 5 := by
  refine ⟨by decide +kernel, by decide +kernel, ?_, by decide +kernel⟩
  unfold PhaseWord SpadRange; decide +kernel
theorem witness_qcmt_err : field (ringBlock 0 0 0) 320 32 = field (ringBlock 0 0 0) 384 32 ∧ ∀ j, j < 2 ^ 32 → ahead j (rCidx (ringBlock 0 0 0)) < ahead (rPidx (ringBlock 0 0 0)) (rCidx (ringBlock 0 0 0)) →
    ((ring 0 0 0 1 2 0).me.begin (useOf [8] 0 4)).src 8 ≠ slotAddr (ringBlock 0 0 0) j := by
  have h : ahead (rPidx (ringBlock 0 0 0)) (rCidx (ringBlock 0 0 0)) = 0 := by decide +kernel
  refine ⟨by decide +kernel, ?_⟩; intro j _ k; rw [h] at k; exact absurd k (Nat.not_lt_zero _)
/-- HAND in a role of both masks, of HPMASK, of HCMASK, of neither. -/
theorem witness_hand : ((ring 4 4 3 3 2 1).me.handles.get {} 2).hp &&& ((ring 4 4 3 3 2 1).me.handles.get {} 2).hc ≠ 0 ∧
    ((ring 4 4 3 1 2 0).me.handles.get {} 2).hp &&& ((ring 4 4 3 1 2 0).me.handles.get {} 2).hc = 0 ∧
    field ((ring 4 4 3 1 2 0).me.handles.get {} 2).hp (ring 4 4 3 1 2 0).me.member.role 1 = 1 ∧
    field ((ring 4 4 3 1 2 1).me.handles.get {} 2).hp (ring 4 4 3 1 2 1).me.member.role 1 = 0 ∧ field ((ring 4 4 3 1 2 1).me.handles.get {} 2).hc (ring 4 4 3 1 2 1).me.member.role 1 = 1 ∧
    field ((ring 4 4 3 1 2 2).me.handles.get {} 2).hp (ring 4 4 3 1 2 2).me.member.role 1 = 0 ∧ field ((ring 4 4 3 1 2 2).me.handles.get {} 2).hc (ring 4 4 3 1 2 2).me.member.role 1 = 0 := by decide +kernel
/-- HAND with g0 reserves slot 4, of round 1, whose phase word is 0. -/
theorem witness_hand_reserves : PhaseWord (ring 4 4 3 1 2 0) (ringBlock 4 4 3) (rPidx (ringBlock 4 4 3)) (spadKey 0 0x2000) 0 ∧ 0 % 2 ≠ slotPhase (ringBlock 4 4 3) (rPidx (ringBlock 4 4 3)) ∧
    spadKey 0 0x1000 + 64 ≤ spadKey 0 0x2000 := by
  refine ⟨?_, by decide +kernel, by decide +kernel⟩
  unfold PhaseWord SpadRange; decide +kernel
/-- Slots 0 and 1 are held: slot 1 is not the oldest; slot 0, where it alone is held, is. -/
theorem witness_qrel : slotAddr (ringBlock 3 2 0) 1 = 0x03C0000000002040 ∧ ahead 1 (rCidx (ringBlock 3 2 0)) < ahead (rAidx (ringBlock 3 2 0)) (rCidx (ringBlock 3 2 0)) ∧
    PhaseWord (ring 3 2 0 1 2 0) (ringBlock 3 2 0) 1 (spadKey 0 0x2040) 0 ∧ field 0 1 1 = 0 ∧ 0 % 2 = slotPhase (ringBlock 3 2 0) 1 ∧ 1 ≠ rCidx (ringBlock 3 2 0) ∧
    PhaseWord (ring 3 2 0 1 2 0) (ringBlock 3 2 0) (rCidx (ringBlock 3 2 0)) (spadKey 0 0x2000) 0 ∧ 0 = rCidx (ringBlock 3 1 0) ∧
    ahead (rAidx (ringBlock 3 1 0)) (rCidx (ringBlock 3 1 0)) = 1 := by
  refine ⟨by decide +kernel, by decide +kernel, ?_, by decide +kernel, by decide +kernel, by decide +kernel, ?_, by decide +kernel, by decide +kernel⟩ <;> (unfold PhaseWord SpadRange; decide +kernel)
/-- All that the words of a bound ring ask: free slots, one that may be acquired, one reserved and not committed; a permit, a commit and an acquire for HAND. -/
theorem witness_ring_completes : (ring 3 1 0 1 2 0).me.memQ = [] ∧ NothingPosted (ring 3 1 0 1 2 0) ∧ (ring 3 1 0 1 2 0).me.ask = none ∧ LegalRing (ringBlock 3 1 0) ∧
    (∃ k w, PhaseWord (ring 4 4 3 1 2 0) (ringBlock 4 4 3) (rPidx (ringBlock 4 4 3)) k w ∧ w % 2 ≠ slotPhase (ringBlock 4 4 3) (rPidx (ringBlock 4 4 3)) ∧ (k + 4 ≤ spadKey 0 0x1000 ∨ spadKey 0 0x1000 + 64 ≤ k)) ∧
    (∃ j k w, j < 2 ^ 32 ∧ ((ring 6 4 3 1 2 0).me.begin (useOf [8] 0 4) 7).src 8 = slotAddr (ringBlock 6 4 3) j ∧ ahead j (rCidx (ringBlock 6 4 3)) < ahead (rPidx (ringBlock 6 4 3)) (rCidx (ringBlock 6 4 3)) ∧
      PhaseWord (ring 6 4 3 1 2 0) (ringBlock 6 4 3) j k w ∧ w % 2 ≠ slotPhase (ringBlock 6 4 3) j ∧ (k + 4 ≤ spadKey 0 0x1000 ∨ spadKey 0 0x1000 + 64 ≤ k)) ∧
    (0x03C0000000001000 : Word) = BitVec.ofInt 64 ((((ring 3 1 0 1 2 0).me.begin {} 7).pc.toNat / 64 * 64 : Nat) + (64 : BitVec 19).toInt * 64) := by
  refine ⟨by decide +kernel, by unfold NothingPosted; decide +kernel, by decide +kernel, witness_qbind.2.2.2.2.1, ⟨_, _, witness_hand_reserves.1, witness_hand_reserves.2.1, Or.inr witness_hand_reserves.2.2⟩,
    ⟨5, _, _, by decide, by decide +kernel, witness_qcmt.2.1, witness_qcmt.2.2.1, witness_qcmt.2.2.2, Or.inr (by decide)⟩, by decide +kernel⟩
theorem witness_unbound : ((ring 3 1 0 1 2 0).me.handles.get {} 3).block = none ∧ Free (ring 3 1 0 1 2 0) (useOf [] 7 4) 7 ∧ CanTrap (ring 3 1 0 1 2 0) := by
  unfold Free CanTrap; decide +kernel
theorem test_qres : let t := after (exec (.qres 7 2 0) (ring 3 1 0 1 2 0))
    (t.me.gr 7, t.bytesAt (spadKey 0 0x1014) 4) = (0x03C00000000020C0, [4, 0, 0, 0]) := by decide +kernel
theorem test_qstat : (after (exec (.qstat 7 2) (ring 3 1 0 1 2 0))).me.gr 7 = BitVec.ofNat 64 (2 ^ 41 + 2 * 2 ^ 20) := by decide +kernel

theorem witness_hand_free : ∀ a ∈ [0, 8], Free (ring 4 4 3 1 2 0) (handUse a) 7 ∧ a.toNat < 48 := by unfold Free handUse; decide +kernel
theorem witness_settled : Settled (ring 3 1 0 1 2 0) ∧ Settled some1 := by unfold Settled NothingPosted; decide +kernel

/-! ### Roles, barriers, semaphores, signals, ends -/

theorem witness_role : ∀ l ∈ some1.me.loops.head?, ¬ (some1.me.pc.toNat ≤ l.last.toNat ∧ l.last.toNat < (some1.me.pc + BitVec.ofNat 64 (4 + 4 * 9)).toNat) := by decide
theorem witness_role_sides : (0b101 : BitVec 8).getLsbD some1.me.member.role = true ∧ (0b110 : BitVec 8).getLsbD some1.me.member.role = false := by decide
theorem witness_barrier_arrives : Free some1 {} ∧ (some1.me.begin {}).arrived = none ∧ (some1.me.begin {}).memQ = [] ∧ NothingPosted some1 :=
  ⟨free_of (by decide), by decide, by decide, nothingPosted_some1⟩
/-- A task of two quadrants stands at its barrier. -/
def atBarrier : State := (some1.updCore 0 (fun k => { k with q0 := { k.q0 with cyc := 500, arrived := some (false, 300) }, q1 := { k.q0 with arrived := some (false, 400) } }))
theorem witness_barrier_passes : Free atBarrier {} ∧ (atBarrier.me.begin {}).arrived = some (false, 300) ∧ 300 + 100 ≤ (atBarrier.me.begin {}).cyc ∧
    HasCome false (atBarrier.me.begin {}) (atBarrier.quadOf 0 1) 100 ∧ (atBarrier.quadOf 0 2).idle = true ∧ (atBarrier.quadOf 0 3).idle = true ∧
    (atBarrier.task (myTask atBarrier)).cores = [0] ∧ (atBarrier.task (myTask atBarrier)).walks = [] :=
  ⟨free_of (by decide), by decide, by decide, Or.inr (Or.inr ⟨by decide, 400, by decide, by decide, by decide⟩), by decide, by decide, by decide, by decide⟩

/-- Semaphore 3 counts 2; stage barrier 1 is short, 2 is complete. -/
def withCounts : State := some1.updMyCore (fun k => { k with
  sm := k.sm.set 0 3 2, stb := (k.stb.set {} 1 { armed := true, base := 0, len := 64, announced := 64, credited := 16 }).set {} 2 { armed := true, base := 0, len := 64, announced := 64, credited := 64 } })
theorem witness_semaphores : Free withCounts {} ∧ (withCounts.me.begin {}).memQ = [] ∧ 0 < withCounts.myCore.sm.get 0 3 ∧ withCounts.myCore.sm.get 0 4 = 0 ∧ (withCounts.me.begin {}).wait = none ∧
    (withCounts.myCore.stb.get {} 0).armed = false ∧ (withCounts.myCore.stb.get {} 1).armed = true ∧ (withCounts.myCore.stb.get {} 1).credited ≠ (withCounts.myCore.stb.get {} 1).announced ∧
    (withCounts.myCore.stb.get {} 2).credited = (withCounts.myCore.stb.get {} 2).announced := by unfold Free; decide
/-- The two units of semaphore 3 came from earlier cycles, or in this one. -/
theorem witness_semaphores_fresh : withCounts.myCore.smAt ≠ (withCounts.me.begin {} 7).cyc ∧
    (let s := withCounts.updMyCore (fun k => { k with smAt := 10, smNew := (Tab.empty : Tab Nat).set 0 3 2 }); s.myCore.smAt = (s.me.begin {} 7).cyc ∧ s.myCore.sm.get 0 3 ≤ s.myCore.smNew.get 0 3) := by decide
theorem witness_stge : Free withCounts (useOf [4, 1] 0 4) 7 ∧ homeOf ((withCounts.me.begin (useOf [4, 1] 0 4)).src 4) = 15 ∧ 0x40 + 24 ≤ 2 ^ 19 ∧
    (∀ i, i < 24 → withCounts.bankOk 0 ((0x40 + i) / 65536) (myTask withCounts) = true) ∧ CanTrap withCounts := by unfold Free CanTrap; decide
theorem test_stge : ((after (exec (.stge 0 4 1) withCounts)).myCore.stb.get {} 0) = { armed := true, base := 0x40, len := 24, announced := 24, credited := 0 } := by decide
theorem test_smwait : (after (exec (.smwait 3 0) withCounts)).myCore.sm.get 0 3 = 1 := by decide

theorem witness_signals : Free some1 (useOf [4, 1] 0 4) 7 ∧ (some1.me.src 4).toNat % 8 = 0 ∧ Granted some1 .load (some1.me.src 4) 8 (spadKey 0 0x40) ∧
    Granted some1 .atomic (some1.me.src 4) 8 (spadKey 0 0x40) ∧ (some1.me.begin (useOf [4, 1] 0 4)).wait = none ∧ (some1.me.begin (useOf [4, 1] 0 4)).memQ = [] ∧ NothingPosted some1 :=
  ⟨free_of (by decide), by decide, ⟨by decide, by decide, by decide, Or.inl (by decide)⟩, ⟨by decide, by decide, by decide, Or.inl (by decide)⟩, by decide, by decide, nothingPosted_some1⟩
theorem witness_signal_conditions : signal 0 5 5 ∧ ¬ signal 0 5 6 ∧ signal 1 5 6 ∧ ¬ signal 1 5 5 ∧ signal 2 6 6 ∧ ¬ signal 2 5 6 ∧ signal 3 5 6 ∧ ¬ signal 3 6 6 := by simp [signal]
theorem test_sigadd : (after (exec (.sigadd 4 1 0) (some1.setBytes (spadKey 0 0x40) [0xFF]))).bytesAt (spadKey 0 0x40) 2 = [0x17, 1] := by decide

/-- The same in a team. -/
def inTeam : State := some1.updTask 1 (fun k => { k with team := true })
theorem witness_await : Free some1 (useOf [4, 1] 0 4) 7 ∧ (some1.task (myTask some1)).team = false ∧ (some1.me.begin (useOf [4, 1] 0 4)).pend = [] ∧
    Free inTeam (useOf [1] 0 4) 7 ∧ (inTeam.task (myTask inTeam)).team = true ∧ (inTeam.me.begin (useOf [1] 0 4)).wait = none ∧ (some1.me.begin (useOf [4, 1] 0 4) 7).snapBack = false ∧
    inTeam.myCore.tagmap &&& (inTeam.me.begin (useOf [3] 0 4)).src 0 = (inTeam.me.begin (useOf [3] 0 4)).src 0 := by unfold Free; decide
theorem witness_tend : Free some1 {} ∧ some1.cur.core < 1536 ∧ (some1.me.begin {}).memQ = [] ∧ NothingPosted some1 ∧ (some1.me.begin {}).vecQ = [] ∧ (some1.me.begin {}).pend = [] ∧
    some1.myCore.mq = [] ∧ some1.myCore.mrun = [] ∧ (some1.me.begin {} 7).snapBack = false := ⟨free_of (by decide), by decide, by decide, nothingPosted_some1, by decide, by decide, by decide, by decide, by decide⟩
/-- The last member, and one that another member outlives. -/
theorem witness_tend_members : (∀ u, u < 4 → u ≠ 0 → (some1.quadOf 0 u).idle = true) ∧ (some1.task 1).cores = [0] ∧ (some1.task 1).walks = [] ∧
    IsMember atBarrier 1 0 1 ∧ (atBarrier.quadOf 0 1).ended = false :=
  ⟨by decide, by decide, by decide, ⟨Or.inl ⟨by decide, by decide⟩, by decide⟩, by decide⟩
theorem test_tend : let t := after (exec .tend some1)
    ((t.quadOf 0 0).ended, (t.task 1).st) = (true, .ending) := by decide

/-- A task of quadrant 0 of core 0 and of quadrant 0 of core 192, of facet 1, where the other member has come to the barrier, or has not. -/
def acrossFacets (come : Bool) : State := ((some1.updTask 1 (fun k => { k with cores := [0, 192], team := true })).updCore 192 (fun k => { k with task := some 1, q0 := { some1.me with arrived := if come then some (false, 5) else none } }))
theorem witness_barrier_notes : Free (acrossFacets true) {} 7 ∧ ((acrossFacets true).me.begin {} 7).arrived = none ∧ Settled (acrossFacets true) ∧
    IsMember (acrossFacets true) (myTask (acrossFacets true)) 0 0 ∧ IsMember (acrossFacets true) (myTask (acrossFacets true)) 192 0 ∧ facetOf 0 ≠ facetOf 192 ∧
    HasArrived false ((acrossFacets true).me.begin {} 7) ((acrossFacets true).quadOf 192 0) ∧
    (∀ c ∈ [0, 192], ∀ u, u < 4 → (c ≠ 0 ∨ u ≠ 0) → (c ≠ 192 ∨ u ≠ 0) → ((acrossFacets true).quadOf c u).idle = true) ∧ ((acrossFacets true).task (myTask (acrossFacets true))).walks = [] ∧
    ¬ HasArrived false ((acrossFacets false).me.begin {} 7) ((acrossFacets false).quadOf 192 0) := by
  refine ⟨free_of (by decide +kernel), by decide +kernel, by unfold Settled NothingPosted; decide +kernel, by unfold IsMember; decide +kernel, by unfold IsMember; decide +kernel, by decide,
    Or.inr (Or.inr ⟨5, by decide +kernel, by decide +kernel⟩), by decide +kernel, by decide +kernel, ?_⟩
  rintro (h | h | ⟨t, h, -⟩)
  · exact absurd h (by decide +kernel)
  · exact absurd h (by decide +kernel)
  · exact absurd h (by rw [show ((acrossFacets false).quadOf 192 0).arrived = none by decide +kernel]; exact fun h => nomatch h)
theorem test_barrier_notes : (((after (exec .tbar (acrossFacets true))).ctx 0).arrivals, ((after (exec .tbar (acrossFacets false))).ctx 0).arrivals) = ([0], []) := by decide +kernel

/-! ### Registers, the debug window, freezes, power -/

/-- From R5 and the field tables: DEADBEEF... written to MIGTHR leaves its low byte; a clear-on-one bit of STOPST goes. -/
theorem test_registerWrite : (let t := after (exec (.registerWrite (.migthr 3) 0xDEADBEEFCAFEF0F7) some1); ((t.facet 3).migthr, (t.facet 2).migthr)) = (0xF7, 0x40) := by decide
theorem witness_sqctl : (((0x5000 : Word) >>> 12).toNat % 32 < 4 ∨ 16 < ((0x5000 : Word) >>> 12).toNat % 32) = False ∧ ((0x3000 : Word) >>> 12).toNat % 32 < 4 := by decide
/-- RQUOTA at both ends of its range, and with the sum of all quotas at 65536 (all others at their reset value 1024, R374). -/
theorem test_rquota : ([63, 64, 1024, 1025] : List Word).map (fun v => (after (exec (.rquotaWrite 7 v) some1)).hub.rquota.get 1024 7) = [1024, 64, 1024, 1024] := by decide +kernel
theorem witness_coreoff : ∀ i, i < 64 → (1 : Word).getLsbD i = true → (some1.core (192 * 2 + 64 * 1 + i)).preload = none ∧ (some1.core (192 * 2 + 64 * 1 + i)).banks.wf {} = true ∧
    ∀ b, b < 8 → ((some1.core (192 * 2 + 64 * 1 + i)).banks.get {} b).st ≠ .parked := by decide +kernel
/-- Core 0 frozen by the window, the target register g18; a core that is not frozen; register 52. -/
def inWindow (frozen : Bool) (idx : Word) : State := { (some1.updMyCore (fun k => { k with frozen := frozen, stopAt := 20, dbgAt := 20 })).updHub
  (fun h => { h with authLock := false, dbgidx := idx, dbgdata0 := 77 }) with cycle := 70 }
theorem witness_window : (inWindow true 18).hub.dbgSpace = 0 ∧ (inWindow true 18).hub.dbgtgt.toNat % 2 ^ 11 = 0 ∧ (inWindow true 18).hub.dbgidx.toNat % 2 ^ 8 < 52 ∧ ((inWindow true 18).core 0).frozen = true ∧
    (inWindow true 18).hub.authLock = false ∧ ((inWindow false 18).core 0).frozen = false ∧ (inWindow true 52).hub.dbgidx.toNat % 2 ^ 8 = 52 := by decide
theorem test_window_write : (after (exec .dbgWrite (inWindow true 18))).me.gr 18 = 77 ∧ (after (exec .dbgWrite (inWindow true 52))).hub.dbgErr = true := by decide
theorem witness_freezes : (some1.core 0).frozen = false ∧ ((inWindow true 18).core 0).frozen = true ∧ ((inWindow true 18).core 0).eccFreeze = 0 ∧
    ((inWindow true 18).updMyCore (fun k => { k with eccFreeze := 60 })).myCore.eccFreeze ≤ (inWindow true 18).cycle ∧ (some1.core 5).task = none ∧ (some1.core 5).preload = none ∧
    ∀ b, b < 8 → ((some1.core 5).banks.get {} b).st = .free := by decide
theorem test_dram_corrected : ((after (exec (.eccCorrected 2051) some1)).facet 3).deccnt = 1 := by decide
theorem test_thaw : (after (exec .dbgThaw (inWindow true 18))).me.cyc = 60 := by decide
theorem witness_power : ({ some1 with powered := false } : State).powered = false ∧ (some1.updHub (fun h => { h with authRes := 3 })).hub.authRes = 3 ∧
    (some1.facet 3).clockAt ≤ some1.time ∧ ¬ ((some1.updFacet 3 (fun x => { x with clockAt := some1.time + 1 })).facet 3).clockAt ≤ some1.time := by decide
theorem test_dbgauth : (after (exec .dbgauthGo some1)).hub.authRes = 3 := by decide

/-- Facet 2 alone has been last at the barriers, and is behind; facet 3 may not step up. -/
def behind : State := (some1.updCtx 0 (fun c => { c with arrivals := [2, 2] })).updFacet 2 (fun x => { x with clockDown := 3 })
theorem witness_headroom : (∃ c ∈ behind.ctxs.cells, c.2.arrivals ≠ []) ∧ (∀ c ∈ behind.ctxs.cells, ∀ x ∈ c.2.arrivals, x = 2) ∧ (behind.facet 2).clockDown ≠ 0 ∧ (behind.facet 2).clockAt ≤ behind.time ∧
    ∀ c ∈ some1.ctxs.cells, c.2.arrivals = [] := by decide +kernel
theorem test_headroom : ((after (exec (.clockStep 3 true) (behind.updFacet 3 (fun x => { x with clockDown := 1 })))).facet 3).clockDown = 1 ∧
    ((after (exec (.clockStep 2 true) behind)).facet 2).clockDown = 2 := by decide +kernel
theorem witness_unpowered : ({ some1 with powered := false } : State).powered = false ∧ (some1.updHub (fun h => { h with booted := false })).hub.booted = false ∧ some1.powered = true ∧ some1.hub.booted = true ∧
    some1.hub.authUsed = false := by decide
theorem witness_bank_free : ((some1.core 5).banks.get {} 7).st = .free ∧ 5 < 1536 := by decide

/-! ### The memory side of a facet -/

/-- The page tables of ASID 7 at facet 3: three levels that lead page 5 of 2 MB to frame 0x400000, readable and writable by all; `pl` is its PL bit. -/
def pte (a : Nat) : Word := BitVec.ofNat 64 (3 * 2 ^ 48 + a)
def withTables (pl : Nat) : State :=
  ((((some1.updFacet 3 (fun x => { x with walks := [{ asid := 7, page := 5 * 32 + 1, doneAt := 0 }] })).updCtx 1 (fun c => { c with en := true, asid := 7, ptroot := c.ptroot.set 0 3 (pte (0x100000 + 1)) })).setBytes
    (stackKey 3 0x100000) (lowBytes (pte 0x200001).toNat 8)).setBytes (stackKey 3 0x200000) (lowBytes (pte 0x201001).toNat 8)).setBytes (stackKey 3 (0x201000 + 40)) (lowBytes (pte (0x400000 + 0x1B + pl)).toNat 8)
theorem witness_walks : ∃ root e, ((withTables 0).facet 3).walks = { asid := 7, page := 161, doneAt := 0 } :: [] ∧ (0 : Nat) ≤ (withTables 0).cycle ∧ (withTables 0).tlbFind 3 7 (161 * 65536) = none ∧ (withTables 0).rootOf 3 7 = some root ∧
    (withTables 0).walk root (161 * 65536) = some (e, 21) ∧ e.getLsbD 7 = false ∧ ((withTables 0).facet 3).tlb = [] :=
  ⟨stackKey 3 0x100000, pte (0x400000 + 0x1B), by decide +kernel, by decide +kernel, by decide +kernel, by decide +kernel, by decide +kernel, by decide +kernel, by decide +kernel⟩
theorem witness_page : ∃ root e, (withTables 0x80).rootOf 3 7 = some root ∧ (withTables 0x80).walk root (5 * 2 ^ 21) = some (e, 21) ∧ e.getLsbD 7 = true ∧ (withTables 0x80).tasks.wf {} = true :=
  ⟨stackKey 3 0x100000, pte (0x400000 + 0x9B), by decide +kernel, by decide +kernel, by decide +kernel, by decide +kernel⟩
theorem witness_migrate : ((withTables 0).facet 3).moving = none ∧ (0x600000 : BitVec 48).toNat % 2 ^ 21 = 0 := by decide +kernel
/-- The page moves to facet 4. -/
def moving : State := (withTables 0).updFacet 3 (fun x => { x with moving := some { asid := 7, page := 5, shift := 21, ffac := 4, frame := 0x600000, doneAt := 5 } })
theorem witness_migration : ∃ m e, (moving.facet 3).moving = some m ∧ moving.entryOf 3 m.asid (m.page * 2 ^ m.shift) = some e ∧ m.ffac < 8 ∧ m.frame < 2 ^ 48 :=
  ⟨_, pte (0x400000 + 0x1B), rfl, by decide +kernel, by decide, by decide⟩
theorem witness_migration_inv : Sys2Proof.Machine.Inv moving := by unfold Sys2Proof.Machine.Inv; decide +kernel
/-- The last region of a facet's stacks, and the one behind it. -/
theorem witness_migclr : 45776 * 2 ^ 21 < stackBytes ∧ stackBytes ≤ 45777 * 2 ^ 21 := by decide

/-- A read of 16 bytes, or a store of 3, of package 9, due at facet 3 of package 0, in a flow that has come to it. -/
def aRead : Packet := { ty := 4, spkg := 9, sfac := 2, score := 5, sunit := 1, dpkg := 0, home := 3, offset := 5 * 2 ^ 21 + 0x100, asid := 7, ns := false, btag := 2, aux := 15, fseq := 6, epoch := 3, lseq := 0, token := 77, payload := [], stallmax := 5 }
def aStore : Packet := { aRead with ty := 1, payload := [9, 8, 7], token := 0, aux := 0 }
def aWindow : Window := { key := flowKey aRead, epoch := 3, next := 6, high := some 6, seen := [6], err := (Tab.empty : Tab Nat).set 0 2 1, done := (Tab.empty : Tab Nat).set 0 2 10 }
def home (p : Packet) (since : Option Nat) : State := { ((some1.updFacet 3 (fun x => { x with
    tlb := [{ asid := 7, page := 5, shift := 21, entry := pte (0x400000 + 0x1B), slice := 2 }], reqQ := [{ packet := p, since := since, nextAt := 0 }] })).updFabric
  (fun f => { f with windows := [aWindow] })) with cycle := 100 }
theorem granted_home (p : Packet) (n : Nat) (need : Need) (h : (home p none).tlbFind p.home p.asid p.offset = some { asid := 7, page := 5, shift := 21, entry := pte (0x400000 + 0x1B), slice := 2 } ∧
    (home p none).checkLeaf p.home p.offset (pte (0x400000 + 0x1B)) 21 p.ns need = .at (stackKey 3 0x400100)) (g : p.home < 8 ∧ 0 < n ∧ p.offset < 2 ^ 54 ∧ p.offset % 65536 + n ≤ 65536 ∧
      stackKey 3 0x400100 < 2 ^ 52 ∧ stackKey 3 0x400100 % 2 ^ 48 < stackBytes ∧ stackKey 3 0x400100 % 65536 = p.offset % 65536 ∧ ∀ e ∈ ((home p none).facet p.home).tlb, 16 ≤ e.shift)
    (k : (home p none).isMoving p.home p.asid p.offset = false ∧ (home p none).linkOver p.home p.asid p.offset n p.ns = none ∧ (home p none).slotAt p.home p.asid p.offset p.ns = none) :
    RequestGranted (home p none) p n need (stackKey 3 0x400100) :=
  ⟨⟨g.1, g.2.1, g.2.2.1, g.2.2.2.1, g.2.2.2.2.1, g.2.2.2.2.2.1, g.2.2.2.2.2.2.1, g.2.2.2.2.2.2.2, _, h⟩, k⟩
theorem witness_home_read : AtHome (home aRead none) 3 { packet := aRead, since := none, nextAt := 0 } aWindow ∧ aRead.ty = 4 ∧ aRead.token ≠ 0 ∧ aRead.aux < 256 ∧
    RequestGranted (home aRead none) aRead 16 .load (stackKey 3 0x400100) :=
  ⟨⟨by decide, by decide, by decide, by decide, by decide⟩, by decide, by decide, by decide, granted_home _ _ _ (by decide) (by decide) (by decide)⟩
theorem witness_home_store : AtHome (home aStore none) 3 { packet := aStore, since := none, nextAt := 0 } aWindow ∧ aStore.ty = 1 ∧
    RequestGranted (home aStore none) aStore aStore.payload.length .store (stackKey 3 0x400100) :=
  ⟨⟨by decide, by decide, by decide, by decide, by decide⟩, by decide, granted_home _ _ _ (by decide) (by decide) (by decide)⟩
theorem witness_home_stalled : AtHome (home aStore (some 94)) 3 { packet := aStore, since := some 94, nextAt := 0 } aWindow ∧ aStore.stallmax ≠ 0 ∧ 94 + aStore.stallmax < (home aStore (some 94)).cycle :=
  ⟨⟨by decide, by decide, by decide, by decide, by decide⟩, by decide, by decide⟩
/-- A store whose DRAM is beyond correction ends with error class 4. -/
theorem test_home_uncorrectable : ((after (exec (.eccUncorrectable 2051 true) (home aStore none))).windowOf (flowKey aStore)).map (fun w => w.err.get 0 2) = some 17 := by decide +kernel
theorem test_home_store : (after (exec (.homeRequest 3) (home aStore none))).bytesAt (stackKey 3 0x4000FF) 5 = [0, 9, 8, 7, 0] := by decide +kernel

/-- Link 12 of facet 2, valid, renewed at TIME 0, for the slot 0 of facet 3, which is LIVE. -/
def aSlot : Slot := { st := .live, asked := 4, bitmap := 1, pulled := 1, ntm1 := 2, asid := 7, addr := BitVec.ofNat 64 (3 * 2 ^ 54 + 5 * 2 ^ 21), obase := BitVec.ofNat 64 (2 * 2 ^ 54), link := 12 }
def linked (time : Nat) : State := { ((home aRead none).updSlot 3 0 (fun _ => aSlot)).updFacet 2 (fun x => { x with links := x.links.set {} 12 { v := true, rslot := aSlot.addr, renewed := 0 } }) with time := time }
theorem witness_links : ((linked 8000000).facet 2).links.get {} 12 = { v := true, rslot := aSlot.addr, renewed := 0 } ∧ 0 + 8000000 ≤ (linked 8000000).time ∧ (linked 7999999).time < 0 + 8000000 ∧
    ((linked 5).facet 2).links.get {} 11 = {} := by decide
theorem witness_leases : ((linked 5).facet 3).slots.wf {} = true ∧ ((linked 5).slot 3 0).st = .live ∧ ((linked 5).slot 3 0).renewAt ≤ 5 ∧ ((linked 5).slot 3 1).st ≠ .live ∧ pkgOf ((linked 5).slot 3 0).obase = (linked 5).pkg ∧
    homeOf ((linked 5).slot 3 0).obase = 2 ∧ (((linked 5).facet 2).links.get {} ((linked 5).slot 3 0).link).rslot = ((linked 5).slot 3 0).addr := by decide
/-- Data of tile 2 of a slot whose tiles lie in package 9. -/
def pulled (aux : Nat) : Packet := { aRead with ty := 9, aux := aux, token := 2 * 8 + 3, payload := lowBytes 5 4 ++ lowBytes 64 8 ++ [1, 2, 3, 4, 5] }
def pulling (aux : Nat) : State := ((home aStore none).updSlot 3 0 (fun _ => { aSlot with obase := BitVec.ofNat 64 (9 * 2 ^ 58 + 2 ^ 54) })).updFabric (fun f => { f with arrivals := [pulled aux] })
theorem witness_pulls : ∀ aux ∈ [0, 2], (pulling aux).fabric.arrivals = pulled aux :: [] ∧ (pulled aux).ty = 9 ∧ (pulled aux).damaged = false ∧ (pulled aux).token % 8 = 3 ∧ (pulled aux).token / 8 % 2 ^ 14 = 2 ∧
    (pulled aux).token / 2 ^ 17 = 0 ∧ ((pulling aux).slot 3 0).st = .live ∧ pkgOf ((pulling aux).slot 3 0).obase = (pulled aux).spkg ∧ ((pulling aux).slot 3 0).asked / 2 ^ 2 % 2 = 1 ∧
    ((pulling aux).slot 3 0).bitmap / 2 ^ 2 % 2 = 0 := by decide
theorem witness_pull_data : (0 : Nat) < [1, 2, 3, 4, 5].length ∧ (64 : Nat) < 2 ^ 54 ∧ ((pulling 0).slot 3 0).parts = [] ∧ pkgOf ((pulling 0).slot 3 0).obase ≠ (pulling 0).pkg ∧
    GrantedAt (pulling 0) 3 7 (offOf aSlot.addr) (4096 + 64 + 5) false .store (stackKey 3 0x400000) ∧ stackKey 3 0x400000 % 2 ^ 48 + 4096 + 64 + 5 ≤ stackBytes :=
  ⟨by decide, by decide, by decide, by decide, ⟨by decide, by decide, by decide, by decide, by decide, by decide, by decide, by decide, _, rfl, by decide⟩, by decide⟩
theorem test_pull : ((after (exec (.pullDataArrival 3) (pulling 0))).slot 3 0).bitmap = 5 ∧ (after (exec (.pullDataArrival 3) (pulling 0))).bytesAt (stackKey 3 (0x400000 + 4096 + 64)) 2 = [1, 2] := by decide +kernel

/-- A fetch of another package at its home: the page must be executable (R122). -/
theorem witness_home_fetch : let p : Packet := { aRead with btag := 1, aux := 3 }
    let e : Word := pte (0x400000 + 0x3B)
    (home p none).checkLeaf 3 p.offset e 21 p.ns .fetch = .at (stackKey 3 0x400100) ∧ (home p none).checkLeaf 3 p.offset (pte (0x400000 + 0x1B)) 21 p.ns .fetch ≠ .at (stackKey 3 0x400100) := by decide

/-! ### Slot tables, circuits, packets -/

theorem portRead_length {s : State} {ag : Agent} {a : Word} {n : Nat} {ks : List (Nat × Nat)} {bb : List (BitVec 8)} (p : Port) (ty kind : Nat) (h0 : n ≠ 0)
    (h1 : (s.acceptAll ag .load (spans a n)).1.res = .ok bb) (h2 : (s.acceptAll ag .load (spans a n)).2 = ks) (h3 : (ks.map Prod.snd).sum = n) (h4 : (spans a n).length = ks.length) :
    ∃ b, s.portRead p ag ty kind a n = ((s.read ag a n).st, {}, .ok b) ∧ b.length = n := by
  have h : ∃ b, (s.read ag a n).res = .ok b ∧ b.length = n := by
    unfold State.read
    split
    · rename_i hk
      refine ⟨_, rfl, ?_⟩
      rw [hk] at h2; subst h2; rw [State.got_length _ _ _ _ h4, h3]
    · rename_i acc ks' hno hk
      rw [hk] at h1; exact (hno acc.st bb (by rw [← h1])).elim
  obtain ⟨b, hb, hl⟩ := h
  exact ⟨b, by simp only [State.portRead, if_neg h0, hb], hl⟩

/-- An image at offset 0x100000 of facet 3, in a page of 1 GB, for SLOTW and for FABIMG. -/
def withImage : State := { (some1.updFacet 3 (fun x => { x with tlb := [{ asid := 0, page := 0, shift := 30, entry := pte (0x40000000 + 0x1B) }] })).updMe
  (fun q => { q with g := q.g.set 0 9 (BitVec.ofNat 64 (3 * 2 ^ 54 + 0x100000)) }) with hub := { fabimg := BitVec.ofNat 64 (3 * 2 ^ 54 + 0x100000), fabAt := some 0 } }
theorem witness_slotw : let s1 := withImage.updMe (fun q => q.begin (useOf [9, 1] 7 4) 7)
    let q := withImage.me.begin (useOf [9, 1] 7 4)
    Free withImage (useOf [9, 1] 7 4) 7 ∧ withImage.me.memQ = [] ∧ pkgOf (q.src 9) = withImage.pkg ∧ ∃ u b, s1.portRead { ask := q.ask, answer := q.answer, got := q.got } s1.agent 4 0 (q.src 9) 135168 = (u, {}, .ok b) ∧ b.length = 135168 ∧ u.me = q ∧ u.cur = withImage.cur := by
  obtain ⟨b, h, l⟩ := portRead_length (s := withImage.updMe (fun q => q.begin (useOf [9, 1] 7 4) 7)) (ag := (withImage.updMe (fun q => q.begin (useOf [9, 1] 7 4) 7)).agent)
    (a := (withImage.me.begin (useOf [9, 1] 7 4) 7).src 9) (n := 135168) (ks := [(stackKey 3 0x40100000, 65536), (stackKey 3 0x40110000, 65536), (stackKey 3 0x40120000, 4096)]) (bb := [])
    { ask := (withImage.me.begin (useOf [9, 1] 7 4) 7).ask, answer := (withImage.me.begin (useOf [9, 1] 7 4) 7).answer, got := (withImage.me.begin (useOf [9, 1] 7 4) 7).got } 4 0 (by decide) (by decide +kernel) (by decide +kernel) (by decide) (by decide +kernel)
  exact ⟨free_of (by decide), by decide, by decide, _, b, h, l, by decide +kernel, by decide +kernel⟩
theorem witness_fabimg : withImage.hub.fabAt = some 0 ∧ withImage.hub.fePorts = [] ∧
    ∃ u b, withImage.portRead {} (hubAgent withImage) 4 0 withImage.hub.fabimg 135168 = (u, {}, .ok b) ∧ b.length = 135168 ∧ u.hub = withImage.hub := by
  obtain ⟨b, h, l⟩ := portRead_length (s := withImage) (ag := hubAgent withImage) (a := withImage.hub.fabimg) (n := 135168)
    (ks := [(stackKey 3 0x40100000, 65536), (stackKey 3 0x40110000, 65536), (stackKey 3 0x40120000, 4096)]) (bb := []) {} 4 0 (by decide) (by decide +kernel) (by decide +kernel) (by decide) (by decide +kernel)
  exact ⟨by decide, by decide, _, b, h, l, by decide +kernel⟩

/-- From the fields of R363: one slot of 1000, guard 120, EPOCH 5; no slot at all; a guard of 119. The images that follow are all zero behind their first 72 bytes. -/
def anImage (nslot len guard : Nat) : List (BitVec 8) := lowBytes (nslot + 5 * 2 ^ 32) 64 ++ lowBytes (len + guard * 2 ^ 16) 8
theorem witness_images : (imageSlots (anImage 1 1000 120), imageSlot (anImage 1 1000 120) 0, imageSlots (anImage 0 0 0), imageSlot (anImage 1 1000 119) 0) = (1, 120 * 2 ^ 16 + 1000, 0, 119 * 2 ^ 16 + 1000) ∧
    imageSlot (anImage 1 1000 120) 1 = 0 ∧ imageFibre (anImage 1 1000 120) 0 0 = 0 := by decide +kernel
theorem witness_channels : ChannelsLegal 0 ∧ ChannelsLegal (0x81 + 0xBF * 2 ^ 8) ∧ ¬ ChannelsLegal (0x81 + 0x81 * 2 ^ 8) ∧ ¬ ChannelsLegal 0x80 ∧ ¬ ChannelsLegal 0xC0 := by
  have a : ∀ i, i < 8 → ((0x81 + 0xBF * 2 ^ 8) / 2 ^ (8 * i) % 256 = 0 ∨ (128 < (0x81 + 0xBF * 2 ^ 8) / 2 ^ (8 * i) % 256 ∧ (0x81 + 0xBF * 2 ^ 8) / 2 ^ (8 * i) % 256 < 192)) := by decide
  have b : ∀ i, i < 8 → ∀ j, j < i → (0x81 + 0xBF * 2 ^ 8) / 2 ^ (8 * i) % 256 = 0 ∨ (0x81 + 0xBF * 2 ^ 8) / 2 ^ (8 * j) % 256 ≠ (0x81 + 0xBF * 2 ^ 8) / 2 ^ (8 * i) % 256 := by decide
  refine ⟨fun i _ => ⟨Or.inl (by simp), fun _ _ h => (h (by simp)).elim⟩, fun i h => ⟨a i h, fun j k n => (b i h j k).resolve_left n⟩, fun h => ?_, fun h => ?_, fun h => ?_⟩
  · exact absurd ((h 1 (by decide)).2 0 (by decide) (by decide)) (by decide)
  · exact absurd (h 0 (by decide)).1 (by decide)
  · exact absurd (h 0 (by decide)).1 (by decide)

/-- Two slots of 3 and 2 microseconds; slot 1 lists package 9 on fibre 7, channel 9. -/
def aTable : SlotTab := { epoch := 5, nslot := 2, hdr := ((Tab.empty : Tab SlotHdr).set {} 0 { len := 3, guard := 200 }).set {} 1 { len := 2, guard := 150 },
                          fibres := (Tab.empty : Tab (BitVec 128)).set 0 (128 * 1 + 7) 0x89, start := 1000 }
def toNine : Packet := { aPacket with dpkg := 9 }
def slotted (time : Nat) : State := { some1.updFabric (fun f => { f with active := some aTable, sendq := f.sendq.set [] 9 [toNine, { toNine with fseq := 7 }], slotAt := 4000 }) with time := time, cycle := 3900 }
theorem witness_activates : (some1.updFabric (fun f => { f with shadow := some (aTable, 500) })).fabric.shadow = some (aTable, 500) ∧ (500 : Nat) ≤ (slotted 500).time := ⟨rfl, by decide⟩
/-- In slot 1, from 4000 on, behind its guard: at its first ns, and with one ns left. -/
theorem serving (time left m : Nat) (h : aTable.start ≤ time ∧ time = aTable.start + m * aTable.rotation + aTable.begins 1 + ((aTable.hdr.get {} 1).len * 1000 - left) ∧
    (aTable.hdr.get {} 1).guard + left ≤ (aTable.hdr.get {} 1).len * 1000 ∧ 0 < left) : Serving (slotted time) 9 (64 * 7 + 9) left aTable 1 :=
  ⟨⟨rfl, h.1, by decide, by decide⟩, ⟨m, h.2.1, h.2.2⟩, by decide, (by decide +kernel : aTable.circuitsTo 0 9 1 = [457]), rfl⟩
theorem witness_serving : Serving (slotted 4150) 9 (64 * 7 + 9) 1850 aTable 1 ∧ Serving (slotted 10999) 9 (64 * 7 + 9) 1 aTable 1 :=
  ⟨serving _ _ 0 (by decide), serving _ _ 1 (by decide)⟩
theorem witness_sends : (slotted 4150).fabric.sendq.get [] 9 = toNine :: [{ toNine with fseq := 7 }] ∧ toNine.dpkg = 9 ∧ ((slotted 4150).circuit 457).replay = [] ∧ ((slotted 4150).circuit 457).freeAt ≤ 4150 ∧
    0 < ((slotted 4150).circuit 457).credits ∧ ((slotted 4150).circuit 457).kept.length < 64 ∧ (32 + toNine.payload.length + 7) / 8 ≤ 1850 ∧ toNine.ty ≠ 15 ∧ toNine.at_ + toNine.legOut 457 ≤ (slotted 4150).cycle ∧ 1 < (32 + toNine.payload.length + 7) / 8 := by decide +kernel
/-- An acknowledgement behind a request, which it passes. -/
theorem witness_sends_first : let a : Packet := { toNine with ty := 14, payload := [] }
    ((slotted 4150).updFabric (fun f => { f with sendq := f.sendq.set [] 9 [toNine, a] })).fabric.sendq.get [] 9 = [toNine] ++ a :: [] ∧ a.dpkg = 9 ∧ (32 + a.payload.length + 7) / 8 ≤ 1850 ∧
    a.at_ + a.legOut 457 ≤ (slotted 4150).cycle ∧ ∀ e ∈ [toNine], ¬ (e.ty = 5 ∨ e.ty = 9 ∨ e.ty = 11 ∨ e.ty = 13 ∨ e.ty = 14 ∨ e.ty = 15) := by decide +kernel
theorem test_acknowledgement_first : let a : Packet := { toNine with ty := 14, payload := [] }
    (after (exec (.packetSend 9) ((slotted 4150).updFabric (fun f => { f with sendq := f.sendq.set [] 9 [toNine, a] })))).fabric.sendq.get [] 9 = [toNine] := by decide +kernel
theorem witness_replays : ((slotted 4150).updCircuit 457 (fun x => { x with replay := [toNine] })).circuit 457 = { replay := [toNine] } := by decide +kernel
theorem witness_slot_starts : (slotted 4000).fabric.active = some aTable ∧ (slotted 4000).fabric.slotAt ≤ (slotted 4000).time := by decide +kernel
theorem test_slot_start : (after (exec .slotStart (slotted 4000))).fabric.slotAt = 6000 := by decide +kernel
theorem witness_replay_request : ((some1.updCircuit 457 (fun x => { x with kept := [{ toNine with lseq := 3 }, { toNine with lseq := 4 }] })).circuit (64 * 7 + 9)).kept =
    [{ toNine with lseq := 3 }] ++ { toNine with lseq := 4 } :: [] ∧ ∀ e ∈ [{ toNine with lseq := 3 }], e.lseq ≠ (4 : BitVec 8).toNat := by decide +kernel
/-- A quota at each end of its range, and outside of it. -/
theorem test_quota : [63, 64, 4096, 4097].map (fun n => (after (exec (.reservationReturn 9 1 n) some1)).quotaAt 9) = [1024, 64, 4096, 1024] := by decide +kernel

/-- A packet of package 9 with the FSEQ given, come in; package 9's flow has been seen up to FSEQ 6. -/
def comes (p : Packet) : State := (home aRead none).updFabric (fun f => { f with arrivals := [p] })
theorem arrived_alone {s : State} {p : Packet} (h : s.fabric.arrivals = [p]) (d : (p.damaged = false ∧ p.lseq = s.fabric.expect.get 0 (p.spkg * 2 ^ 16 + p.via)) ∧
    (s.fabric.sendq.get [] p.spkg).length + 2 ≤ 4096 ∧ s.fabric.backlog.get [] p.spkg = []) : Arrived s p [] := ⟨⟨h, fun _ m => nomatch m⟩, d⟩
/-- The first of two, and one that has come in before it and is not yet at its home. -/
theorem witness_comes_first : ComesFirst (some1.updFabric (fun f => { f with arrivals := [aRead, { aRead with at_ := 1 }] })) aRead [{ aRead with at_ := 1 }] :=
  ⟨rfl, fun q m => by rw [List.mem_singleton] at m; subst m; decide⟩
theorem witness_receive : Arrived (comes { aRead with fseq := 7 }) { aRead with fseq := 7 } [] ∧ aRead.ty = 4 ∧ aRead.spkg < 64 ∧ (comes aRead).windowOf (flowKey aRead) = some aWindow ∧ aWindow.epoch = aRead.epoch ∧
    aWindow.high = some 6 ∧ aRead.fseq ∈ aWindow.seen ∧ (6 + 2 ^ 32 - aRead.fseq) % 2 ^ 32 ≤ 1023 ∧ 0 < aWindow.next ∧ aWindow.next < 2 ^ 32 ∧
    upTo aRead.oldest aWindow.next ∧ upTo aWindow.next 7 :=
  ⟨arrived_alone rfl (by decide), by decide, by decide, by decide, by decide, by decide, by decide, by decide, by decide, by decide, by unfold upTo; decide, by unfold upTo; decide⟩
/-- The source of a packet has given up FSEQs 6 and 7 of its flow: the window waits for them no longer. -/
theorem test_given_up : (aWindow.raise 8).next = 8 ∧ (aWindow.raise 6).next = 6 := by decide
theorem witness_receive_damaged : (comes { aRead with damaged := true }).fabric.arrivals = [{ aRead with damaged := true }] ∧ Arrived (comes { aRead with ty := 0 }) { aRead with ty := 0 } [] ∧
    Arrived (comes { aRead with ty := 16 }) { aRead with ty := 16 } [] := ⟨rfl, arrived_alone rfl (by decide), arrived_alone rfl (by decide)⟩
theorem test_undefined_packet : (after (exec .packetReceive (comes { aRead with ty := 16 }))).hub.fabdrop = 1 := by decide +kernel

/-- A store to package 9 waits for its acknowledgement, with its timer run out; the acknowledgement of it. -/
def unacked (tries : Nat) : State := { ((some1.updFabric (fun f => { f with active := some aTable, flows := [(flowKey toNine, { seq := 7, unacked := [{ p := toNine, tries := tries, sentAt := some 0 }] })] })).updCore 0 id) with time := 200000 }
def anAck : Packet := { aRead with ty := 14, token := 0, fseq := 6, epoch := 0, sfac := 0, score := 0, sunit := 0, asid := 0 }
theorem witness_ack : Arrived ((unacked 0).updFabric (fun f => { f with arrivals := [anAck] })) anAck [] ∧ anAck.ty = 14 ∧ anAck.token = 0 ∧
    (unacked 0).flow (flowKey toNine) = { seq := 7, unacked := [{ p := toNine, tries := 0, sentAt := some 0 }] } ∧ toNine.token = 0 ∧ toNine.fseq < 2 ^ 32 ∧ anAck.fseq < 2 ^ 32 :=
  ⟨arrived_alone rfl (by decide), by decide, by decide, by decide, by decide, by decide, by decide⟩
theorem witness_timeout (tries : Nat) : (unacked tries).fabric.flows = [(flowKey toNine, { seq := 7, unacked := [{ p := toNine, tries := tries, sentAt := some 0 }] })] ∧ flowKey toNine % 64 = 9 ∧ toNine.dpkg = 9 ∧
    0 + 20000 ≤ (unacked 0).servedNs 9 ∧ toNine.ty = 1 ∧ toNine.token = 0 ∧ toNine.sfac < 8 ∧ toNine.score < 192 ∧ toNine.sunit < 4 ∧ ((unacked 0).core 0).epoch.get 0 0 = toNine.epoch :=
  ⟨rfl, by decide +kernel, by decide, by decide +kernel, by decide, by decide, by decide, by decide, by decide, by decide⟩

/-- Package 9 asks for the summary of batch tag 2; it answers for batch 2 of quadrant 1 of core 5 of facet 2, which waits for packages 9 and 10. -/
def asks : State := some1.updFabric (fun f => { f with questions := [aRead], windows := [aWindow] })
theorem witness_summary : asks.fabric.questions = [aRead] ∧ aRead.spkg < 64 ∧ asks.windowOf (flowKey aRead) = some aWindow ∧ aWindow.epoch = aRead.epoch ∧ aWindow.next = aRead.fseq ∧ aWindow.applied = [] ∧
    aRead.fseq < 2 ^ 32 - 1 ∧ ∀ f, f < 9 → (asks.facet f).reqQ = [] := ⟨rfl, by decide, by decide, by decide, by decide, by decide, by decide, by decide⟩
def anAnswer : Packet := { aRead with ty := 11, payload := lowBytes 2 2 ++ lowBytes 100 8 }
def answers : State := (some1.updCore 389 (fun k => ({ k with epoch := k.epoch.set 0 1 3 }).setQuad 1 { (k.quad 1) with batches := (k.quad 1).batches.set {} 2 { st := .closing, waiting := [9, 10], done := 4 } })).updFabric
  (fun f => { f with arrivals := [anAnswer] })
theorem witness_summary_reply : Arrived answers anAnswer [] ∧ anAnswer.ty = 11 ∧ anAnswer.payload = lowBytes 2 2 ++ lowBytes 100 8 ∧ anAnswer.sfac < 8 ∧ anAnswer.score < 192 ∧ anAnswer.sunit < 4 ∧
    (answers.core 389).epoch.get 0 1 = anAnswer.epoch ∧ ((answers.quadOf 389 1).batches.get {} 2).st = .closing ∧ anAnswer.spkg ∈ ((answers.quadOf 389 1).batches.get {} 2).waiting ∧
    ((answers.quadOf 389 1).batches.get {} 2).done + 100 ≤ 0xFFFFF := ⟨arrived_alone rfl (by decide), by decide, rfl, by decide, by decide, by decide, by decide, by decide, by decide, by decide⟩
theorem test_summary_reply : ((after (exec .summaryReply answers)).quadOf 389 1).batches.get {} 2 = { st := .closing, waiting := [10], err := 2, badPeers := 512, done := 104 } := by decide +kernel

/-- The circuit of a packet of package 9 expects LSEQ 5: a damaged packet 5; 4, which it has taken; 7, which comes too early. -/
def expects (p : Packet) : State := (comes p).updFabric (fun f => { f with expect := f.expect.set 0 (9 * 2 ^ 16) 5 })
theorem witness_link : (∀ p ∈ [{ aRead with lseq := 5, damaged := true }, { aRead with lseq := 4 }, { aRead with lseq := 7 }], ComesFirst (expects p) p [] ∧ RoomFor (expects p) p.spkg 1 ∧ p.ty ≠ 15 ∧
      (expects p).fabric.expect.get 0 (p.spkg * 2 ^ 16 + p.via) = 5 ∧ p.lseq < 256) ∧ (5 + 256 - 4) % 256 ≤ 64 ∧ (5 + 256 - 7) % 256 > 64 ∧ (5 + 256 - 197) % 256 = 64 ∧ (5 + 256 - 196) % 256 > 64 := by
  refine ⟨?_, by decide⟩
  intro p m
  simp only [List.mem_cons, List.not_mem_nil, or_false] at m
  rcases m with rfl | rfl | rfl <;> exact ⟨⟨rfl, fun _ m => nomatch m⟩, ⟨by decide, by decide⟩, by decide, by decide, by decide⟩
theorem test_link : ([{ aRead with lseq := 5, damaged := true }, { aRead with lseq := 4 }, { aRead with lseq := 7 }].map (fun p => ((after (exec .packetReceive (expects p))).fabric.sendq.get [] 9).map (fun a => (a.aux, a.payload)))) =
    [[(1, [0, 0, 5, 0])], [(0, [0, 0, 4, 0])], [(1, [0, 0, 5, 0])]] := by decide +kernel
theorem witness_room : NothingWaitsFor (slotted 4150) 9 ∧ NothingWaitsFor (unacked 0) 9 ∧ RoomFor (unacked 0) 9 1 ∧ RoomFor asks 9 1 ∧ NoEpochDue (unacked 0) ∧
    NothingWaitsFor ((unacked 0).updFabric (fun f => { f with arrivals := [anAck] })) 9 := by unfold NothingWaitsFor RoomFor NoEpochDue; decide +kernel
theorem witness_seen_failed : aWindow.failed = [] ∧ aRead.sunit < 4 := by decide

/-! ### Tasks: traps of engines, stops, saves, restores -/

def withTrap : State := withQuad (fun q => { q with trapReqs := [{ cause := 0x17, e0 := 1, e1 := 2, e2 := 3, e3 := 4 }], wait := some { since := 0, upto := 1, limit := 8, e0 := 1, e1 := 2, e2 := 3, e3 := 4 } })
theorem witness_engine_trap : CanTrapAt withTrap 0 0 ∧ (withTrap.quadOf 0 0).trapReqs = { cause := 0x17, e0 := 1, e1 := 2, e2 := 3, e3 := 4 } :: [] ∧
    ∃ x, (withTrap.quadOf 0 0).wait = some x ∧ x.limit ≠ 0 ∧ x.since + x.limit ≤ (withTrap.quadOf 0 0).cyc :=
  ⟨by unfold CanTrapAt; decide, rfl, _, rfl, by decide, by decide⟩
def watched : State := { some1.updCtx 0 (fun x => { x with wdoglim := 2 }) with cycle := 1880 }
theorem witness_watchdog : (watched.core 0).task = some 1 ∧ (watched.task 1).st = .running ∧ (watched.task 1).stage = 0 ∧ (watched.quadOf 0 0).idle = false ∧ (watched.quadOf 0 0).ended = false ∧
    (watched.ctx (watched.task 1).ctx).wdoglim = 2 ∧ (watched.quadOf 0 0).doneAt + 940 * 2 ≤ watched.cycle := by decide

theorem witness_stops : (some1.core 0).task = some 1 ∧ TaskRuns some1 1 := ⟨by decide, by unfold TaskRuns; decide⟩
/-- A load whose value comes at cycle 40, and one whose value has come. -/
theorem witness_stops_flying : (let s := withQuad (fun q => { q with flying := [({ op := .load 2 true (.g 7) false, addr := 0x03C0000000000040, rel := 4, wordAt := 0, pat := 0, since := 0 }, 40)] })
    TaskRuns s 1 ∧ ∃ x ∈ (s.quadOf 0 0).flying, s.cycle < x.2) ∧ ∀ x ∈ (some1.quadOf 0 0).flying, x.2 ≤ some1.cycle := by unfold TaskRuns; decide
theorem witness_stops_pull : ((withQuad (fun q => { q with memStall := some 3 })).quadOf 0 0).memStall ≠ none := by decide
/-- A gather whose lanes 30 and 31 have still to come. -/
def gathering : State := withQuad (fun q => { q with memQ := [({ op := .vgath 1 0 2 false, addr := 0x03C0000000000040, rel := 4, wordAt := 0, pat := 0, since := 0 } : MemEntry)]
                                                     pend := (List.range 2).map (fun l => ({ eng := 1, dst := .v 1, latch := 4, val := 0, mask := (2 ^ 32 - 1) * 2 ^ (32 * (30 + l)), land := 50 } : Pend)) })
theorem witness_stops_gather : TaskRuns gathering 1 ∧ (gathering.quadOf 0 0).idle = false ∧ (gathering.quadOf 0 0).ended = false ∧ (gathering.quadOf 0 0).flying = [] ∧
    (∃ e, (gathering.quadOf 0 0).memQ = [e] ∧ ∃ d x z g, e.op = .vgath d x z g ∧ ∃ p ∈ (gathering.quadOf 0 0).pend, p.eng = 1 ∧ p.dst = .v d ∧ gathering.cycle < p.land ∧ p.mask = (2 ^ 32 - 1) * 2 ^ (32 * 31)) := by
  refine ⟨by unfold TaskRuns; decide +kernel, by decide +kernel, by decide +kernel, by decide +kernel, _, rfl, 1, 0, 2, false, rfl, ?_⟩
  decide +kernel
theorem test_stops_gather : ((after (exec (.taskSuspend 0 .page) gathering)).quadOf 0 0).prog2 = 30 ∧ ((after (exec (.taskSuspend 0 .page) gathering)).quadOf 0 0).pend = [] := by decide +kernel
/-- Past its budget, with a preload. -/
def overBudget : State := { (some1.updTask 1 (fun x => { x with budget := 1 })).updCore 0 (fun k => { k with preload := some 2, since := 0 }) with cycle := 1025 }
theorem witness_budget : (overBudget.core 0).preload ≠ none ∧ (overBudget.task 1).budget ≠ 0 ∧ (overBudget.core 0).since + 1024 * (overBudget.task 1).budget < overBudget.cycle ∧ TaskRuns overBudget 1 ∧
    (overBudget.launch (overBudget.task 1).launch).use = .dynamic := ⟨by decide, by decide, by decide, by unfold TaskRuns; decide, by decide⟩
/-- The one quadrant at a switch point, and in a wait that may yield. -/
def atSwitch : State := withQuad (fun q => { q with cond := some .free })
theorem witness_switch : PlainOn atSwitch 1 0 ∧ (∀ k, k < 4 → ((atSwitch.core 0).quad k).memQ = [] ∧ ((atSwitch.core 0).quad k).vecQ = [] ∧ ((atSwitch.core 0).quad k).trapReqs = [] ∧ ((atSwitch.core 0).quad k).trapWait = none) ∧
    (∃ k, k < 4 ∧ ((atSwitch.core 0).quad k).idle = false ∧ ((atSwitch.core 0).quad k).cond ≠ none) ∧
    ∀ k, k < 4 → ((atSwitch.core 0).quad k).idle = true ∨ ((atSwitch.core 0).quad k).cond = some .free :=
  ⟨by unfold PlainOn; decide, by decide, ⟨0, by decide, by decide, by decide⟩, by decide⟩
def yielding : State := { (some1.updTask 1 (fun x => { x with ythr := 1 })).updMe (fun q => { q with wait := some { since := 0, upto := 1, limit := 0, e0 := 0, e1 := 0, e2 := 0, e3 := 0 }, inst := (Sys2Proof.encode (.sigw 4 1 0)).getD 0 0 }) with cycle := 64 }
theorem witness_yield : PlainOn yielding 1 0 ∧ (yielding.task 1).ythr ≠ 0 ∧ (∃ k, k < 4 ∧ ((yielding.core 0).quad k).idle = false ∧ ((yielding.core 0).quad k).mayYield = true) ∧
    (∀ k, k < 4 → ((yielding.core 0).quad k).cond = none ∧ (((yielding.core 0).quad k).idle = true ∨ k = 0)) ∧ (∃ w, (yielding.core 0).q0.wait = some w ∧ w.since + 64 * (yielding.task 1).ythr ≤ yielding.cycle) :=
  ⟨by unfold PlainOn; decide, by decide, ⟨0, by decide, by decide, by decide⟩, by decide, _, rfl, by decide⟩

theorem wf_some1 : some1.tasks.wf {} = true ∧ some1.launches.wf {} = true := by decide
theorem witness_preempt : (∀ k, (some1.core k).preload = none) ∧ (∀ l, (some1.launch l).ctx = 0 → NoRecording some1 l) ∧ (∀ m, (some1.task m).ctx = 0 → (some1.task m).st = .running → TaskRuns some1 m) := by
  refine ⟨fun k => ?_, fun l _ a h => ?_, fun m _ h => ?_⟩
  · show (Tab.get {} some1.cores k).preload = none
    cases k with
    | zero => decide
    | succ k => rfl
  · exact nomatch (show LocusUse.dynamic = LocusUse.recording a from h)
  · by_cases hm : m = 1
    · subst hm; unfold TaskRuns; decide
    · have : some1.task m = {} := by
        show Tab.get {} some1.tasks m = {}
        match m, hm with
        | 0, _ => rfl
        | 1, hm => exact absurd rfl hm
        | k + 2, _ => rfl
      rw [this] at h; cases h
theorem witness_kill : (1 : Nat) ≠ 0 ∧ (some1.task 1).st ≠ .done ∧ (some1.task 1).st ≠ .killed ∧ (some1.launch (some1.task 1).launch).use = .dynamic ∧ (∀ c ∈ (some1.task 1).cores, (some1.core c).preload = none) ∧
    (some1.ctx (some1.task 1).ctx).preReq = false := by decide +kernel
theorem test_kill : ((after (exec (.taskKill 1) some1)).task 1).st = .killed ∧ ((after (exec (.taskKill 1) some1)).core 0).task = none := by decide +kernel

/-- A page of 1 GB at frame 0x40000000, in every slice. -/
def pages (asid : Nat) : List TlbEntry := (List.range 4).map (fun k => { asid := asid, page := 0, shift := 30, entry := pte (0x40000000 + 0x1B), slice := k })
/-- The frame of task 1 is number 2 of its context's table at offset 0x1000 of facet 3, in a cached page of 1 GB. -/
def framed (stage cause : Nat) (wait : WaitFor) : State := { ((some1.updFacet 3 (fun x => { x with tlb := pages 0 })).updCtx 0
  (fun x => { x with fpbase := BitVec.ofNat 64 (3 * 2 ^ 54 + 0x1000), fpsz := 0xB0000, fpcnt := 4 })).updTask 1 (fun x => { x with frames := [2], stage := stage, cause := cause, waitFor := wait }) with cycle := 500 }
theorem leaf (s : State) (o : Nat) (need : Need) (h : need = .load ∨ need = .store) : s.checkLeaf 3 o (pte (0x40000000 + 0x1B)) 30 false need = .at (stackKey 3 0x40000000 + o % 2 ^ 30) := by
  rcases h with rfl | rfl <;> rfl
theorem found {s : State} {asid o : Nat} (t : (s.facet 3).tlb = pages asid) (b : o < 2 ^ 30) : s.tlbFind 3 asid o = some { asid := asid, page := 0, shift := 30, entry := pte (0x40000000 + 0x1B), slice := tlbSlice 3 asid o } := by
  have h : tlbSlice 3 asid o < 4 := Nat.xor_lt_two_pow (n := 2) (Nat.mod_lt _ (by decide)) (Nat.mod_lt _ (by decide))
  rw [State.tlbFind, t]
  generalize tlbSlice 3 asid o = v at h ⊢
  match v, h with
  | 0, _ | 1, _ | 2, _ | 3, _ => simp [pages, List.range, List.range.loop]; omega
/-- Every byte of a span that the page of these tests maps leads where R122 says. -/
theorem mapped_of {s : State} {a : Word} {n key : Nat} (asid : Nat) {ns : Bool} (h : s.pkg = 0 ∧ homeOf a = 3 ∧ pkgOf a = 0 ∧ ns = false ∧
    (s.facet 3).tlb = pages asid ∧ (s.facet 3).moving = none ∧ (s.facet 3).links = Tab.empty ∧ (s.facet 3).pwinA = Tab.empty ∧
    key = stackKey 3 0x40000000 + offOf a ∧ offOf a + n ≤ 2 ^ 30) : Mapped s asid ns a n key := by
  obtain ⟨p, f, g, w, t, m, l, d, k, b⟩ := h
  have k0 : stackKey 3 0x40000000 + 0x40000000 ≤ 2 ^ 52 ∧ stackKey 3 0x40000000 % 2 ^ 48 = 0x40000000 ∧ stackKey 3 0x40000000 = 3 * 2 ^ 48 + 0x40000000 := by decide
  have sb : stackBytes = 96000000000 := rfl
  rw [Mapped, f, w]
  refine ⟨by omega, by omega, by omega, by omega, by omega, m, l, d, fun i hi => ⟨_, found t (by omega), ?_, ?_⟩⟩
  · rw [leaf _ _ _ (Or.inl rfl), Nat.mod_eq_of_lt (by omega), k, Nat.add_assoc]
  · rw [leaf _ _ _ (Or.inr rfl), Nat.mod_eq_of_lt (by omega), k, Nat.add_assoc]
def keyOf (o : Nat) : Nat := stackKey 3 0x40000000 + o
def frameAddr : Word := BitVec.ofNat 64 (3 * 2 ^ 54 + 0x1000 + 2 * 0xB0000)
theorem witness_frame (stage cause : Nat) (wait : WaitFor) : FrameAt (framed stage cause wait) 1 0 (keyOf (0x1000 + 2 * 0xB0000)) :=
  ⟨2, ⟨by decide, by decide, rfl, rfl, rfl, rfl⟩, rfl, (by decide : 0x29000 ≤ 0xB0000), frameAddr,
    (by decide : frameAddr = BitVec.ofNat 64 (3 * 2 ^ 54 + 0x1000) + BitVec.ofNat 64 (0xB0000 * 2)),
    mapped_of 0 ⟨rfl, by decide, by decide, (by decide : (false || (0 : Word).getLsbD (homeOf frameAddr)) = false), rfl, rfl, rfl, rfl, by decide, (by decide : offOf frameAddr + 0xB0000 ≤ 2 ^ 30)⟩⟩
theorem witness_kill_frame : (∀ c ∈ ((framed 0 0 .none).task 1).cores, ((framed 0 0 .none).core c).preload = none) ∧ ((framed 0 0 .none).ctx ((framed 0 0 .none).task 1).ctx).preReq = false ∧
    ((framed 0 0 .none).task 1).st = .running ∧ ((framed 0 0 .none).launch ((framed 0 0 .none).task 1).launch).use = .dynamic ∧ (framed 0 0 .none).tasks.wf {} = true ∧ (framed 0 0 .none).launches.wf {} = true := by decide +kernel
theorem atRest_framed (u : Nat) (stage cause : Nat) (wait : WaitFor) : AtRest (((framed stage cause wait).core 0).quad u) := by
  have h : ∀ u, u < 4 → AtRest (((framed 0 0 .none).core 0).quad u) := by unfold AtRest; decide +kernel
  have e : ∀ u, ((framed stage cause wait).core 0).quad u = ((framed 0 0 .none).core 0).quad u := fun _ => rfl
  rw [e]
  match u with
  | 0 => exact h 0 (by decide)
  | 1 => exact h 1 (by decide)
  | 2 => exact h 2 (by decide)
  | n + 3 => exact h 3 (by decide)
/-- The three states of a save and a restore; a save for a page that has come, one for a page that has not, a switch of its own. -/
theorem witness_save : CanSave (framed 1 1 (.page 3 0 5)) 0 ∧ ((framed 1 1 (.page 3 0 5)).task 1).stage = 1 ∧ CanSave (framed 2 0 .none) 0 ∧ ((framed 2 0 .none).task 1).stage = 2 ∧
    ((framed 2 0 .none).task 1).st = .running ∧ ((framed 2 0 .none).core 0).preload = none ∧ ((framed 2 0 .none).ctx ((framed 2 0 .none).task 1).ctx).preReq = false ∧
    (∀ f k, ((framed 2 1 (.page 3 0 5)).task 1).waitFor ≠ .tile f k) ∧ (framed 2 0 .none).tailNeeds 1 = [] ∧ ((framed 2 0 .none).core 0).mq = [] :=
  ⟨⟨rfl, rfl, rfl, fun u _ => atRest_framed u _ _ _⟩, rfl, ⟨rfl, rfl, rfl, fun u _ => atRest_framed u _ _ _⟩, rfl, rfl, rfl, rfl, fun f k h => (nomatch (show WaitFor.page 3 0 5 = .tile f k from h)), by decide +kernel, rfl⟩
theorem witness_restore : ((framed 3 0 .none).task 1).stage = 3 ∧ ((framed 3 0 .none).task 1).tails.get 0 0 = 0 ∧ ((framed 3 0 .none).ctx ((framed 3 0 .none).task 1).ctx).preReq = false ∧
    (((framed 3 0 .none).task 1).images.get {} 0).dictFrom = 0 ∧ ∀ ch, ((((framed 3 0 .none).task 1).images.get {} 0).chans.get {} ch).q = [] := ⟨rfl, rfl, rfl, rfl, fun _ => rfl⟩
theorem test_save_header : (after (exec (.contextSave 0) (framed 1 1 (.page 3 0 5)))).bytesAt (keyOf (0x1000 + 2 * 0xB0000)) 1 = [2] := by decide +kernel

/-- Task 1 is away with core 0; its one quadrant waits for `c`; tags 3 and 4 are set. -/
def away (c : Cond) : State := (some1.updCore 0 (fun _ => {})).updTask 1 (fun x => { x with st := .away, images := x.images.set {} 0 { (some1.core 0) with tagmap := 0x18, q0 := { some1.me with cond := some c } } })
theorem witness_await_noted : ((away .free).task 1).st = .away ∧ ((away .free).task 1).cores = [0] ∧ ((away .free).task 1).walks = [] ∧ ((away .free).core 0).task ≠ some 1 ∧ 0 ∈ ((away .free).task 1).images.keys ∧
    (∀ u, u < 4 → ((((away (.tags 8)).task 1).images.get {} 0).quad u).idle = false → ((((away (.tags 8)).task 1).images.get {} 0).quad u).cond = some (.tags 8)) ∧
    (((away (.tags 8)).task 1).images.get {} 0).tagmap &&& 8 = 8 ∧ ((((away (.tags 8)).task 1).images.get {} 0).quad 0).ended = false ∧
    (((away (.tags 5)).task 1).images.get {} 0).tagmap &&& 5 ≠ 5 ∧ ((((away (.tags 5)).task 1).images.get {} 0).quad 0).condMet = false ∧
    ∀ k, k < 4 → k ≠ 0 → ((((away (.tags 5)).task 1).images.get {} 0).quad k).idle = true := by decide +kernel
/-- The condition on a value has held: its watch is met. -/
def awayEq : State := { away (.eq (BitVec.ofNat 64 (3 * 2 ^ 54 + 64)) 5) with watches := [{ who := (1, 2 ^ 16), key := stackKey 3 64, cond := 0, b := 5, met := true }] }
theorem witness_await_eq : ((((awayEq.task 1).images.get {} 0).quad 0).cond = some (.eq (BitVec.ofNat 64 (3 * 2 ^ 54 + 64)) 5)) ∧ pkgOf (BitVec.ofNat 64 (3 * 2 ^ 54 + 64)) = awayEq.pkg ∧
    ∃ y ∈ awayEq.watches, y.who = (1, 2 ^ 16 + 0) ∧ y.met = true := by decide +kernel
theorem test_await_noted : ((after (exec (.awaitConditionMet 1) (away .free))).task 1).st = .restorable ∧ ((after (exec (.awaitConditionMet 1) (away (.tags 5)))).task 1).st = .away := by decide +kernel

/-! ### Submission queues, packets, launches -/

/-- Context 0 with its frame table, spawn queue and locus table in the page of these tests; queue 5 with one packet at 0x3000, `v`. -/
def submitted (v : Nat) (running : List (Nat × Nat)) (ticks : List Tick) : State :=
  ({ (((((framed 0 0 .none).updCtx 0 (fun x => { x with spawnEn := true, spawnQ := 5, locbase := BitVec.ofNat 64 (3 * 2 ^ 54 + 0x200000) })).updCore 0
    (fun k => { k with banks := k.banks.set {} 0 { st := .held, task := 1 } })).setBytes (keyOf 0x3000) (lowBytes v 64))) with
    queues := (Tab.empty : Tab SubQ).set {} 5 { base := BitVec.ofNat 64 (3 * 2 ^ 54 + 0x3000), log2n := 4, widx := 17, ridx := 16, en := true, running := running, ticks := ticks }, time := 12345678 })

theorem witness_guard : Free some1 (useOf [1] 0 4) 7 := free_of (by decide)
theorem witness_spawn : Free (submitted 2 [] []) (useOf [1, 2] 7 4) 7 ∧ (submitted 2 [] []).me.ask = none ∧ (submitted 2 [] []).me.answer = none ∧
    (submitted 2 [] []).ctx 0 = { (some1.ctx 0) with fpbase := BitVec.ofNat 64 (3 * 2 ^ 54 + 0x1000), fpsz := 0xB0000, fpcnt := 4, spawnEn := true, spawnQ := 5, locbase := BitVec.ofNat 64 (3 * 2 ^ 54 + 0x200000) } ∧
    (some1.ctx 0).spawnEn = false ∧ ((submitted 2 [] []).me.begin (useOf [1, 2] 7 4)).memQ = [] ∧ NothingPosted (submitted 2 [] []) ∧
    (17 + 2 ^ 32 - 16) % 2 ^ 32 < 2 ^ 4 ∧ 2 ^ 4 ≤ (32 + 2 ^ 32 - 16) % 2 ^ 32 ∧
    Mapped (submitted 2 [] []) 0 ((submitted 2 [] []).ctx 0).ns (BitVec.ofNat 64 (3 * 2 ^ 54 + 0x3000) + BitVec.ofNat 64 (64 * (17 % 2 ^ 4))) 64 (keyOf 0x3040) := by
  refine ⟨free_of (by decide +kernel), by decide +kernel, by decide +kernel, by decide +kernel, by decide +kernel, by decide +kernel, by unfold NothingPosted; decide +kernel, by decide, by decide, ?_⟩
  exact mapped_of 0 ⟨by decide +kernel, by decide, by decide, by decide +kernel, by decide +kernel, by decide +kernel, by decide +kernel, by decide +kernel, by decide, by decide⟩
/-- Hart 2 at its port with QSUBMIT: x5 names queue 5, x6 is the index; QSASID is enabled for ASID 0. -/
def atPort (w : Word) : State := { submitted 2 [] [] with harts := (Tab.empty : Tab Hart).set {} 2 { x := ((Tab.empty : Tab Word).set 0 5 5).set 0 6 w, qsasid := 0x10000, port := some 0x0062800B } }
theorem witness_qsubmit : (atPort 18).harts.wf {} = true ∧ ((atPort 18).hart 2).port ≠ none ∧ (∀ j, j ≠ 2 → ((atPort 18).hart j).port = none) ∧
    ((5 : Word).toNat < 1024 ∧ ((atPort 18).subq 5).en = true ∧ ((atPort 18).hart 2).qsasid.getLsbD 16 = true ∧ ((atPort 18).hart 2).qsasid.toNat % 2 ^ 16 = ((atPort 18).subq 5).asid) ∧
    IndexOk ((atPort 18).subq 5) 18 ∧ IndexOk ((atPort 18).subq 5) 32 ∧ ¬ IndexOk ((atPort 18).subq 5) 33 := by
  refine ⟨by decide +kernel, by decide +kernel, fun j h => ?_, by decide +kernel, by unfold IndexOk; decide +kernel, by unfold IndexOk; decide +kernel, by unfold IndexOk; decide +kernel⟩
  show (Tab.get {} (atPort 18).harts j).port = none
  match j, h with
  | 0, _ => rfl
  | 1, _ => rfl
  | 2, h => exact absurd rfl h
  | k + 3, _ => rfl
theorem test_qsubmit : ((after (exec (.qsubmit 6 5) (atPort 18))).subq 5).widx = 18 ∧ ((after (exec (.qsubmit 6 5) (atPort 33))).hart 2).illegal = true := by decide +kernel
theorem test_spawn : (let t := after (exec (.spawn 7 1 2) (submitted 2 [] [])); (t.me.gr 7, (t.subq 5).widx, t.bytesAt (keyOf 0x3040) 1)) = (0, 18, [1]) := by decide +kernel

def queueAddr : Word := BitVec.ofNat 64 (3 * 2 ^ 54 + 0x3000)
theorem nextPacket (v : Nat) (running : List (Nat × Nat)) (ticks : List Tick) (h : ofBytes (memBytes (submitted v running ticks) (keyOf 0x3000) 64) = v ∧
    ((submitted v running ticks).subq 5) = { base := BitVec.ofNat 64 (3 * 2 ^ 54 + 0x3000), log2n := 4, widx := 17, ridx := 16, en := true, running := running, ticks := ticks } ∧
    (submitted v running ticks).pkg = 0 ∧ ((submitted v running ticks).hub.feCache = [] ∧ (submitted v running ticks).hub.fePorts = [] ∧ (submitted v running ticks).hub.secmap = 0) ∧ ((submitted v running ticks).facet 3).tlb = pages 0 ∧
    ((submitted v running ticks).facet 3).moving = none ∧ ((submitted v running ticks).facet 3).links = Tab.empty ∧ ((submitted v running ticks).facet 3).pwinA = Tab.empty) :
    NextPacket (submitted v running ticks) 5 v := by
  obtain ⟨a, b, c, d, e, f, g, i⟩ := h
  rw [NextPacket, b]
  refine ⟨rfl, rfl, fun h => absurd (show (17 : Nat) = 16 from h) (by decide), d.1, d.2.1, queueAddr, keyOf 0x3000, ?_, mapped_of 0 ⟨c, by decide, by decide, by rw [d.2.2]; rfl, e, f, g, i, by decide, by decide⟩, a.symm⟩
  exact (by decide : queueAddr = BitVec.ofNat 64 (3 * 2 ^ 54 + 0x3000) + BitVec.ofNat 64 (64 * (16 % 2 ^ 4)))
/-- A FENCE; with BAR behind a packet that runs; an undefined packet; a LAUNCH with a period. -/
theorem witness_packets : NextPacket (submitted 2 [] []) 5 2 ∧ NextPacket (submitted (2 + 2 ^ 8) [(15, 3)] []) 5 (2 + 2 ^ 8) ∧ NextPacket (submitted 3 [] []) 5 3 ∧ NextPacket (submitted (1 + 2 ^ 448 * 33) [] []) 5 (1 + 2 ^ 448 * 33) := by
  refine ⟨nextPacket _ _ _ ?_, nextPacket _ _ _ ?_, nextPacket _ _ _ ?_, nextPacket _ _ _ ?_⟩ <;> decide +kernel
theorem test_fence : ((after (exec (.packetStart 5) (submitted 2 [] []))).subq 5).ridx = 17 ∧ ((after (exec (.packetStart 5) (submitted 3 [] []))).subq 5).errCode = 1 := by decide +kernel

/-- A graph of one node at 0x8000 with four instances on facet 0, for the kernel at 0x9000; the packet that launches it. -/
def aLaunch : Nat := 1 + 2 ^ 128 * (3 * 2 ^ 54 + 0x8000)
def graphed (running : List (Nat × Nat)) (ticks : List Tick) : State := ((submitted aLaunch running ticks).setBytes (keyOf 0x8000) (lowBytes (1 + 2 ^ 198) 64)).setBytes (keyOf 0x8040)
  (lowBytes (2 ^ 512 * (3 * 2 ^ 54 + 0x9000) + 2 ^ 352 * 4 + 2 ^ 384 + 2 ^ 416 + 2 ^ 468 + ((List.range 8).map (fun j => 4 * 2 ^ (33 * (j + 1)))).sum) 128)

def decReadOnly (s u : State) : Decidable (ReadOnly s u) := by unfold ReadOnly; exact inferInstance
/-- Do a reading's state and launch meet what GraphRead asks of them, on facet 0? -/
def goodGraph (s : State) : State × Except FeErr Graph → Bool
  | (u, .ok (.good l none false)) => @decide _ (decReadOnly s u) && decide (s.hub.tree = [] ∧ l.use = .dynamic ∧ l.active = true ∧ l.failed = false ∧ l.locus = [] ∧ l.gw = Tab.empty ∧ l.nn = 1 ∧ (l.nodes.get {} 0).pred = 0 ∧ l.ctx = 0 ∧
      (sliceOf l (l.nodes.get {} 0) 0).1 < (sliceOf l (l.nodes.get {} 0) 0).2)
  | _ => false
theorem graphRead_of (s : State) (k pkt v : Nat) (tick : Bool) (h : s.ctxOf (s.subq k).asid = some 0)
    (g : goodGraph s (s.fe (readGraph { f := 8, asid := (s.subq k).asid, ns := (s.subq k).ns, work := 4 * k + one tick } s (packetLaunch 0 k pkt v tick) (BitVec.ofNat 64 (v / 2 ^ 128 % 2 ^ 64)))) = true) (b : (s.ctx 0).barred = []) :
    ∃ u l, GraphRead s k pkt v tick u l := by
  generalize hx : s.fe (readGraph { f := 8, asid := (s.subq k).asid, ns := (s.subq k).ns, work := 4 * k + one tick } s (packetLaunch 0 k pkt v tick) (BitVec.ofNat 64 (v / 2 ^ 128 % 2 ^ 64))) = x at g
  match x, g with
  | (u, .ok (.good l none false)), g =>
    simp only [goodGraph, Bool.and_eq_true] at g
    obtain ⟨r, a0, a1, a2, a3, a4, a5, a6, a7, a8, a9⟩ := And.intro (@of_decide_eq_true _ (decReadOnly s u) g.1) (of_decide_eq_true g.2)
    refine ⟨u, l, a0, 0, h, r, hx, a1, a2, a3, a4, a5, a6, a7, a8, ⟨0, by decide, a9⟩, fun f _ _ => ⟨192 * f, Nat.le_refl _, by omega, by rw [b]; exact List.not_mem_nil⟩⟩
theorem witness_graph : ∃ u l, GraphRead (graphed [] []) 5 16 aLaunch false u l := graphRead_of _ _ _ _ _ (by decide +kernel) (by decide +kernel) (by decide +kernel)
/-- The packet of that launch is read as the next of its queue, and leaves a state that only the front end's cache differs in; its graph is read there. -/
def packetRead : State × Except FeErr (List (BitVec 8)) :=
  ({ graphed [] [] with hub := { (graphed [] []).hub with lastQ := 5 } } : State).fe (feBytes { f := 8, asid := 0, ns := false, work := 20 } (BitVec.ofNat 64 (3 * 2 ^ 54 + 0x3000) + BitVec.ofNat 64 (64 * (16 % 2 ^ 4))) 64)
def readPacket : State := packetRead.1
def readsPacket : Bool := match packetRead.2 with | .ok b => decide (b = lowBytes aLaunch 64) | .error _ => false
theorem witness_launch : packetRead = (readPacket, .ok (lowBytes aLaunch 64)) ∧ ReadOnly (graphed [] []) readPacket ∧ ∃ u l, GraphRead readPacket 5 16 aLaunch false u l := by
  refine ⟨?_, @of_decide_eq_true _ (decReadOnly _ _) (by decide +kernel), graphRead_of _ _ _ _ _ (by decide +kernel) (by decide +kernel) (by decide +kernel)⟩
  have h : readsPacket = true := by decide +kernel
  have e : packetRead.2 = .ok (lowBytes aLaunch 64) := by
    revert h; unfold readsPacket
    cases packetRead.2 with
    | error _ => exact fun h => nomatch h
    | ok b => exact fun h => by rw [of_decide_eq_true h]
  exact Prod.ext rfl e
theorem test_launch : (let t := after (exec (.packetStart 5) (graphed [] [])); ((t.subq 5).ridx, (t.subq 5).running, (t.launch 1).active)) = (17, [(16, 1)], true) := by decide +kernel
/-- A tick that is due; its last launch runs, or has ended. -/
def ticking (running : Option Nat) : State := graphed [] [{ pkt := 15, packet := aLaunch + 2 ^ 448 * 33, period := 33, left := some 4, nextAt := 33000, running := running }]
theorem witness_tick : ∀ running ∈ [none, some 3], ((ticking running).subq 5).ticks = { pkt := 15, packet := aLaunch + 2 ^ 448 * 33, period := 33, left := some 4, nextAt := 33000, running := running } :: [] ∧
    (33000 : Nat) ≤ (ticking running).time ∧ (some 4 : Option Nat) ≠ some 0 ∧ (ticking running).nextLaunch = 1 := by decide +kernel
theorem witness_tick_graph : ∃ u l, GraphRead (ticking none) 5 15 (aLaunch + 2 ^ 448 * 33) true u l := graphRead_of _ _ _ _ _ (by decide +kernel) (by decide +kernel) (by decide +kernel)

/-! ### Placement, loci, ends -/

/-- The launch of the graph has begun; its kernel's descriptor at 0x9000 has an entry for quadrant 0 at 0x400 and a trap vector. -/
def placing : State := ((after (exec (.packetStart 5) (graphed [] []))).setBytes (keyOf 0x9000) (lowBytes (0x400 + 2 ^ 256 * 0x777) 128)).updFacet 0 (fun x => { x with tlb := [{ asid := 9, page := 0, shift := 16, entry := 0 }] })
/-- Dispatching of facet 0, as the manual's steps leave it (R336, R415). -/
def dispatched (s : State) : State := (s.updFacet 0 (fun x => { x with dispatchAt := s.cycle + 8, forecast := Config.forecast s.draws % 193 })).drawn
/-- The plan, in numbers. -/
def planNumbers : Option Plan → List Nat
  | some (.fresh id node inst [c] [] false) => [id, node, inst, c]
  | some (.restore t [c] [] false) => [t, c]
  | _ => []
theorem fresh_of {p : Option Plan} {id node inst c : Nat} (h : planNumbers p = [id, node, inst, c]) : p = some (.fresh id node inst [c] [] false) := by
  revert h; unfold planNumbers
  split
  · intro h; cases h; rfl
  · intro h; cases h
  · intro h; cases h
theorem restore_of {p : Option Plan} {t c : Nat} (h : planNumbers p = [t, c]) : p = some (.restore t [c] [] false) := by
  revert h; unfold planNumbers
  split
  · intro h; cases h
  · intro h; cases h; rfl
  · intro h; cases h
/-- Does a reading give a plain task's descriptor with an entry for quadrant 0? -/
def plainPrep (s : State) : State × Except FeErr Prep → Bool
  | (u, .ok p) => @decide _ (decReadOnly s u) && decide (p.members = [] ∧ p.hbind = [] ∧ p.d % 2 ^ 64 ≠ 0) && p.rings.isEmpty
  | _ => false
theorem prep_of (s : State) (x : State × Except FeErr Prep) (h : plainPrep s x = true) : ∃ u p, x = (u, .ok p) ∧ ReadOnly s u ∧ PlainPrep p := by
  match x, h with
  | (u, .ok p), h =>
    simp only [plainPrep, Bool.and_eq_true] at h
    obtain ⟨a, b, c⟩ := of_decide_eq_true h.1.2
    exact ⟨u, p, rfl, @of_decide_eq_true _ (decReadOnly s u) h.1.1, a, b, List.isEmpty_iff.1 h.2, 0, by decide, by simpa using c⟩
theorem witness_placement : Dispatching placing (dispatched placing) 0 ∧ (dispatched placing).plan 0 = some (.fresh 1 0 0 [1] [] false) ∧ ((placing.launch 1).node 0).teams = false ∧ ((placing.launch 1).node 0).groups = 1 ∧
    ((placing.launch 1).node 0).units = [] ∧ (placing.launch 1).use = .dynamic ∧ ((placing.launch 1).node 0).banks ≤ (lowestFree (placing.core 1) 8).length ∧
    ∃ u p, (dispatched placing).fe (prepare { f := 0, asid := (placing.ctx (placing.launch 1).ctx).asid, ns := (placing.ctx (placing.launch 1).ctx).ns, work := 4096 } ((placing.launch 1).node 0).kernel
      (!(placing.launch 1).checked.contains ((placing.launch 1).node 0).kernel) false ((dispatched placing).feat 7)) = (u, .ok p) ∧ ReadOnly (dispatched placing) u ∧ PlainPrep p :=
  ⟨⟨by decide +kernel, rfl⟩, fresh_of (by decide +kernel), by decide +kernel, by decide +kernel, by decide +kernel, by decide +kernel, by decide +kernel, prep_of _ _ (by decide +kernel)⟩
theorem test_placement : (let t := after (exec (.dispatchPlacement 0) placing); ((t.core 1).task, (t.core 1).q0.pc, (t.core 1).q0.cyc)) = (some 2, 0x400, 900) := by decide +kernel

/-- Task 1 is RESTORABLE, saved from core 0, its bank 0 parked there. -/
def restorable : State := (((framed 0 0 .none).updFacet 0 (fun x => { x with tlb := [{ asid := 9, page := 0, shift := 16, entry := 0 }] })).updCore 0 (fun _ => { banks := (Tab.empty : Tab Bank).set {} 0 { st := .parked, task := 1 } })).updTask 1 (fun x => { x with st := .restorable, banks := x.banks.set 0 0 1, valid := true })
theorem witness_restoring : Dispatching restorable (dispatched restorable) 0 ∧ (dispatched restorable).plan 0 = some (.restore 1 [0] [] false) ∧ (restorable.task 1).cores = [0] ∧ (restorable.task 1).walks = [] ∧
    (restorable.task 1).team = false ∧ (restorable.core 0).preload = none ∧ (restorable.task 1).banks.get 0 0 = bankMaskOf (restorable.core 0) 1 .parked ∧ bankMaskOf (restorable.core 0) 1 .held = 0 ∧
    (restorable.task 1).tails.get 0 0 = 0 ∧ (restorable.task 1).frames = [2] ∧ Mapped restorable (restorable.ctx (restorable.task 1).ctx).asid false frameAddr 0x29000 (keyOf (0x1000 + 2 * 0xB0000)) :=
  ⟨⟨by decide +kernel, rfl⟩, restore_of (by decide +kernel), by decide +kernel, by decide +kernel, by decide +kernel, by decide +kernel, by decide +kernel, by decide +kernel, by decide +kernel, by decide +kernel,
    mapped_of 0 ⟨by decide +kernel, by decide, by decide, rfl, by decide +kernel, by decide +kernel, by decide +kernel, by decide +kernel, by decide, by decide⟩⟩

/-- The same launch replays a locus whose entry for core 1 names the instance 0 and the banks 1 and 2. -/
def anEntry : LocusEntry := { kind := 1, core := 1, bmask := 6, pre := false, node := 0, first := 0, count := 1, wait := 0, at_ := 96 }
def replaying : State := placing.updLaunch 1 (fun l => { l with use := .replaying 0, replay := (Tab.empty : Tab (List LocusEntry)).set [] 1 [anEntry], named := [1], locus := [anEntry] })
theorem witness_entry : replaying.locusStep 1 = some 1 ∧ replaying.entryReady 1 1 = some anEntry ∧ replaying.healthy (replaying.launch 1) = true ∧ ((replaying.launch 1).node 0).teams = false ∧
    ((replaying.launch 1).node 0).units = [] ∧ (replaying.launch 1).entryCores anEntry = [1] ∧ (∀ y ∈ (replaying.launch 1).locus, y.kind ≠ 2) ∧ (replaying.core 1).task = none ∧
    (∀ b, b < 8 → anEntry.bmask / 2 ^ b % 2 = 1 → ((replaying.core 1).banks.get {} b).st = .free) ∧
    ∃ u p, replaying.fe (prepare { f := facetOf 1, asid := (replaying.ctx (replaying.launch 1).ctx).asid, ns := (replaying.ctx (replaying.launch 1).ctx).ns, work := 4096 } ((replaying.launch 1).node 0).kernel
      (!(replaying.launch 1).checked.contains ((replaying.launch 1).node 0).kernel) false (replaying.feat 7)) = (u, .ok p) ∧ ReadOnly replaying u ∧ PlainPrep p :=
  ⟨by decide +kernel, by decide +kernel, by decide +kernel, by decide +kernel, by decide +kernel, by decide +kernel, by decide +kernel, by decide +kernel, by decide +kernel, prep_of _ _ (by decide +kernel)⟩
theorem test_entry : (let t := after (exec (.locusEntryStart 1) replaying); ((t.core 1).task, (t.task 2).banks.get 0 1)) = (some 2, 6) := by decide +kernel

/-- Task 1 ends: the last instance, or not, of the one node of launch 4, which has a signal at 0x5000. -/
def lastOne (n : Nat) : State := (((submitted 2 [(1, 4), (2, 9)] []).updTask 1 (fun x => { x with st := .ending, launch := 4, node := 0, facet := 0 })).updLaunch 4 (fun l => { l with
  active := true, queue := 5, nn := 1, left := 1, nodes := (Tab.empty : Tab NodeRec).set {} 0 { facCnt := (Tab.empty : Tab Nat).set 0 0 n, nodeCnt := 1, siga := BitVec.ofNat 64 (3 * 2 ^ 54 + 0x5000), sigv := 7 } }))
theorem witness_done : ∀ n ∈ [1, 2], let s := lastOne n
    s.tasks.wf {} = true ∧ (s.task 1).st = .ending ∧ (s.task 1).cores = [0] ∧ (s.task 1).walks = [] ∧ (s.task 1).launch = 4 ∧ (s.core 0).task = some 1 ∧ (s.core 0).preload = none ∧ (s.core 0).mq = [] ∧
      (s.core 0).mrun = [] ∧ (s.core 0).chans = Tab.empty ∧ (s.launch 4).use = .dynamic ∧ (s.launch 4).failed = false ∧ (s.ctx (s.task 1).ctx).preReq = false ∧ s.hub.signals = [] ∧
      ((s.launch 4).node 0).facCnt.get 0 (s.task 1).facet = n := by decide +kernel
theorem witness_done_signal : (let r := ((lastOne 1).launch 4).node 0
    r.nodeCnt = 1 ∧ r.sigf = false ∧ r.irqf = false ∧ r.irqn = false ∧ r.succ = [] ∧ ((lastOne 1).launch 4).left = 1 ∧ ((lastOne 1).launch 4).gsiga = 0 ∧ ((lastOne 1).launch 4).irq = false ∧ r.siga ≠ 0 ∧
      r.siga.toNat % 8 = 0) ∧ Mapped (lastOne 1) 0 false (BitVec.ofNat 64 (3 * 2 ^ 54 + 0x5000)) 8 (keyOf 0x5000) :=
  ⟨by decide +kernel, mapped_of 0 ⟨by decide +kernel, by decide, by decide, rfl, by decide +kernel, by decide +kernel, by decide +kernel, by decide +kernel, by decide, by decide⟩⟩
theorem test_done : (let t := after (exec (.taskDone 1) (lastOne 1)); ((t.task 1).st, (t.launch 4).active, t.bytesAt (keyOf 0x5000) 2, (t.subq 5).running)) = (.done, false, [7, 0], [(2, 9)]) := by decide +kernel

/-- A locus of hash 9 and revision 1 in the only place: an entry of core 5 and an override for job 1 of it, whose copies were waited for; the trace has a job 0 that no one waited for. -/
def aLocus : List (BitVec 8) := revisedImage { hash := 9, fmask := 1, nn := 1, foff := [64] } (List.replicate 96 0)
  [{ kind := 1, core := 5, bmask := 1, pre := false, node := 0, first := 0, count := 1, wait := 0, at_ := 0 }, { kind := 2, core := 5, bmask := 0, pre := false, node := 0, first := 0, count := 1 * 2 ^ 16, wait := 3, at_ := 0 }]
def aTrace : LocusTrace := { hash := 9, rev := 1, gang := false, place := 0, replayed := true, jobs := [(0, 0, { num := 0, ch := 1, tag := none, own := 0, eff := 0, doneAt := 5, wait := none })] }
def withLocus : State := ((submitted 2 [] []).setBytes (keyOf 0x200000) aLocus).updCtx 0 (fun c => { c with traces := [aTrace] })
theorem witness_locus_place : ((withLocus.ctx 0).locbase.toNat % 2 ^ 12 = 0 ∧ withLocus.hub.signals = [] ∧ (withLocus.ctx 0).lru = Tab.empty ∧ withLocus.hub.invals = [] ∧ withLocus.hub.feCache = [] ∧
    withLocus.hub.fePorts = [] ∧ withLocus.launches.wf {} = true ∧ withLocus.launches = Tab.empty) ∧ (withLocus.byteAt (keyOf 0x200000 + 51)).toNat / 64 = 2 ∧
    ofBytes (memBytes withLocus (keyOf 0x200000 + 56) 8) = 9 ∧ ((submitted 2 [] []).byteAt (keyOf 0x200000 + 51)).toNat / 64 = 0 ∧
    Mapped withLocus (withLocus.ctx 0).asid false ((withLocus.ctx 0).locbase &&& 0xFFFFFFFFFFFF0000) 65536 (keyOf 0x200000) :=
  ⟨by decide +kernel, by decide +kernel, by decide +kernel, by decide +kernel,
    mapped_of 0 ⟨by decide +kernel, by decide +kernel, by decide +kernel, rfl, by decide +kernel, by decide +kernel, by decide +kernel, by decide +kernel, by decide +kernel, by decide +kernel⟩⟩
theorem test_locinv : (after (exec (.locinv 0 9) withLocus)).byteAt (keyOf 0x200000 + 51) = 0 ∧ ((after (exec (.locinv 0 10) withLocus)).byteAt (keyOf 0x200000 + 51)).toNat / 64 = 2 := by decide +kernel
/-- The locus as it is read for a refinement, with all that the statement asks of it. -/
def refinable (s : State) : State × Except FeErr (Option (LocusHdr × List (BitVec 8))) → Bool
  | (u, .ok (some (h, b))) =>
    let old := ((List.range 8).filter (fun f => decide (h.fmask / 2 ^ f % 2 = 1))).flatMap (fun f => entriesOf b f 4096 (h.foff.getD f 0 + 32 * h.nn))
    @decide _ (decReadOnly s u) && decide ((u.facet 3).tlb = (s.facet 3).tlb ∧ (u.facet 3).moving = none ∧ (u.facet 3).links = Tab.empty ∧ (u.facet 3).pwinA = Tab.empty ∧
      u.hub = { s.hub with feCache := u.hub.feCache, fePorts := u.hub.fePorts }) &&
      decide (h.rev = 1 ∧ h.hash < 2 ^ 64 ∧ h.rev + 1 < 2 ^ 16 ∧ h.fails < 256 ∧ h.nn < 2 ^ 16 ∧ refine aTrace.jobs old ≠ old ∧ (revisedImage h b (refine aTrace.jobs old)).length ≤ 65536)
  | _ => false
theorem witness_refine : homeOf (withLocus.ctx 0).locbase = 3 ∧ (withLocus.ctx 0).traces = [aTrace] ∧
    ∃ u h b, withLocus.fe (readRefinable { f := 8, asid := (withLocus.ctx 0).asid, ns := (withLocus.ctx 0).ns, work := 3 } (withLocus.ctx 0) (9 : Word).toNat 0) = (u, .ok (some (h, b))) ∧ ReadOnly withLocus u ∧ h.rev = 1 ∧
      refine aTrace.jobs (((List.range 8).filter (fun f => decide (h.fmask / 2 ^ f % 2 = 1))).flatMap (fun f => entriesOf b f 4096 (h.foff.getD f 0 + 32 * h.nn))) ≠
        ((List.range 8).filter (fun f => decide (h.fmask / 2 ^ f % 2 = 1))).flatMap (fun f => entriesOf b f 4096 (h.foff.getD f 0 + 32 * h.nn)) := by
  refine ⟨by decide +kernel, by decide +kernel, ?_⟩
  have g : refinable withLocus (withLocus.fe (readRefinable { f := 8, asid := (withLocus.ctx 0).asid, ns := (withLocus.ctx 0).ns, work := 3 } (withLocus.ctx 0) (9 : Word).toNat 0)) = true := by decide +kernel
  generalize withLocus.fe (readRefinable { f := 8, asid := (withLocus.ctx 0).asid, ns := (withLocus.ctx 0).ns, work := 3 } (withLocus.ctx 0) (9 : Word).toNat 0) = x at g
  match x, g with
  | (u, .ok (some (h, b))), g =>
    simp only [refinable, Bool.and_eq_true] at g
    have r := of_decide_eq_true g.2
    exact ⟨u, h, b, rfl, @of_decide_eq_true _ (decReadOnly withLocus u) g.1.1, r.1, r.2.2.2.2.2.1⟩

/-! ### Ill-formed instructions: a term for each field rule, with the subcause of R72 that it breaks -/

def illFormed : List (Instr × List Nat) := [(.add 1 0 52 1, [4]),
  (.sub 1 0 1 63, [4]),
  (.li 48 0, [5]),
  (.add 1 1 1 2, [5]),
  (.ext 1 0 1 8, [3]),
  (.ext 1 0 1 3, [9]),
  (.hset 1 0 1 2 3, [9]),
  (.hget 1 0 1 3, [9]),
  (.loop 4 0, [11]),
  (.loop 4 65, [11]),
  (.loopReg 1 0, [11]),
  (.loopn 6 3 0 0, [11]),
  (.loopn 0 3 1 5, [11]),
  (.loopn 0 3 1 0, [3]),
  (.loopn 0 3 0 1, [11]),
  (.loopn 0 3 45 4, [11]),
  (.nsetReg 6 1 2, [11]),
  (.nsetImm 7 0 0, [11]),
  (.nget 1 0 6, [11]),
  (.csrr 1 8, [11]),
  (.csrw 1 0x71, [11]),
  (.lda 1 2 3 0 1 0, [3]),
  (.ldx 1 2 3 3 1, [3]),
  (.vgath 1 2 3 3 0, [9]),
  (.vgath 1 2 3 2 1, [3]),
  (.vscat 1 2 0 3 3, [9]),
  (.vadd 1 2 3 0 1, [3]),
  (.vabs 1 2 4 0, [9]),
  (.vshl 1 2 3 0 0, [9]),
  (.vshl 1 2 16 5 1, [11]),
  (.vscan 1 2 3 0 6, [2]),
  (.vscan 1 2 0 0 3, [9]),
  (.vrcp 1 2 3, [9]),
  (.vsin 1 2 3, [9]),
  (.vqnt 1 2 19, [9]),
  (.vdot4 1 2 3 3 0, [9]),
  (.vidx 1 0, [9]),
  (.vred 1 2 3 1 6, [2]),
  (.vred 1 2 0 1 3, [9]),
  (.vred 32 2 3 0 0, [3]),
  (.vextr 1 2 1 3 0, [11]),
  (.vins 1 2 3 3 0, [11]),
  (.mlog 8 0 0 0 0, [3]),
  (.mlog 8 0 0 1 3, [2]),
  (.vli 1 3 0, [2]),
  (.repeatedVectorWord 0 0 0 0 0 0x11 0 0 0 0 0, [8]),
  (.repeatedVectorWord 6 0 0 0 0 0 1 2 3 3 0, [11]),
  (.repeatedVectorWord 0 1 0 0 0 0x0E 1 2 3 3 0, [3]),
  (.repeatedVectorWord 0 0 0 1 0 6 1 2 0 3 0, [3]),
  (.repeatedVectorWord 0 0 0 0 1 0 1 2 3 3 0, [3]),
  (.wld 0 0 1 2 127 8 0 3, [3]),
  (.mstr 0 0 0 1 3 0 8 7 0, [3]),
  (.mstr 0 0 0 1 0 0 8 6 0, [11]),
  (.mstr 0 0 0 1 0 5 8 0 0, [3]),
  (.mstx 0 0 200 1 0 56 8 7 0, [11]),
  (.mstq 0 0 200 0 0 56, [11]),
  (.mout 0 0 0 1 3 0 0 0 0 32 7 0 0, [9]),
  (.mout 0 0 0 1 0 0 0 0 0 32 6 0 0, [11]),
  (.mgrp 0 0 1 1 0 15 8 2 3, [11]),
  (.mzero 0 0 200 56, [11]),
  (.maccld 0 0 255 1 1, [11]),
  (.mstat 0 0 48, [5]),
  (.cpyLong 0 1 2 3 0 5 0 0 0 0 0, [3]),
  (.cpyLong 0 1 2 3 0 0 0 0 1 0 0, [3]),
  (.cpyLong 0 1 2 3 0 0 0 1 8 20 0, [9]),
  (.cpyLong 0 1 2 3 0 0 0 0 0 0 3, [9]),
  (.cpyn 0 1 2 3 6, [11]),
  (.cpynLong 0 1 2 3 0 1 5 0 0 0 0 0 1, [3]),
  (.cpynLong 0 1 2 3 0 0 52 0 0 0 0 0 1, [4]),
  (.drain 1 1 0, [3]),
  (.pullLong 0 1 2 3 0 5, [3]),
  (.hand 48 0 0, [5]),
  (.smwait 0 0, [11]),
  (.smsig 0, [11])]
theorem illFormed_refused : ∀ x ∈ illFormed, wf x.1 = false ∧ violations x.1 = x.2 := by decide
theorem illFormed_words : ∀ x ∈ illFormed, (decode (encode x.1)).1 = .illegal (x.2.foldl min 255) := by decide

/-! ### Decoding: words written out bit by bit -/

/-- Integer and control words (R64), each field written at the bits that the table gives it. -/
def wordsZeroA : List (Nat × Instr) := [(0b00000000000000000000000000000000, .nop),
  (0b00000000100011101010000011010000, .add 7 0 40 13),
  (0b00000001000011101010000000010010, .addi 7 0 40 18),
  (0b00000001100011101010000011010000, .sub 7 0 40 13),
  (0b00000010000011101010000011010000, .and 7 0 40 13),
  (0b00000010100011101010000000010010, .andi 7 0 40 18),
  (0b00000011000011101010000011010000, .or 7 0 40 13),
  (0b00000011100011101010000000010010, .ori 7 0 40 18),
  (0b00000100000011101010000011010000, .xor 7 0 40 13),
  (0b00000100100011101010000000010010, .xori 7 0 40 18),
  (0b00000101000011101010000011010000, .andn 7 0 40 13),
  (0b00000101100011101010000011010000, .shl 7 0 40 13),
  (0b00000110000011101010000000001101, .shli 7 0 40 13),
  (0b00000110100011101010000011010000, .shr 7 0 40 13),
  (0b00000111000011101010000000001101, .shri 7 0 40 13),
  (0b00000111100011101010000011010000, .sar 7 0 40 13),
  (0b00001000000011101010000000001101, .sari 7 0 40 13),
  (0b00001000100011101010000011010000, .rol 7 0 40 13),
  (0b00001001000011101010000011010000, .mul 7 0 40 13),
  (0b00001001100011101010000011010000, .mulh 7 0 40 13)]
def wordsZeroB : List (Nat × Instr) := [(0b00001010000011101010000011010000, .mulhn 7 0 40 13),
  (0b00001010100011101010000011010000, .div 7 0 40 13),
  (0b00001011000011101010000011010000, .divn 7 0 40 13),
  (0b00001011100011101010000011010000, .rem 7 0 40 13),
  (0b00001100000011101010000011010000, .remn 7 0 40 13),
  (0b00001100100011101010000011010000, .min 7 0 40 13),
  (0b00001101000011101010000011010000, .max 7 0 40 13),
  (0b00001101100011101010000011010000, .minn 7 0 40 13),
  (0b00001110000011101010000011010000, .maxn 7 0 40 13),
  (0b00001110100011101010000000000000, .clz 7 0 40),
  (0b00001111000011101010000000000000, .popc 7 0 40),
  (0b00001111100011101010000000000010, .ext 7 0 40 2),
  (0b00010000000011100000000000001000, .li 7 8),
  (0b00010000100011100000000000001000, .lih 7 8),
  (0b00010001000011101010000011010111, .lea 7 0 40 13 7),
  (0b00010001100011101010000011010010, .hset 7 0 40 13 2),
  (0b00010010000011101010000000000010, .hget 7 0 40 2),
  (0b00010010101100001010000011010000, .cmp 3 0 40 13),
  (0b00010011001100001010000000010010, .cmpi 3 0 40 18),
  (0b00010011101110001010100000000000, .plog 3 8 5 2)]
def wordsZeroC : List (Nat × Instr) := [(0b00010100000011101010000011010111, .sel 7 0 40 13 7),
  (0b00010100100011100000000000000000, .movpGet 7),
  (0b00010100100000010001110000000000, .movpSet 7),
  (0b00010101001100000000000000001101, .br 3 0 13),
  (0b00010101101100000000000000001101, .call 3 0 13),
  (0b00010110000011100101010000000000, .jr 7 21),
  (0b00010110110000000000110000001000, .loop 3 8),
  (0b00010110100000000001110000001000, .loopReg 7 8),
  (0b00010111001101010110100001000000, .loopn 3 21 40 2),
  (0b00010111101100000101011010000000, .nsetReg 3 21 40),
  (0b00010111101110000010000000001101, .nsetImm 3 8 13),
  (0b00011000000011101010000000000000, .nget 7 0 5),
  (0b00011100000011100000000001000010, .csrr 7 66),
  (0b00011100100000000111000001000010, .csrw 7 66),
  (0b00011101000000000000000000000011, .trap 3),
  (0b00011101100000000000000000000000, .tret),
  (0b00011110000000000000000000000011, .brk 3),
  (0b00011110100000000111000000000000, .dload 7),
  (0b00011111000000000000000000000000, .dfence),
  (0b00011111100000000111010101000000, .iflush 7 21)]
theorem decode_wordsZeroA : ∀ x ∈ wordsZeroA, decodeWord x.1 = .instr x.2 := by decide
theorem decode_wordsZeroB : ∀ x ∈ wordsZeroB, decodeWord x.1 = .instr x.2 := by decide
theorem decode_wordsZeroC : ∀ x ∈ wordsZeroC, decodeWord x.1 = .instr x.2 := by decide
/-- Memory words (R65), each field written at the bits that the table gives it. -/
def wordsOneA : List (Nat × Instr) := [(0b00100000000111010101000000001101, .ldB 7 21 13),
  (0b00100001000111010101000000001101, .ldBn 7 21 13),
  (0b00100010000111010101000000001101, .ldH 7 21 13),
  (0b00100011000111010101000000001101, .ldHn 7 21 13),
  (0b00100100000111010101000000001101, .ldW 7 21 13),
  (0b00100101000111010101000000001101, .ldWn 7 21 13),
  (0b00100110000111010101000000001101, .ldD 7 21 13),
  (0b00100111000111010101011010011100, .lda 7 21 1 2 1 28),
  (0b00101000000111010101101000101000, .ldx 7 21 40 2 1),
  (0b00101001000111010101110100010010, .stB 7 21 13 18),
  (0b00101010000111010101110100010010, .stH 7 21 13 18),
  (0b00101011000111010101110100010010, .stW 7 21 13 18),
  (0b00101100000111010101110100010010, .stD 7 21 13 18),
  (0b00101101000111010101110110111100, .stl 7 21 13 2 3 12),
  (0b00110000010010010101000000001101, .vld 9 21 13),
  (0b00110001010010010101110101111100, .vst 9 21 13 0 7 12),
  (0b00110010010010010101110110110000, .vgath 9 21 27 1 1),
  (0b00110011010010010101110100110100, .vscat 9 21 13 6 2),
  (0b00110100000111010101101000001011, .aadd 7 21 40 2 3),
  (0b00110101000111010101101000001011, .aand 7 21 40 2 3)]
def wordsOneB : List (Nat × Instr) := [(0b00110110000111010101101000001011, .aor 7 21 40 2 3),
  (0b00110111000111010101101000001011, .axor 7 21 40 2 3),
  (0b00111000000111010101101000001011, .amin 7 21 40 2 3),
  (0b00111001000111010101101000001011, .amax 7 21 40 2 3),
  (0b00111010000111010101101000001011, .aminn 7 21 40 2 3),
  (0b00111011000111010101101000001011, .amaxn 7 21 40 2 3),
  (0b00111100000111010101101000001011, .aswp 7 21 40 2 3),
  (0b00111101000111010101101000001011, .acas 7 21 40 2 3),
  (0b00111110000000000000000000000011, .mark 3),
  (0b00111110001000000000000000000011, .fence 3),
  (0b00111111000111010101000000000000, .lkup 7 21),
  (0b00111111000000000111010101010000, .tins 7 21),
  (0b00111111000000000111000000100000, .tinv 7),
  (0b00111111000111010101000000110000, .tstat 7 21)]
theorem decode_wordsOneA : ∀ x ∈ wordsOneA, decodeWord x.1 = .instr x.2 := by decide
theorem decode_wordsOneB : ∀ x ∈ wordsOneB, decodeWord x.1 = .instr x.2 := by decide
/-- Vector words (R66), each field written at the bits that the table gives it. -/
def wordsTwoA : List (Nat × Instr) := [(0b01000000001001100101101110000001, .vadd 9 18 27 4 1),
  (0b01000000101001100101101110000001, .vsub 9 18 27 4 1),
  (0b01000001001001100101101110000001, .vmul 9 18 27 4 1),
  (0b01000001101001100101101101000011, .vfma 9 18 27 2 3),
  (0b01000010001001100101101101000000, .vmin 9 18 27 2),
  (0b01000010101001100101101101000000, .vmax 9 18 27 2),
  (0b01000011001001100100000010100000, .vabs 9 18 5 0),
  (0b01000011101001100100000010100000, .vneg 9 18 5 0),
  (0b01000100001001100101101101100000, .vand 9 18 27),
  (0b01000100101001100101101101100000, .vor 9 18 27),
  (0b01000101001001100101101101100000, .vxor 9 18 27),
  (0b01000101101001100101101110000001, .vshl 9 18 27 4 1),
  (0b01000110001001100101101110000001, .vshr 9 18 27 4 1),
  (0b01000110101001100101101110000001, .vsar 9 18 27 4 1),
  (0b01000111000011100101101101001100, .vcmp 3 18 27 2 1 4),
  (0b01000111101001100101101101100010, .vsel 9 18 27 2),
  (0b01001000001001100100000001001100, .vcvt 9 18 0 2 1 4),
  (0b01001000100011110010000010100100, .vred 7 18 5 0 4),
  (0b01001001001001100100000010101100, .vscan 9 18 5 1 4),
  (0b01001001101001100101101101100000, .vperm 9 18 27)]
def wordsTwoB : List (Nat × Instr) := [(0b01001010001001010101000010100000, .vbcast 9 21 5),
  (0b01001010100011110010010001000011, .vextr 7 18 1 2 3),
  (0b01001011001001010101010001000011, .vins 9 21 1 2 3),
  (0b01001011101001100100000000100000, .vrcp 9 18 1),
  (0b01001100001001100100000000100000, .vrsq 9 18 1),
  (0b01001100101001100100000000100000, .vexp2 9 18 1),
  (0b01001101001001100100000000100000, .vlog2 9 18 1),
  (0b01001101101001100100000000100000, .vsin 9 18 1),
  (0b01001110001001100100000000100000, .vcos 9 18 1),
  (0b01001110101001100100000000000000, .vact 9 18),
  (0b01001111001001100101101100001101, .vrng 9 18 27 13),
  (0b01001111101001100100000000011011, .vqnt 9 18 27),
  (0b01010000001001100100000000011011, .vdqnt 9 18 27),
  (0b01010000101001100101101101000011, .vdot4 9 18 27 2 3),
  (0b01010001000011010010000000000000, .vmovmMv 3 18),
  (0b01010001001001000000000000000001, .vmovmVm 9 0),
  (0b01010001000011010101000000000010, .vmovmMg 3 21),
  (0b01010001100011100010100001110000, .mlog 7 0 5 0 7),
  (0b01010010001001000000000010000000, .vidx 9 4),
  (0b01010010100000010010000000010101, .vqput 9 21)]
def wordsTwoC : List (Nat × Instr) := [(0b01010011001001000000000000010101, .vqget 9 21),
  (0b01010011101001000000000000001101, .vli 9 0 13)]
theorem decode_wordsTwoA : ∀ x ∈ wordsTwoA, decodeWord x.1 = .instr x.2 := by decide
theorem decode_wordsTwoB : ∀ x ∈ wordsTwoB, decodeWord x.1 = .instr x.2 := by decide
theorem decode_wordsTwoC : ∀ x ∈ wordsTwoC, decodeWord x.1 = .instr x.2 := by decide
/-- Matrix words (R67), each field written at the bits that the table gives it. -/
def wordsThree : List (Nat × Instr) := [(0b01100001001110000000000000000000, .wsel 3 8),
  (0b01100101001110001010000000000000, .mepiBias 3 8 40),
  (0b01100101001110001010000100000000, .mepiScale 3 8 40),
  (0b01100101001110001010001000000000, .mepiZero 3 8 40),
  (0b01100101001110000000001100000000, .mepiAclr 3 8),
  (0b01101000001110001010000000000000, .mfade 3 8 40),
  (0b01101001001110001010000000000000, .mact 3 8 40),
  (0b01101010001110000000110100010010, .mzero 3 8 13 18),
  (0b01101100001110001010000000000000, .mnb 3 8 40),
  (0b01101101001110001010000000000000, .mstat 3 8 40),
  (0b01101110001110000000110100000000, .mprog 3 8 13),
  (0b01101111001110000000000000000000, .msig 3 8),
  (0b01110000001110000000000000000000, .mcan 3 8)]
theorem decode_wordsThree : ∀ x ∈ wordsThree, decodeWord x.1 = .instr x.2 := by decide
/-- Copy and fabric words (R68), each field written at the bits that the table gives it. -/
def wordsFour : List (Nat × Instr) := [(0b10000000011010101101000001101000, .cpy 3 21 40 13),
  (0b10000001011010101101000001101100, .cpyn 3 21 40 13 4),
  (0b10000010011010101000000000000000, .chain 3 21),
  (0b10000011011000000000000000001101, .drain 3 0 13),
  (0b10000100000111000000000000001000, .twall 7 8),
  (0b10000101000111000000000000001000, .twany 7 8),
  (0b10000110000111010101000000000000, .tfind 7 21),
  (0b10000111000111000000000000000000, .tclr 7),
  (0b10001000011001010110100000000000, .pfh 3 21 40),
  (0b10001000011101010110100000000000, .pfhAdapt 3 21 40),
  (0b10001001011010101101000001101000, .send 3 21 40 13),
  (0b10001010011010101000000000000000, .drop 3 21),
  (0b10001011011010101101000000000000, .pqry 3 21 40),
  (0b10001100011010101101000001101000, .pull 3 21 40 13),
  (0b10001101110000000000000000000000, .bopen 3),
  (0b10001110110000000000000000000000, .bclose 3),
  (0b10001111000111000000000000001101, .bwait 7 0 13),
  (0b10010000110000000000000000000000, .bsel 3),
  (0b10010001000111010101000000000000, .sqst 7 21),
  (0b10010010000111010101101000000000, .slotw 7 21 40)]
theorem decode_wordsFour : ∀ x ∈ wordsFour, decodeWord x.1 = .instr x.2 := by decide
/-- Queue and team words (R69), each field written at the bits that the table gives it. -/
def wordsFiveA : List (Nat × Instr) := [(0b10100000001100101010000000000000, .qbindReg 3 21),
  (0b10100000001110000000000000001000, .qbindLabel 3 8),
  (0b10100001000111100000000000001101, .qres 7 8 13),
  (0b10100010000111100000000000000000, .qcmt 7 8),
  (0b10100011000111100000000000001101, .qacq 7 8 13),
  (0b10100100000111100000000000000000, .qrel 7 8),
  (0b10100101000111100000000000000000, .qstat 7 8),
  (0b10100110000111100000000000001101, .hand 7 8 13),
  (0b10100111000000110000000010000000, .role 3 8),
  (0b10101000000000000000000000000000, .tbar),
  (0b10101001000000000000000000000000, .cbar),
  (0b10101010001100000000000000001000, .smwait 3 8),
  (0b10101011001100000000000000000000, .smsig 3),
  (0b10101100000111010101000000001101, .sigw 7 21 13),
  (0b10101101000111010101010000000000, .sigadd 7 21 1),
  (0b10101110000111010101000000000000, .awaitEq 7 21),
  (0b10101110000111010101010000000000, .awaitGen 7 21),
  (0b10101110000000000111100000000000, .awaitTags 7),
  (0b10101111000000000000000000000000, .yield),
  (0b10110000000000000000000000000000, .tend)]
def wordsFiveB : List (Nat × Instr) := [(0b10110001000111010101101000000000, .spawn 7 21 40),
  (0b10110010001100010101000000000000, .guard 3 21),
  (0b10110011011010101101000000000000, .stge 3 21 40),
  (0b10110100011000000000000000001000, .stwt 3 8),
  (0b10110101000111000000000000000000, .teamid 7)]
theorem decode_wordsFiveA : ∀ x ∈ wordsFiveA, decodeWord x.1 = .instr x.2 := by decide
theorem decode_wordsFiveB : ∀ x ∈ wordsFiveB, decodeWord x.1 = .instr x.2 := by decide
/-- The dictionary word (R52), each field written at the bits that the table gives it. -/
def wordsSeven : List (Nat × Instr) := [(0b11100000011000000000000000001000, .dictionaryWord 3 8)]
theorem decode_wordsSeven : ∀ x ∈ wordsSeven, decodeWord x.1 = .instr x.2 := by decide

/-- Long forms: the second word, above the prefix (R50, R168, R202, R239, R300). -/
def wordsLong : List (Nat × Instr) := [(0b0110000010010101010101101000000011001111000111010011000010000000, .wld 9 5 21 40 99 20 1 33),
  (0b0110001010010101110010000101011011001100000000110011001000010000, .mstr 9 5 200 21 2 0 25 4 33),
  (0b0110010010010101100101100101010111001101001101101011111000010000, .mstx 9 5 150 21 1 77 21 7 33),
  (0b0110001110010101100101101000001011001101001101000000000000000000, .mstq 9 5 150 1 2 77),
  (0b0110011010010101100101100101011011001101001101101100001100101000, .mout 9 5 150 21 2 77 1 0 1 33 4 2 1),
  (0b0110011110010101010110100101010111001110011001110000100110000000, .mgrp 9 5 90 21 1 9 19 33 12),
  (0b0110101110010101100101100101010011001101001101000000000000000000, .maccld 9 5 150 21 77),
  (0b1000000010101010110100000110100011010011001011011110000001001110, .cpyLong 5 21 40 13 1 37 11 1 32 19 2),
  (0b1000000110101010110100000110110011010001001011011110000100001111, .cpynLong 5 21 40 13 4 0 37 11 1 33 3 1 1),
  (0b1000110010101010110100000110100011010011001010000000000000000000, .pullLong 5 21 40 13 1 37),
  (0b1010110001010110100010000000000111010100000000000000000000000011, .sigwCond 21 40 2049 3),
  (0b0100000110100110010110110101011011001010011111010101100000000000, .repeatedVectorWord 4 7 6 5 3 3 9 18 27 2 22)]
theorem decode_wordsLong : ∀ x ∈ wordsLong, decodePattern x.1 = .instr x.2 := by decide

/-- From R50, R68, R70 and R72: a prefix to engine 6, to another engine than the next word's, on a word without a long form, before a prefix; an unassigned op; a reserved bit; a prefix bit
that is left unused; and a word that no hart's port takes (R329). -/
theorem decode_illegal : decodePattern (0xD8000000 + 2 ^ 32 * 0x80000000) = .illegal 6 ∧ decodePattern (0xD0000000 + 2 ^ 32 * 0x00800000) = .illegal 7 ∧ decodePattern (0xC0000000 + 2 ^ 32 * 0x00800000) = .illegal 8 ∧
    decodePattern (0xD0000000 + 2 ^ 32 * 0xD0000000) = .illegal 7 ∧ decodeWord 0x93000000 = .illegal 2 ∧ decodeWord 0x00800001 = .illegal 3 ∧
    decodePattern (0xCC000001 + 2 ^ 32 * 0x60000000) = .illegal 3 := by decide
theorem decode_hart : decodeHart 0b00000000011000101000000000001011 = some (.qsubmit 6 5) ∧ decodeHart 0x0062800A = none := by decide
theorem decodeTableWord_rows : decodeTableWord 32 0x1600BC00 = decodeTableWord 32 (0x1600BC00 + 2 ^ 40) ∧ decodeTableWord 64 (0xD4000003 + 2 ^ 32 * 0xAC540801) = some (.sigwCond 21 0 2049 3) := by decide

/-! ### Steps and encodings -/

theorem witness_fetches : Fetches start 0 0 0 { AtCycle start 0 with cur := { core := 0, quad := 0 } } := ⟨by decide +kernel, by decide +kernel, rfl, by decide +kernel, Or.inl (by decide +kernel), by decide +kernel, by decide +kernel⟩
/-- The word fetched is legal and permitted, legal and not permitted (no feature is agreed), or illegal. -/
theorem witness_patternAtPc : ∃ u, ({ AtCycle start 0 with cur := { core := 0, quad := 0 } } : State).patternAtPc = (u, some (0, 4)) ∧ decodePattern 0 = .instr .nop :=
  ⟨_, Prod.ext rfl (by decide +kernel), by decide⟩
theorem witness_notPermitted : NotPermitted (some1.updHub (fun h => { h with featacc := 0 })) (.dload 1) := Or.inl ⟨0, rfl, by decide⟩
theorem witness_walk_words : NotPermitted onWalk (.add 1 0 1 2) ∧ ¬ NotPermitted onWalk (.addi 1 0 15 2) ∧ NotPermitted onWalk (.addi 1 0 16 2) := by
  refine ⟨Or.inr (Or.inr ⟨by decide, fun rs zs h => nomatch h⟩), ?_, Or.inr (Or.inr ⟨by decide, fun rs zs h => ?_⟩)⟩
  · rintro (⟨k, h, -⟩ | ⟨⟨d, a, b, h⟩, -⟩ | ⟨-, h⟩)
    · cases h
    · cases h
    · exact absurd (h [1, 15] [] rfl) (by decide)
  · cases h; exact Or.inl ⟨16, by decide, by decide⟩
theorem witness_agenda : ∃ r, ({ some1 with agenda := [.waitLimitExpiry 0 0] } : State).agenda = .waitLimitExpiry 0 0 :: r := ⟨[], rfl⟩
/-- A load of a slot table is due; a QSUBMIT stands at the port of a hart. -/
theorem witness_event : ∃ t i, ({ State.reset with hub := { fabAt := some 7 } } : State).agenda = [] ∧ earliest ({ State.reset with hub := { fabAt := some 7 } } : State).allDue = some (t, .event i) :=
  ⟨7, .fabimgLoadDone, by decide, by decide +kernel⟩
theorem witness_hart : ∃ t h, ({ State.reset with harts := (Tab.empty : Tab Hart).set {} 2 { port := some 0x0062800B } } : State).agenda = [] ∧
    earliest ({ State.reset with harts := (Tab.empty : Tab Hart).set {} 2 { port := some 0x0062800B } } : State).allDue = some (t, .hart h) := ⟨0, 2, by decide, by decide +kernel⟩
theorem witness_wordAt : (∀ l ∈ some1.me.loops, l.start.toNat ≤ 0 → (0 : Nat) ≤ l.last.toNat → l.buf.get 0 0 = 0) ∧ (some1.isRemote 0x03C0000000000000 && some1.feat 6) = false ∧ some1.me.icache.get 0 (0x03C0000000000000 : Word).toNat = 0 ∧
    ∃ s' v, some1.accept some1.agent 0x03C0000000000000 4 .fetch = (⟨s', .ok v⟩, spadKey 0 0) :=
  ⟨by decide +kernel, by decide +kernel, by decide +kernel, some1, [], by rfl⟩
/-- The word is cached; it lies in the loop's buffer; a prefix stands before it. -/
theorem witness_cached : (withQuad (fun q => { q with icache := q.icache.set 0 (0x03C0000000000000 : Word).toNat 8 })).me.icache.get 0 (0x03C0000000000000 : Word).toNat ≠ 0 := by decide +kernel
theorem witness_buffered : ∃ l, (withQuad (fun q => { q with loops := [{ level 0x100 0x200 2 with buf := (Tab.empty : Tab Nat).set 0 0x104 8 }] })).me.loops = l :: [] ∧ l.start.toNat ≤ 0x104 ∧ 0x104 ≤ l.last.toNat ∧
    l.buf.get 0 0x104 = 7 + 1 := ⟨_, rfl, by decide, by decide, by decide⟩
/-- The outer of two levels alone holds the word in its buffer. -/
theorem witness_buffered_outer : ∃ i l, (withQuad (fun q => { q with loops := [level 0x100 0x180 2, { level 0x100 0x200 2 with buf := (Tab.empty : Tab Nat).set 0 0x104 8 }] })).me.loops = [i] ++ l :: [] ∧
    l.buf.get 0 0x104 = 7 + 1 ∧ i.buf.get 0 0x104 = 0 := ⟨_, _, rfl, by decide, by decide⟩
theorem witness_prefixed : (State.reset.withFetchWord 64 (0xD4000003 + 2 ^ 32 * 0xAC540801)).me.inject = none ∧
    ((State.reset.withFetchWord 64 (0xD4000003 + 2 ^ 32 * 0xAC540801)).wordAt 0x03C0000000000000).2 = some 0xD4000003 ∧ 0xD4000003 / 2 ^ 29 % 8 = 6 ∧ 0 / 2 ^ 29 % 8 ≠ 6 := by decide +kernel
theorem test_step : (after (step (State.reset.withFetchWord 32 0x100803C0))).me.gr 4 = 0x3C0 := by decide +kernel
/-- From the example below R239: the long form of CPY with tag 5. -/
theorem test_step_long : ((after (step (State.reset.withFetchWord 64 (0xD2280000 + 2 ^ 32 * 0x80220230)))).myCore.chans.get {} 1).q.map (fun j => j.tag) = [some 5] := by decide +kernel
theorem test_step_illegal : isNext (step (State.reset.withFetchWord 32 0x00800001)) = true := by decide +kernel
theorem witness_wellFormed : isWord (.add 1 0 2 3) = true ∧ wf (.add 1 0 2 3) = true := by decide
/-- A step of the reset machine keeps memory's form: the premises of StepsKeepTheInvariant hold of a state that lists bytes. -/
theorem witness_invariant : Sys2Proof.Machine.Inv (State.reset.withFetchWord 32 0x100803C0) ∧ isNext (step (State.reset.withFetchWord 32 0x100803C0)) = true := by
  unfold Sys2Proof.Machine.Inv; decide +kernel

/-! ### The manual's worked examples -/

/-- Words that the manual writes out beside R84, R180, R239, R315, R383 and R389. -/
def exampleWords : List (Nat × Instr) := [(0x14920000, .movpGet 9), (0x14812400, .movpSet 9), (0x47044302, .vcmp 1 2 3 0 0 2), (0xAE007800, .awaitTags 7), (0xB10C1080, .spawn 3 1 2), (0xB2205000, .guard 2 5),
  (0x8D400000, .bopen 1), (0x8E400000, .bclose 1), (0x8F150040, .bwait 5 1 64), (0x90800000, .bsel 2), (0x1C080010, .csrr 4 0x10), (0x1C804010, .csrw 4 0x10), (0x1D000007, .trap 7), (0x1D800000, .tret),
  (0x1E000001, .brk 1), (0x1E805000, .dload 5), (0x1F000000, .dfence), (0x1F801080, .iflush 1 2), (0x48861010, .vred 3 1 0 1 0)]
theorem decode_exampleWords : ∀ x ∈ exampleWords, decodeWord x.1 = .instr x.2 := by decide

/-- What an instruction leaves of its result when g1 and g2 hold `a` and `b`: the products and quotients in flight. -/
def resultsIn (a b : Word) (i : Instr) : List Int := (after (exec i (withQuad (fun q => { q with g := ((Tab.empty : Tab Word).set 0 1 a).set 0 2 b })))).me.pend.map (fun p => (BitVec.ofNat 64 p.val : Word).toInt)
def resultIn (a b : Word) (i : Instr) (d : Nat) : Word := (after (exec i (withQuad (fun q => { q with g := ((Tab.empty : Tab Word).set 0 1 a).set 0 2 b })))).me.gr d
/-- Below R81: −7 divided by 2; 7 divided by 0. -/
theorem test_division : (resultsIn (-7) 2 (.div 7 0 1 2), resultsIn (-7) 2 (.rem 7 0 1 2), resultsIn 7 0 (.remn 7 0 1 2)) = ([-3], [-1], [7]) := by decide +kernel
/-- Below R26: the package and home of an address. -/
theorem test_hset : (resultIn 0x1000 2 (.hset 1 0 1 2 0) 1, resultIn 0x0800000000001000 5 (.hset 1 0 1 2 1) 1, resultIn 0x0940000000001000 0 (.hget 4 0 1 2) 4) = (0x0800000000001000, 0x0940000000001000, 37) := by decide +kernel
/-- From R80 and R82: shifts use the low 6 bits of their count; ADD wraps; MAXN is unsigned, MAX is not. -/
theorem test_words : (resultIn 1 65 (.shl 7 0 1 2) 7, resultIn (-1) 2 (.add 7 0 1 2) 7, resultIn (-1) 2 (.maxn 7 0 1 2) 7, resultIn (-1) 2 (.max 7 0 1 2) 7, resultIn (-8) 1 (.sar 7 0 1 2) 7) = (2, 1, -1, 2, -4) := by decide +kernel
/-- Below R57: entry 5 is ADD with three holes; payload 0x4C05 makes it `add g5, b0, g4`. -/
theorem test_dictionary_example : let s := some1.updMyCore (fun k => { k with dict := k.dict.set 0 5 0x000100018418A1910000000000800000 })
    (decodeWord 0xE0A04C05, (after (exec (.dictionaryWord 5 0x4C05) s)).me.inject, decodeWord 0x008AC040) = (.instr (.dictionaryWord 5 0x4C05), some (0x008AC040, some 5), .instr (.add 5 0 48 4)) := by decide +kernel

/-- The vectors v2 and v3, lanes of 32 bits, lowest first. -/
def withV (a b : Nat) : State := withQuad (fun q => { q with v := ((Tab.empty : Tab VReg).set 0 2 (BitVec.ofNat 1024 a)).set 0 3 (BitVec.ofNat 1024 b) })
/-- Every lane 1.0 but lane 0, which is 2^24 (below R183). -/
def manyOnes : Nat := 0x4B800000 + ((List.range 31).map (fun l => 0x3F800000 * 2 ^ (32 * (l + 1)))).sum
theorem test_vred : (after (exec (.vred 3 2 0 1 0) (withV manyOnes 0))).me.pend.map Pend.val = [0x4B80000F] := by decide +kernel
theorem test_vscan_lane5 : (after (exec (.vscan 1 2 0 0 0) (withV manyOnes 0))).me.pend.map (fun p => p.val / 2 ^ (32 * 5) % 2 ^ 32) = [0x4B800002] := by decide +kernel
/-- Below R191: 3.0 and 0.01 in E4M3B32, and back. -/
theorem test_vqnt : (after (exec (.vqnt 1 2 21) (withV (0x40400000 + 0x3C23D70A * 2 ^ 32) 0))).me.pend.map Pend.val = [0x3A7C + 0x78 * 2 ^ 992] := by decide +kernel
theorem test_vdqnt : (after (exec (.vdqnt 1 2 21) (withV (0x3A7C + 0x78 * 2 ^ 992) 0))).me.pend.map Pend.val = [0x40400000 + 0x3C200000 * 2 ^ 32] := by decide +kernel
/-- Below R179: BF16 of two words packed, and widened back. -/
theorem test_vcvt : (after (exec (.vcvt 1 2 3 0 0 1) (withV 0x3F800000 0x40000000))).me.pend.map Pend.val = [0x40003F80] := by decide +kernel
/-- Below R145: three products of BF16 in one group; below R146: an integer sum that saturates. -/
theorem test_floatAcc : floatAcc 0 0 0 (fourGroups ((List.range 128).map (fun k => if k = 0 then f32 0x3F800000 else if k = 1 then f32 0x33800000 else if k = 2 then f32 0x28000000 else Machine.Num.zero))) = 0x3F800000 := by decide +kernel
theorem test_intAcc : intAcc 1 (BitVec.ofNat 32 2147000000) 2097152 = (BitVec.ofNat 32 2147483647, true) := by decide +kernel
/-- Below R153: FP32 to E2M1 under RNE (code 13): 0.3, 5, −5, 7. -/
theorem test_e2m1 : [0x3E99999A, 0x40A00000, 0xC0A00000, 0x40E00000].map (fun x => (convert 32 13 0 0 x).pat) = [1, 6, 14, 7] := by decide +kernel
/-- Below R160: 500.0 and a NaN as E4M3 (code 5). -/
theorem test_e4m3 : [0x43FA0000, 0x7FC00000].map (fun x => (convert 32 5 0 0 x).pat) = [0x7E, 0x7F] := by decide +kernel

end Sys2Proof.Tests
end

section
/-! PROOFS. Register writes (R4, R5): the fields of a register as masks of the value written, and what a register write and a configuration write
leave of the state. -/

namespace Sys2Proof.Machine
open Sys2Proof.Claim

/-! ### Fields as masks (R5) -/

/-- The mask of bits hi : lo of a register. -/
def fieldMask (hi lo : Nat) : Word := BitVec.ofNat 64 (part (2 ^ 64 - 1) hi lo)

theorem testBit_part (x hi lo i : Nat) : (part x hi lo).testBit i = (decide (lo ≤ i ∧ i ≤ hi) && x.testBit i) := by
  simp only [part, bits, Nat.testBit_mul_two_pow, Nat.testBit_mod_two_pow, Nat.testBit_div_two_pow]
  by_cases h : lo ≤ i
  · have e : i - lo < hi + 1 - lo ↔ i ≤ hi := by omega
    simp [h, e]
  · simp [h]

theorem getLsbD_fieldMask (hi lo i : Nat) : (fieldMask hi lo).getLsbD i = decide (lo ≤ i ∧ i ≤ hi ∧ i < 64) := by
  rw [fieldMask, BitVec.getLsbD_ofNat, testBit_part, Nat.testBit_two_pow_sub_one, ← Bool.decide_and, ← Bool.decide_and]
  exact decide_eq_decide.2 (by omega)

/-- A field kept in place is the value under the field's mask. -/
theorem part_eq_and (v : Word) (hi lo : Nat) : part v.toNat hi lo = (v &&& fieldMask hi lo).toNat := by
  refine Nat.eq_of_testBit_eq fun i => ?_
  rw [testBit_part, BitVec.testBit_toNat, BitVec.testBit_toNat, BitVec.getLsbD_and, getLsbD_fieldMask]
  by_cases h : i < 64
  · simp [h, Bool.and_comm]
  · simp [BitVec.getLsbD_of_ge v i (by omega)]

theorem ofNat_part (v : Word) (hi lo : Nat) : BitVec.ofNat 64 (part v.toNat hi lo) = v &&& fieldMask hi lo := by
  rw [part_eq_and, BitVec.ofNat_toNat, BitVec.setWidth_eq]

/-- Fields of two values, the first above the second, do not overlap: their sum holds both. -/
theorem ofNat_part_add (v u : Word) (hi lo hi' lo' : Nat) (h : hi' < lo) :
    BitVec.ofNat 64 (part v.toNat hi lo + part u.toNat hi' lo') = (v &&& fieldMask hi lo) ||| (u &&& fieldMask hi' lo') := by
  rw [BitVec.ofNat_add, ofNat_part, ofNat_part, BitVec.add_eq_or_of_and_eq_zero]
  refine BitVec.eq_of_getLsbD_eq fun i _ => ?_
  simp only [BitVec.getLsbD_and, getLsbD_fieldMask, BitVec.getLsbD_zero]
  by_cases hi : lo ≤ i
  · simp [show ¬ i ≤ hi' by omega]
  · simp [hi]

/-- Two fields of one value are kept by one mask. -/
theorem ofNat_part_add_self (v : Word) (hi lo hi' lo' : Nat) (h : hi' < lo) :
    BitVec.ofNat 64 (part v.toNat hi lo + part v.toNat hi' lo') = v &&& (fieldMask hi lo ||| fieldMask hi' lo') := by
  rw [ofNat_part_add v v _ _ _ _ h]; ext i; simp [Bool.and_or_distrib_left]

theorem bits_one (v : Word) (i : Nat) : bits v.toNat i 1 = (v.getLsbD i).toNat := by
  rw [← BitVec.testBit_toNat, Nat.toNat_testBit]; rfl

theorem bits_eq_ushiftRight (v : Word) (lo n : Nat) : bits v.toNat lo n = (v >>> lo).toNat % 2 ^ n := by
  rw [bits, BitVec.toNat_ushiftRight, Nat.shiftRight_eq_div_pow]

/-! ### One part of the package changes -/

theorem State.updFacet_becomes (s : State) (f : Nat) {u w : Facet → Facet} (h : w (s.facet f) = u (s.facet f)) : FacetBecomes s (s.updFacet f w) f u :=
  ⟨rfl, fun _ hg => s.facet_updFacet_ne w hg, (s.facet_updFacet_self f w).trans h⟩

theorem State.updCtx_becomes (s : State) (c : Nat) {u w : Ctx → Ctx} (h : w (s.ctx c) = u (s.ctx c)) : CtxBecomes s (s.updCtx c w) c u :=
  ⟨rfl, fun _ hg => s.ctx_updCtx_ne w hg, (s.ctx_updCtx_self c w).trans h⟩

theorem State.updSubq_becomes (s : State) (q : Nat) {u w : SubQ → SubQ} (h : w (s.subq q) = u (s.subq q)) : QueueBecomes s (s.updSubq q w) q u :=
  ⟨rfl, fun _ hg => s.subq_updSubq_ne w hg, (s.subq_updSubq_self q w).trans h⟩

/-! ### Register writes (R4, R5) -/

section
variable {r : SupReg} {v : Word} {s : State} {f : Nat}

theorem registerWrite_facet {u : Facet → Facet} {w : Facet} (hp : s.putReg r v.toNat = s.updFacet f (fun _ => w)) (h : w = u (s.facet f)) :
    Becomes (.registerWrite r v) s (fun t => FacetBecomes s t f u) := ⟨_, congrArg Host.Outcome.next hp, s.updFacet_becomes f h⟩

theorem registerWrite_ctx {u : Ctx → Ctx} {w : Ctx} (hp : s.putReg r v.toNat = s.updCtx f (fun _ => w)) (h : w = u (s.ctx f)) :
    Becomes (.registerWrite r v) s (fun t => CtxBecomes s t f u) := ⟨_, congrArg Host.Outcome.next hp, s.updCtx_becomes f h⟩

theorem registerWrite_queue {u : SubQ → SubQ} {w : SubQ} (hp : s.putReg r v.toNat = s.updSubq f (fun _ => w)) (h : w = u (s.subq f)) :
    Becomes (.registerWrite r v) s (fun t => QueueBecomes s t f u) := ⟨_, congrArg Host.Outcome.next hp, s.updSubq_becomes f h⟩

theorem registerWrite_hub {u : Hub → Hub} {w : Hub} (hp : s.putReg r v.toNat = { s with hub := w }) (h : w = u s.hub) :
    Becomes (.registerWrite r v) s (fun t => HubBecomes s t u) := ⟨_, congrArg Host.Outcome.next hp, h ▸ rfl⟩

end

/-- A write-one-to-clear bit (R4) stays unless it is written as one. -/
theorem and_not_and_bit (x v : Word) (i : Nat) : x &&& ~~~v &&& fieldMask i i = if v.getLsbD i then 0 else x &&& fieldMask i i := by
  refine BitVec.eq_of_getLsbD_eq fun j hj => ?_
  by_cases h : i ≤ j ∧ j ≤ i ∧ j < 64
  · obtain rfl : i = j := by omega
    cases hv : v.getLsbD i <;> simp [getLsbD_fieldMask, -BitVec.getLsbD_eq_getElem, hj, hv]
  · cases v.getLsbD i <;> simp [getLsbD_fieldMask, h]

/-- NQSTAT (R130): its overflow bit stays until it is written as one, the count below it takes the value written. -/
theorem ofNat_nqstat (x v : Word) : BitVec.ofNat 64 (part x.toNat 32 32 * (1 - bits v.toNat 32 1) + part v.toNat 31 0)
    = (x &&& ~~~v &&& 0x100000000) ||| (v &&& 0xFFFFFFFF) := by
  have overflow : (0x100000000 : Word) = fieldMask 32 32 := rfl
  have low : (0xFFFFFFFF : Word) = fieldMask 31 0 := rfl
  rw [overflow, low, and_not_and_bit, bits_one]
  cases v.getLsbD 32
  · simpa using ofNat_part_add x v 32 32 31 0 (by decide)
  · simp [ofNat_part]

/-- R4, R5: each register but NQSTAT and the write-one-to-clear bits keeps what one or two field masks leave of the value. -/
theorem registersTakeTheirFields : RegistersTakeTheirFields := by
  intro s v f k
  refine ⟨registerWrite_facet rfl ?migthr, registerWrite_facet rfl ?nqstat, registerWrite_facet rfl ?sntCtl, registerWrite_facet rfl ?sntRec,
    registerWrite_facet rfl ?nbwin, registerWrite_facet rfl ?pwinA, registerWrite_facet rfl ?deccnt, registerWrite_ctx rfl ?ptroot,
    registerWrite_ctx rfl ?stopst, registerWrite_ctx rfl ?wdoglim, registerWrite_ctx rfl ?locbase, registerWrite_queue rfl ?sqtick,
    registerWrite_hub rfl ?fabimg, registerWrite_hub rfl ?secmap, registerWrite_hub rfl ?secrgnA, registerWrite_hub rfl ?dbgtgt, ?reads⟩
  case migthr => simp only [ofNat_part]; rfl
  case nqstat => simp only [ofNat_nqstat]
  case sntCtl => simp only [ofNat_part]; rfl
  case sntRec => simp only [part_eq_and, BitVec.ofNat_toNat]; rfl
  case nbwin => simp only [ofNat_part_add_self v 55 12 0 0 (by decide)]; rfl
  case pwinA => simp only [ofNat_part_add_self v 53 21 0 0 (by decide)]; rfl
  case deccnt => simp only [part_eq_and]; rfl
  case ptroot => simp only [ofNat_part_add_self v 51 18 0 0 (by decide)]; rfl
  case stopst => simp only [bits_one]; cases v.getLsbD 0 <;> rfl
  case wdoglim => simp only [part_eq_and]; rfl
  case locbase => simp only [ofNat_part_add_self v 63 16 11 0 (by decide)]; rfl
  case sqtick => simp only [part_eq_and]; rfl
  case fabimg => simp only [BitVec.ofNat_toNat, BitVec.setWidth_eq]
  case secmap => simp only [ofNat_part]; rfl
  case secrgnA => simp only [ofNat_part_add_self v 51 16 0 0 (by decide)]; rfl
  case dbgtgt => simp only [ofNat_part]; rfl
  case reads => rintro r (rfl | rfl | rfl | rfl | rfl) <;> rfl

/-! ### Configuration writes (R327, R332, R338, R366, R374, R407, R414) -/

theorem not_log2nOk_iff (n : Nat) : (!log2nOk n) = true ↔ n < 4 ∨ 16 < n := by
  simp only [log2nOk, Bool.not_eq_true', Bool.and_eq_false_iff, decide_eq_false_iff_not]; omega

/-- SQCTL (R327, R349, R414). -/
theorem sqctlWrite_becomes (s : State) (v : Word) (q : Nat) : Becomes (.sqctlWrite q v) s (fun t =>
    let log2n := (v >>> 12).toNat % 32
    if log2n < 4 ∨ 16 < log2n then t = s
    else QueueBecomes s t q (fun x => { x with
      log2n := log2n, en := if v.getLsbD 22 = true ∧ s.hub.featDone = false then x.en else v.getLsbD 22, ns := v.getLsbD 23, asid := (v >>> 24).toNat % 2 ^ 16
      tryAt := s.cycle + 1, ticks := if v.getLsbD 22 then x.ticks
        else (x.ticks.map (fun y => if y.left = none then { y with left := some 0 } else y)).filter (fun y => decide (y.running ≠ none ∨ y.left ≠ some 0)) })) := by
  refine ⟨_, rfl, ?_⟩
  have size : bits v.toNat 12 5 = (v >>> 12).toNat % 32 := bits_eq_ushiftRight v 12 5
  simp only [not_log2nOk_iff, size]
  split
  · rfl
  · refine s.updSubq_becomes q ?_
    have enable : s.enAfter q (v.getLsbD 22) = if v.getLsbD 22 = true ∧ s.hub.featDone = false then (s.subq q).en else v.getLsbD 22 := by
      simp [State.enAfter]
    have endless (y : Tick) : (if y.left.isNone then { y with left := some 0 } else y) = if y.left = none then { y with left := some 0 } else y := by
      simp
    have lasts (y : Tick) : (y.running.isSome || decide (y.left ≠ some 0)) = decide (y.running ≠ none ∨ y.left ≠ some 0) := by
      cases y.running <;> simp
    simp only [enable, endless, lasts, bits_eq_ushiftRight]

/-- CIQCTL (R407). -/
theorem ciqctlWrite_becomes (s : State) (v : Word) (c : Nat) : Becomes (.ciqctlWrite c v) s (fun t =>
    let log2n := (v >>> 59).toNat % 32
    if log2n < 4 ∨ 16 < log2n then t = s else CtxBecomes s t c (fun x => { x with ciqLog := log2n, ciqLost := x.ciqLost && !v.getLsbD 58 })) := by
  refine ⟨_, rfl, ?_⟩
  have size : bits v.toNat 59 5 = (v >>> 59).toNat % 32 := bits_eq_ushiftRight v 59 5
  simp only [not_log2nOk_iff, size]
  split
  · rfl
  · exact s.updCtx_becomes c rfl

/-- FEATACC (R414): the first write alone counts. -/
theorem feataccWrite_becomes (s : State) (v : Word) :
    Becomes (.feataccWrite v) s (fun t => if s.hub.featDone then t = s else HubBecomes s t (fun x => { x with featacc := v.setWidth 8, featDone := true })) := by
  refine ⟨_, rfl, ?_⟩
  split
  · rfl
  · rfl

/-- RQUOTA (R374). -/
theorem rquotaWrite_becomes (s : State) (v : Word) (k : Nat) : Becomes (.rquotaWrite k v) s (fun t =>
    let n := v.toNat % 2 ^ 13
    let others := (((List.range 64).filter (fun i => i != k)).map (fun i => s.hub.rquota.get 1024 i)).sum
    if n < 64 ∨ 4096 < n ∨ 65536 < others + n then t = s else HubBecomes s t (fun x => { x with rquota := x.rquota.set 1024 k n })) := by
  refine ⟨_, rfl, ?_⟩
  have field : fieldNat v 12 0 = v.toNat % 2 ^ 13 := by simp [fieldNat]
  have rest : (fun i => decide (i ≠ k)) = fun i => i != k := by
    funext i
    by_cases h : i = k
    · rw [h, bne_self_eq_false]; exact decide_eq_false (fun n => n rfl)
    · rw [bne_iff_ne.2 h]; exact decide_eq_true h
  simp only [field, rest]
  split
  · rfl
  · rfl

/-! ### Cores that go offline (R338) -/

theorem State.cancelPreload_of_none (s : State) (c : Nat) (h : (s.core c).preload = none) : s.cancelPreload c = s := by
  rw [State.cancelPreload, h]

theorem State.bankParked_of_not_parked (s : State) (c b : Nat) (h : ((s.core c).banks.get {} b).st ≠ .parked) : s.bankParked c b = none := by
  simp [State.bankParked, h]

/-- A core without a preload and without parked banks goes offline at once. -/
theorem State.takeOffline_idle (s : State) (c : Nat) (hp : (s.core c).preload = none) (hb : ∀ b, ((s.core c).banks.get {} b).st ≠ .parked) :
    s.takeOffline c = s := by
  have none_parked : (List.range 8).filterMap (fun b => s.bankParked c b) = [] :=
    List.filterMap_eq_nil_iff.2 fun b _ => s.bankParked_of_not_parked c b (hb b)
  rw [State.takeOffline, s.cancelPreload_of_none c hp, none_parked]; rfl

/-- COREOFF (R338), where every core that it names is idle. -/
theorem coreoffWrite_becomes (s : State) (v : Word) (f k : Nat)
    (h : ∀ i, i < 64 → v.getLsbD i = true → (s.core (192 * f + 64 * k + i)).preload = none ∧ ∀ b, ((s.core (192 * f + 64 * k + i)).banks.get {} b).st ≠ .parked) :
    Becomes (.coreoffWrite f k v) s (fun t => FacetBecomes s t f (fun x => { x with coreoff := x.coreoff.set 0 k v })) := by
  refine ⟨_, rfl, ?_⟩
  dsimp only
  generalize hs : s.updFacet f (fun x => { x with coreoff := x.coreoff.set 0 k v }) = s'
  have cores (c : Nat) : s'.core c = s.core c := by rw [← hs, State.updFacet_core]
  rw [List.foldlRecOn (motive := fun t => t = s') _ _ rfl]
  · exact hs ▸ s.updFacet_becomes f rfl
  · rintro _ rfl i hi
    obtain ⟨hr, hv⟩ := List.mem_filter.1 hi
    rw [BitVec.getLsbD_and, Bool.and_eq_true] at hv
    obtain ⟨hp, hb⟩ := h i (List.mem_range.1 hr) hv.1
    exact State.takeOffline_idle _ _ (by rwa [cores]) (by rwa [cores])

/-- SQERR and FABACT (R332, R366) check nothing; the other writes are taken from the lemmas above. -/
theorem configurationWritesAreChecked : ConfigurationWritesAreChecked := fun s v k j =>
  ⟨sqctlWrite_becomes s v k, ⟨_, rfl, s.updSubq_becomes k rfl⟩, ciqctlWrite_becomes s v k, feataccWrite_becomes s v,
    ⟨_, rfl, rfl⟩, rquotaWrite_becomes s v k, fun _ _ h => coreoffWrite_becomes s v k j h⟩

/-- Settles O35, one register at a time: a field kept in place is the value under the field's mask, and each write is an update of one part of the package. -/
theorem registerWritesAreCheckedAndKept : Obligations.RegisterWritesAreCheckedAndKept :=
  ⟨registersTakeTheirFields, configurationWritesAreChecked⟩

end Sys2Proof.Machine
end

section
/-! PROOFS. Integer rows of the array (R146): the elements of a row, the operands of the integer formats, the exact sum of a column, and its saturation. -/

namespace Sys2Proof.Machine
open Sys2Proof.Claim

/-! ### Elements of a row -/

theorem elem_eq_column (r : Row) (n : Nat) : elem r n = column r n := by
  refine BitVec.eq_of_toNat_eq ?_
  rw [elem, column, BitVec.extractLsb'_toNat, BitVec.toNat_ofNat, Nat.shiftRight_eq_div_pow]

/-- The number whose digits in base 2^32 are the listed elements, the first lowest. -/
def digitsNum (f : Nat → BitVec 32) (l : List Nat) : Nat := l.foldr (fun i acc => (f i).toNat + 2 ^ 32 * acc) 0

theorem digitsNum_cons (f : Nat → BitVec 32) (i : Nat) (l : List Nat) : digitsNum f (i :: l) = (f i).toNat + 2 ^ 32 * digitsNum f l := rfl

theorem digitsNum_lt (f : Nat → BitVec 32) (l : List Nat) : digitsNum f l < 2 ^ (32 * l.length) := by
  induction l with
  | nil => exact Nat.one_pos
  | cons i l ih =>
    have digit := (f i).isLt
    rw [digitsNum_cons, List.length_cons, Nat.mul_succ, Nat.pow_add]
    omega

/-- Each element is read back at its own place. -/
theorem digitsNum_div_mod (f : Nat → BitVec 32) (l : List Nat) (n : Nat) (h : n < l.length) :
    digitsNum f l / 2 ^ (32 * n) % 2 ^ 32 = (f l[n]).toNat := by
  induction l generalizing n with
  | nil => exact absurd h (Nat.not_lt_zero n)
  | cons i l ih =>
    have digit := (f i).isLt
    cases n with
    | zero =>
      rw [digitsNum_cons, Nat.mul_zero, Nat.pow_zero, Nat.div_one, Nat.add_mul_mod_self_left, Nat.mod_eq_of_lt digit]
      rfl
    | succ n =>
      have rest : ((f i).toNat + 2 ^ 32 * digitsNum f l) / 2 ^ 32 = digitsNum f l := by omega
      rw [digitsNum_cons, Nat.mul_succ, Nat.add_comm (32 * n), Nat.pow_add, ← Nat.div_div_eq_div_mul, rest, ih n (Nat.lt_of_succ_lt_succ h)]
      rfl

theorem toNat_ofNat_digitsNum (f : Nat → BitVec 32) (l : List Nat) : (BitVec.ofNat (32 * l.length) (digitsNum f l)).toNat = digitsNum f l :=
  (BitVec.toNat_ofNat _ _).trans (Nat.mod_eq_of_lt (digitsNum_lt f l))

theorem toNat_ofElems (f : Nat → BitVec 32) : (ofElems f).toNat = digitsNum f (List.range 64) :=
  toNat_ofNat_digitsNum f (List.range 64)

theorem column_ofElems (f : Nat → BitVec 32) {n : Nat} (h : n < 64) : column (ofElems f) n = f n := by
  have listed : n < (List.range 64).length := by rwa [List.length_range]
  refine BitVec.eq_of_toNat_eq ?_
  rw [column, BitVec.toNat_ofNat, toNat_ofElems, digitsNum_div_mod f _ n listed, List.getElem_range]

/-! ### Operands of the integer formats (R137, R146) -/

/-- The integer that the exact path takes for a decoded operand. -/
def exactInt : Num → Int
  | .fin s m => if s then -(m.n : Int) else m.n
  | _ => 0

@[simp] theorem exactInt_ofInt (z : Int) : exactInt (Num.ofInt z) = z := by
  simp only [exactInt, Num.ofInt, Mag.ofNat, decide_eq_true_eq]
  split <;> omega

theorem isExactInt_of_intFormat {f : Nat} (h : intFormat f) : isExactInt f = true := by
  simpa [intFormat, isExactInt, or_assoc] using h

theorem signedOf_eq_toInt (w x : Nat) : signedOf w x = (BitVec.ofNat w x).toInt := by
  rw [signedOf, BitVec.toInt_eq_toNat_cond, BitVec.toNat_ofNat]
  simp

/-- Ternary elements (R138): 1 and -1 at the patterns 1 and 3. -/
theorem exactInt_ternary (x : Nat) : exactInt (operandNum 18 x) = intOf 18 x := by
  change exactInt (if x % 4 = 1 then Num.ofInt 1 else if x % 4 = 3 then Num.ofInt (-1) else Num.zero) =
    if x % 4 = 1 then 1 else if x % 4 = 3 then -1 else 0
  split
  · rfl
  · split
    · rfl
    · rfl

/-- Each integer format decodes to the integer that it stands for. -/
theorem exactInt_operandNum {f : Nat} (h : intFormat f) (x : Nat) : exactInt (operandNum f x) = intOf f x := by
  simp only [intFormat, List.mem_cons, List.not_mem_nil, or_false] at h
  obtain rfl | rfl | rfl | rfl | rfl | rfl | rfl := h
  · exact (exactInt_ofInt _).trans (signedOf_eq_toInt 8 x)
  · exact exactInt_ofInt _
  · exact (exactInt_ofInt _).trans (signedOf_eq_toInt 4 x)
  · exact exactInt_ofInt _
  · exact (exactInt_ofInt _).trans (signedOf_eq_toInt 2 x)
  · exact exactInt_ternary x
  · exact exactInt_ofInt _

/-! ### The exact sum of a column -/

/-- The sum of the products of a row of A with column `n` of the buffer, over the buffer's rows. -/
def intDot (fa : Nat) (xs : List Nat) (w : WBuf) (n : Nat) : Int :=
  ((List.range w.k).map (fun k => intOf fa (xs.getD k 0) * intOf w.fmt (column (w.rows.get 0 k) n).toNat)).sum

/-- Terms that are zero from `k` on do not count in a sum. -/
theorem sum_range_of_zero_from (g : Nat → Int) {k m : Nat} (hk : k ≤ m) :
    ((List.range m).map (fun i => if i < k then g i else 0)).sum = ((List.range k).map g).sum := by
  obtain ⟨j, rfl⟩ := Nat.exists_eq_add_of_le hk
  clear hk
  induction j with
  | zero => exact congrArg List.sum (List.map_congr_left fun i hi => if_pos (List.mem_range.1 hi))
  | succ j ih =>
    have past : ¬ k + j < k := Nat.not_lt.2 (Nat.le_add_right k j)
    rw [← Nat.add_assoc, List.range_succ, List.map_append, List.sum_append, ih, List.map_singleton, if_neg past, List.sum_singleton, Int.add_zero]

theorem zipWith_map_range {α β γ : Type} (d : α) (g : α → β → γ) (h : Nat → β) (xs : List α) :
    List.zipWith g xs ((List.range xs.length).map h) = (List.range xs.length).map (fun k => g (xs.getD k d) (h k)) := by
  refine List.ext_getElem (by simp) fun k _ hk => ?_
  have hx : k < xs.length := by simpa using hk
  simp [hx]

/-- The array's sum over all 128 K indexes: rows of the buffer from its k on are zero. -/
theorem exactSum_eq_intDot {fa : Nat} {xs : List Nat} {w : WBuf} (hfa : intFormat fa) (hw : intFormat w.fmt) (hk : w.k ≤ 128) (hxs : xs.length = 128) (n : Nat) :
    (List.zipWith (fun x y => exactInt (operandNum fa x) * exactInt y) xs (w.column n)).foldl (· + ·) 0 = intDot fa xs w n := by
  have term (k : Nat) : exactInt (operandNum fa (xs.getD k 0)) * exactInt (if k < w.k then operandNum w.fmt (elem (w.rows.get 0 k) n).toNat else Num.zero) =
      if k < w.k then intOf fa (xs.getD k 0) * intOf w.fmt (column (w.rows.get 0 k) n).toNat else 0 := by
    split
    · rw [exactInt_operandNum hfa, exactInt_operandNum hw, elem_eq_column]
    · exact Int.mul_zero _
  rw [WBuf.column, ← hxs, zipWith_map_range 0, ← List.sum_eq_foldl, funext term, hxs]
  exact sum_range_of_zero_from _ hk

/-! ### Accumulation (R146) -/

/-- The value before saturation. -/
def intTotal (ctl : Nat) (acc : BitVec 32) (sum : Int) : Int := sum + if ctl = 0 then 0 else acc.toInt

theorem intAcc_spec (ctl : Nat) (acc : BitVec 32) (sum : Int) :
    (intAcc ctl acc sum).1.toInt = saturated (intTotal ctl acc sum) ∧
      ((intAcc ctl acc sum).2 = true ↔ intTotal ctl acc sum ≠ saturated (intTotal ctl acc sum)) := by
  have total : (if ctl = 0 then sum else acc.toInt + sum) = intTotal ctl acc sum := by
    rw [intTotal]; split <;> omega
  rw [intAcc, total]
  generalize intTotal ctl acc sum = v
  split
  next above =>
    have cut : saturated v = 2 ^ 31 - 1 := by rw [saturated]; omega
    exact ⟨cut.symm, iff_of_true rfl (by omega)⟩
  next not_above =>
    split
    next below =>
      have cut : saturated v = -(2 ^ 31) := by rw [saturated]; omega
      exact ⟨cut.symm, iff_of_true rfl (by omega)⟩
    next not_below =>
      have kept : saturated v = v := by rw [saturated]; omega
      rw [kept]
      exact ⟨BitVec.toInt_ofInt_eq_self (by decide) (by omega) (by omega), iff_of_false Bool.false_ne_true (not_not_intro rfl)⟩

/-- Between integer formats an element takes the exact path. -/
theorem accElem_eq_intAcc {fa : Nat} {xs : List Nat} {w : WBuf} (scales : List Nat) (ctl : Nat) (fade acc : BitVec 32) (hfa : intFormat fa) (hw : intFormat w.fmt)
    (hk : w.k ≤ 128) (hxs : xs.length = 128) (n : Nat) : accElem fa xs scales w ctl fade acc n = intAcc ctl acc (intDot fa xs w n) := by
  rw [← exactSum_eq_intDot hfa hw hk hxs]
  exact if_pos (Bool.and_eq_true_iff.2 ⟨isExactInt_of_intFormat hfa, isExactInt_of_intFormat hw⟩)

theorem column_accRow (fa : Nat) (xs scales : List Nat) (w : WBuf) (ctl : Nat) (fade : BitVec 32) (acc : Row) {n : Nat} (h : n < 64) :
    column (accRow fa xs scales w ctl fade acc).1 n = (accElem fa xs scales w ctl fade (column acc n) n).1 := by
  rw [accRow, column_ofElems _ h, ← elem_eq_column]
  simp [h]

theorem accRow_saturates_iff (fa : Nat) (xs scales : List Nat) (w : WBuf) (ctl : Nat) (fade : BitVec 32) (acc : Row) :
    (accRow fa xs scales w ctl fade acc).2 = true ↔ ∃ n, n < 64 ∧ (accElem fa xs scales w ctl fade (column acc n) n).2 = true := by
  simp [accRow, elem_eq_column]

/-- Settles O24, one column at a time: the element takes the exact path, whose sum over 128 K indexes is the sum over the buffer's rows. -/
theorem integerRowsAccumulateExactly : Obligations.IntegerRowsAccumulateExactly := by
  intro fa xs scales w ctl fade acc hfa hw hk _ hxs
  have exact_path (n : Nat) : accElem fa xs scales w ctl fade (column acc n) n = intAcc ctl (column acc n) (intDot fa xs w n) :=
    accElem_eq_intAcc scales ctl fade _ hfa hw hk hxs n
  refine ⟨fun n hn => ?_, ?_⟩
  · rw [column_accRow _ _ _ _ _ _ _ hn, exact_path]
    exact (intAcc_spec ctl _ _).1
  · rw [accRow_saturates_iff]
    exact exists_congr fun n => and_congr_right fun _ => by rw [exact_path]; exact (intAcc_spec ctl _ _).2

end Sys2Proof.Machine
end
